-- ==== Sys2Proof/Word.lean ====
section
/-! DEFINITION.  The plain words of the Brotan 9: register, byte and field types, and their plainest arithmetic. -/

namespace Sys2Proof

/-- A general register or an address in flight (R25). -/
abbrev Word := BitVec 64
/-- One byte of memory (R1). -/
abbrev Byte := BitVec 8
/-- An instruction word, a step register, an FP32 pattern (R25, R67). -/
abbrev W32 := BitVec 32
/-- A field naming a `g` register (R69). -/
abbrev GReg := BitVec 6
/-- A field naming a `v` register (R69). -/
abbrev VReg := BitVec 6
/-- A field naming a `k` register (R69). -/
abbrev KReg := BitVec 4
/-- A field naming a `p` register (R69). -/
abbrev PReg := BitVec 4
/-- A field naming an `h` register (R69). -/
abbrev HReg := BitVec 5
/-- A field naming an outpost `w` register (R358). -/
abbrev WReg := BitVec 4
/-- A token pattern field: 0 none, 1 to 7 for tk1 to tk7 (R69). -/
abbrev Tk := BitVec 3
/-- A format code (R43). -/
abbrev Fmt := BitVec 4
/-- A handle register's contents (R28). -/
abbrev Handle := BitVec 128
/-- A vector register's contents, 512 bytes (R161). -/
abbrev VBits := BitVec 4096
/-- A predicate register's contents (R25). -/
abbrev PBits := BitVec 1024

/-- A core, cluster × 4 + core (R267). -/
abbrev CoreId := Fin 384
/-- A context: 0 the physical function, 1 to 384 the virtual functions (R245). -/
abbrev CtxId := Fin 385
/-- An outpost: 0 to 47 in HBM base dies, 48 to 143 in vault controllers, 144 to 147 in I/O dies (R11). -/
abbrev OutId := Fin 148
/-- A call frame of an outpost (R357). -/
abbrev FrameId := Fin 8

/-- The four streamed engines (R140). -/
inductive Eng where
  | ce | ae | ve | xe
  deriving DecidableEq, Repr

/-- The engine's number in the records of R407, R412 and R336. -/
def Eng.num : Eng → Nat
  | .ce => 0 | .ae => 1 | .ve => 2 | .xe => 3

/-- The engine of a two-bit code (R325). -/
def Eng.ofCode (b : BitVec 2) : Eng :=
  if b = 0 then .ce else if b = 1 then .ae else if b = 2 then .ve else .xe

/-- The six paths of R77. -/
inductive Path where
  | sc | vec | cp | mx | near | rem
  deriving DecidableEq, Repr

/-- The path's bit in a path mask (R77). -/
def Path.bit : Path → Nat
  | .sc => 0 | .vec => 1 | .cp => 2 | .mx => 3 | .near => 4 | .rem => 5

/-- The operators of the atomics (R321, R331). -/
inductive AtomOp where
  | add | min | max | and | or | xor | swap | cas
  deriving DecidableEq, Repr

/-- Sign-extends to a register (R104). -/
def sext {n : Nat} (x : BitVec n) : Word := x.signExtend 64
/-- Zero-extends to a register (R104). -/
def zext {n : Nat} (x : BitVec n) : Word := x.setWidth 64
/-- 1 for true, 0 for false, as a register. -/
def boolWord (b : Bool) : Word := if b then 1 else 0
/-- One bit as a bit vector. -/
def bit1 (b : Bool) : BitVec 1 := BitVec.ofBool b
/-- The field `[lo+len−1:lo]` of a bit vector (R1). -/
def fld {n : Nat} (x : BitVec n) (lo len : Nat) : BitVec len := x.extractLsb' lo len
/-- `x` with its field `[lo+len−1:lo]` replaced by `y`. -/
def setFld {n : Nat} (x : BitVec n) (lo len : Nat) (y : BitVec len) : BitVec n :=
  (x &&& ~~~((BitVec.allOnes len).setWidth n <<< lo)) ||| (y.setWidth n <<< lo)
/-- The number of one bits. -/
def popCount {n : Nat} (x : BitVec n) : Nat :=
  (List.range n).foldl (fun c i => if x.getLsbD i then c + 1 else c) 0

end Sys2Proof
end

