-- ==== Sys2Proof/Machine/Num.lean ====
section
/-! DEFINITION.  Numbers (R43 to R66): decoding a format, rounding, the overflow policies, the IEEE operations on
exact values, the 4-bit code family, and the coordinate hash. -/

namespace Sys2Proof.Num

/-! ### Values -/

/-- What an element reads as: a NaN, an infinity, or the exact real (−1)^neg × m × 2^e (R44, R45). -/
inductive Val where
  | nan
  | inf (neg : Bool)
  | fin (neg : Bool) (m : Nat) (e : Int)
  deriving DecidableEq, Repr

/-- A zero of a sign. -/
def Val.zero (neg : Bool) : Val := .fin neg 0 0
/-- Whether it is a zero. -/
def Val.isZero : Val → Bool
  | .fin _ m _ => m = 0
  | _ => false
/-- Whether it is a NaN. -/
def Val.isNan : Val → Bool
  | .nan => true
  | _ => false
/-- Whether it is an infinity. -/
def Val.isInf : Val → Bool
  | .inf _ => true
  | _ => false
/-- The sign. -/
def Val.neg : Val → Bool
  | .nan => false
  | .inf n => n
  | .fin n _ _ => n
/-- The value with its sign inverted. -/
def Val.flip : Val → Val
  | .nan => .nan
  | .inf n => .inf !n
  | .fin n m e => .fin (!n) m e
/-- The magnitude. -/
def Val.abs : Val → Val
  | .nan => .nan
  | .inf _ => .inf false
  | .fin _ m e => .fin false m e
/-- The value times 2^k. -/
def Val.scale (k : Int) : Val → Val
  | .fin n m e => .fin n m (e + k)
  | v => v
/-- An integer as a value. -/
def Val.ofInt (i : Int) : Val := .fin (decide (i < 0)) i.natAbs 0

/-- `m` moved up by a difference of exponents, 0 when it is not positive. -/
def shiftUp (m : Nat) (d : Int) : Nat := m * 2 ^ d.toNat

/-- Compares m1 × 2^e1 with m2 × 2^e2. -/
def cmpMag (m1 : Nat) (e1 : Int) (m2 : Nat) (e2 : Int) : Ordering :=
  let t := min e1 e2
  compare (shiftUp m1 (e1 - t)) (shiftUp m2 (e2 - t))

/-- floor(log2) of a nonzero magnitude. -/
def log2v (m : Nat) (e : Int) : Int := (Nat.log2 m : Int) + e

/-! ### Formats (R43, R44, R47) -/

/-- A floating format: exponent and fraction bits, bias, whether it has an infinity. -/
structure Flt where
  eb : Nat
  fb : Nat
  bias : Nat
  hasInf : Bool
  deriving DecidableEq, Repr

/-- The floating formats (R44). -/
def fltOf (f : Fmt) : Option Flt :=
  if f = 0 then some ⟨8, 23, 127, true⟩
  else if f = 1 then some ⟨5, 10, 15, true⟩
  else if f = 2 then some ⟨8, 7, 127, true⟩
  else if f = 3 then some ⟨4, 3, 7, false⟩
  else if f = 4 then some ⟨5, 2, 15, true⟩
  else none
/-- The integer formats: width and whether signed (R43). -/
def intOf (f : Fmt) : Option (Nat × Bool) :=
  if f = 5 then some (8, true) else if f = 6 then some (8, false)
  else if f = 7 then some (16, true) else if f = 8 then some (16, false)
  else if f = 9 then some (32, true) else if f = 10 then some (32, false)
  else if f = 11 then some (4, true) else if f = 12 then some (4, false)
  else none
/-- The element width of a format code; 0 for the reserved codes (R43). -/
def width (f : Fmt) : Nat :=
  if f = 0 ∨ f = 9 ∨ f = 10 then 32
  else if f = 1 ∨ f = 2 ∨ f = 7 ∨ f = 8 then 16
  else if f = 3 ∨ f = 4 ∨ f = 5 ∨ f = 6 then 8
  else if f = 11 ∨ f = 12 ∨ f = 13 then 4
  else 0
/-- The code of the largest finite magnitude. -/
def Flt.maxCode (f : Flt) : Nat := if f.hasInf then (2 ^ f.eb - 1) * 2 ^ f.fb - 1 else 2 ^ (f.eb + f.fb) - 2
/-- The code of +∞, where there is one. -/
def Flt.infCode (f : Flt) : Nat := (2 ^ f.eb - 1) * 2 ^ f.fb
/-- The canonical NaN (R45). -/
def Flt.nanCode (f : Flt) : Nat :=
  if f.hasInf then (2 ^ f.eb - 1) * 2 ^ f.fb + 2 ^ (f.fb - 1) else 2 ^ (f.eb + f.fb) - 1
/-- The sign bit of the format. -/
def Flt.signBit (f : Flt) (neg : Bool) : Nat := if neg then 2 ^ (f.eb + f.fb) else 0
/-- The exponent of the smallest normal value. -/
def Flt.emin (f : Flt) : Int := 1 - (f.bias : Int)

/-- What a floating code reads as (R44, R45). -/
def decodeFlt (f : Flt) (bits : Nat) : Val :=
  let neg := bits / 2 ^ (f.eb + f.fb) % 2 = 1
  let mag := bits % 2 ^ (f.eb + f.fb)
  let ef := mag / 2 ^ f.fb
  let fr := mag % 2 ^ f.fb
  if f.hasInf then
    if ef = 2 ^ f.eb - 1 then (if fr = 0 then .inf neg else .nan)
    else if ef = 0 then .fin neg fr (f.emin - f.fb)
    else .fin neg (2 ^ f.fb + fr) ((ef : Int) - f.bias - f.fb)
  else if mag = f.nanCode then .nan
  else if ef = 0 then .fin neg fr (f.emin - f.fb)
  else .fin neg (2 ^ f.fb + fr) ((ef : Int) - f.bias - f.fb)

/-- An integer code read as an integer (R47). -/
def intVal (w : Nat) (signed : Bool) (bits : Nat) : Int :=
  let b := bits % 2 ^ w
  if signed && decide (2 ^ (w - 1) ≤ b) then (b : Int) - 2 ^ w else b

/-- What a code of any plain format reads as. -/
def decodeVal (f : Fmt) (bits : Nat) : Val :=
  match fltOf f with
  | some x => decodeFlt x bits
  | none =>
    match intOf f with
    | some (w, sg) => .ofInt (intVal w sg bits)
    | none => .nan

/-- Whether a floating code is subnormal, which DAZ reads as zero (R56, R164). -/
def isSubnormal (f : Flt) (bits : Nat) : Bool :=
  let mag := bits % 2 ^ (f.eb + f.fb)
  decide (mag ≠ 0) && decide (mag < 2 ^ f.fb)
/-- A code read under DAZ (R164). -/
def decodeDaz (daz : Bool) (f : Fmt) (bits : Nat) : Val :=
  match fltOf f with
  | some x => if daz && isSubnormal x bits then .zero (bits / 2 ^ (x.eb + x.fb) % 2 = 1) else decodeFlt x bits
  | none => decodeVal f bits

/-! ### Rounding (R50 to R53) -/

/-- The rounding modes of R50. -/
inductive RMode where
  | rne | rtz | rdn | rup | sr
  deriving DecidableEq, Repr

/-- The mode of a code 0 to 4; FCW never holds another (R56). -/
def RMode.ofCode (c : BitVec 3) : RMode :=
  if c = 1 then .rtz else if c = 2 then .rdn else if c = 3 then .rup else if c = 4 then .sr else .rne

/-- m × 2^e, plus less than one unit of m when `st`, rounded to a multiple of 2^q: the multiple, and whether it is
inexact (R50, R52).  `h` is the coordinate hash's low 16 bits. -/
def roundAt (mode : RMode) (neg : Bool) (m : Nat) (e : Int) (st : Bool) (q : Int) (h : Nat) : Nat × Bool :=
  if q ≤ e then (shiftUp m (e - q), st)
  else
    let d := (q - e).toNat
    let lo := m / 2 ^ d
    let rem := m % 2 ^ d
    let inexact := decide (rem ≠ 0) || st
    let up := match mode with
      | .rne => decide (2 ^ d < 2 * rem) || (decide (2 * rem = 2 ^ d) && (st || decide (lo % 2 = 1)))
      | .rtz => false
      | .rdn => neg && inexact
      | .rup => !neg && inexact
      | .sr => inexact && decide (65536 ≤ rem * 65536 / 2 ^ d + h)
    (if up then lo + 1 else lo, inexact)

/-- The flags of FCW bits 12:8: invalid, division by zero, overflow, underflow, inexact (R56). -/
abbrev Flags := BitVec 5
/-- No flag. -/
def noFlags : Flags := 0
/-- Invalid. -/
def fNV : Flags := 1
/-- Division by zero. -/
def fDZ : Flags := 2
/-- Overflow. -/
def fOF : Flags := 4
/-- Underflow. -/
def fUF : Flags := 8
/-- Inexact. -/
def fNX : Flags := 16

/-- A finite magnitude rounded to a floating format with the exponent unbounded above: the code, which may lie
above the largest finite one, whether it is inexact, and whether it is tiny after rounding (R51, R56). -/
def roundCode (f : Flt) (mode : RMode) (neg : Bool) (m : Nat) (e : Int) (st : Bool) (h : Nat) :
    Nat × Bool × Bool :=
  if m = 0 then (0, st, false)
  else
    let top := log2v m e
    let q := max top f.emin - f.fb
    let r := roundAt mode neg m e st q h
    let code := (q + f.fb + f.bias - 1).toNat * 2 ^ f.fb + r.1
    let tiny :=
      if top < f.emin then
        let r2 := roundAt mode neg m e st (top - f.fb) h
        !(decide (top = f.emin - 1) && decide (r2.1 = 2 ^ (f.fb + 1)))
      else false
    (code, r.2, tiny)

/-- The IEEE default of an overflow: the infinity, or the largest finite value by direction (R51). -/
def ieeeOverflow (f : Flt) (mode : RMode) (neg : Bool) : Nat :=
  f.signBit neg + match mode with
    | .rne | .sr => f.infCode
    | .rtz => f.maxCode
    | .rdn => if neg then f.infCode else f.maxCode
    | .rup => if neg then f.maxCode else f.infCode

/-- `Round(v, f, m)` under the IEEE default and FTZ (R51, R164): the code and the flags. -/
def roundIeee (f : Flt) (mode : RMode) (ftz : Bool) (h : Nat) (v : Val) : Nat × Flags :=
  match v with
  | .nan => (f.nanCode, noFlags)
  | .inf neg => (f.signBit neg + f.infCode, noFlags)
  | .fin neg m e =>
    let r := roundCode f mode neg m e false h
    if f.maxCode < r.1 then (ieeeOverflow f mode neg, fOF ||| fNX)
    else if ftz && decide (0 < r.1) && decide (r.1 < 2 ^ f.fb) then (f.signBit neg, fUF ||| fNX)
    else
      (f.signBit neg + r.1,
        if r.2.1 then (if r.2.2 then fNX ||| fUF else fNX) else noFlags)

/-- The FP32 format. -/
def fp32 : Flt := ⟨8, 23, 127, true⟩
/-- The canonical FP32 NaN (R45). -/
def nan32 : W32 := 0x7FC00000
/-- An FP32 code read as a value. -/
def val32 (x : W32) : Val := decodeFlt fp32 x.toNat
/-- A value rounded to FP32 in RNE, without flags. -/
def rne32 (v : Val) : W32 := BitVec.ofNat 32 (roundIeee fp32 .rne false 0 v).1

/-! ### IEEE operations on values (R46, R167) -/

/-- The exact sum of two finite values, with the sign of an exact zero (R46). -/
def addFin (rdn : Bool) (n1 : Bool) (m1 : Nat) (e1 : Int) (n2 : Bool) (m2 : Nat) (e2 : Int) : Val :=
  if m1 = 0 ∧ m2 = 0 then .zero (if n1 = n2 then n1 else rdn)
  else
    let t := min e1 e2
    let a : Int := if n1 then -(shiftUp m1 (e1 - t)) else shiftUp m1 (e1 - t)
    let b : Int := if n2 then -(shiftUp m2 (e2 - t)) else shiftUp m2 (e2 - t)
    let s := a + b
    if s = 0 then .zero rdn else .fin (decide (s < 0)) s.natAbs t

/-- x + y, and whether the operation is invalid. -/
def addV (rdn : Bool) (x y : Val) : Val × Bool :=
  match x, y with
  | .nan, _ => (.nan, false)
  | _, .nan => (.nan, false)
  | .inf a, .inf b => if a = b then (.inf a, false) else (.nan, true)
  | .inf a, .fin .. => (.inf a, false)
  | .fin .., .inf b => (.inf b, false)
  | .fin n1 m1 e1, .fin n2 m2 e2 => (addFin rdn n1 m1 e1 n2 m2 e2, false)
/-- x × y, and whether the operation is invalid. -/
def mulV (x y : Val) : Val × Bool :=
  match x, y with
  | .nan, _ => (.nan, false)
  | _, .nan => (.nan, false)
  | .inf a, .inf b => (.inf (a != b), false)
  | .inf a, .fin b m _ => if m = 0 then (.nan, true) else (.inf (a != b), false)
  | .fin a m _, .inf b => if m = 0 then (.nan, true) else (.inf (a != b), false)
  | .fin n1 m1 e1, .fin n2 m2 e2 => (.fin (n1 != n2) (m1 * m2) (e1 + e2), false)
/-- x × y + z, rounded later and once; a product of a zero and an infinity is invalid whatever z is (R167). -/
def fmaV (rdn : Bool) (x y z : Val) : Val × Bool :=
  let p := mulV x y
  let s := addV rdn p.1 z
  (s.1, p.2 || s.2)

/-- The order of two values that are no NaN; −0 equals +0. -/
def cmpV (x y : Val) : Ordering :=
  match x, y with
  | .nan, _ => .eq
  | _, .nan => .eq
  | .inf a, .inf b => if a = b then .eq else if a then .lt else .gt
  | .inf a, .fin .. => if a then .lt else .gt
  | .fin .., .inf b => if b then .gt else .lt
  | .fin n1 m1 e1, .fin n2 m2 e2 =>
    if m1 = 0 ∧ m2 = 0 then .eq
    else if m1 = 0 then (if n2 then .gt else .lt)
    else if m2 = 0 then (if n1 then .lt else .gt)
    else if n1 ≠ n2 then (if n1 then .lt else .gt)
    else if n1 then cmpMag m2 e2 m1 e1 else cmpMag m1 e1 m2 e2

/-- A sum in FP32 under RNE, every NaN canonical (R179, R329, R330). -/
def add32 (x y : W32) : W32 := rne32 (addV false (val32 x) (val32 y)).1

/-! ### Conversion under an overflow policy (R53, R54, R169) -/

/-- What a conversion gives: the code, the flags, and the trap of policy 3. -/
structure Cvt where
  bits : Nat
  flags : Flags := 0
  /-- FP_INVALID or FP_OVERFLOW under policy 3 -/
  trap : Option Nat := none
  deriving DecidableEq, Repr

/-- Fault codes of R55. -/
def fpInvalid : Nat := 0x10
/-- FP_DIVZERO. -/
def fpDivZero : Nat := 0x11
/-- FP_OVERFLOW. -/
def fpOverflow : Nat := 0x12

/-- The result of an overflow or an infinite input at a floating target, by policy (R54). -/
def policyFlt (f : Flt) (pol : BitVec 2) (neg : Bool) : Nat :=
  if pol = 0 then f.signBit neg + f.maxCode
  else if pol = 1 ∧ f.hasInf then f.signBit neg + f.infCode
  else f.nanCode

/-- Conversion to a floating format. -/
def cvtFlt (f : Flt) (mode : RMode) (pol : BitVec 2) (ftz : Bool) (h : Nat) (v : Val) : Cvt :=
  match v with
  | .nan => { bits := f.nanCode, trap := if pol = 3 then some fpInvalid else none }
  | .inf neg =>
    { bits := policyFlt f pol neg
      flags := if pol = 3 ∨ (pol = 1 ∧ f.hasInf) then noFlags else fNV
      trap := if pol = 3 then some fpOverflow else none }
  | .fin neg m e =>
    let r := roundCode f mode neg m e false h
    if f.maxCode < r.1 then
      { bits := policyFlt f pol neg, flags := fOF ||| fNX, trap := if pol = 3 then some fpOverflow else none }
    else if ftz && decide (0 < r.1) && decide (r.1 < 2 ^ f.fb) then
      { bits := f.signBit neg, flags := fUF ||| fNX }
    else
      { bits := f.signBit neg + r.1
        flags := if r.2.1 then (if r.2.2 then fNX ||| fUF else fNX) else noFlags }

/-- Conversion to an integer format. -/
def cvtInt (w : Nat) (signed : Bool) (mode : RMode) (pol : BitVec 2) (h : Nat) (v : Val) : Cvt :=
  let lo : Int := if signed then -(2 ^ (w - 1) : Nat) else 0
  let hi : Int := if signed then (2 ^ (w - 1) : Nat) - 1 else (2 ^ w : Nat) - 1
  let code := fun (i : Int) => (i % (2 ^ w : Nat)).toNat
  let past := fun (neg : Bool) => if pol = 2 then code lo else if neg then code lo else code hi
  match v with
  | .nan =>
    { bits := if pol = 2 then code lo else 0, flags := fNV, trap := if pol = 3 then some fpInvalid else none }
  | .inf neg =>
    { bits := past neg, flags := fNV, trap := if pol = 3 then some fpOverflow else none }
  | .fin neg m e =>
    let r := roundAt mode neg m e false 0 h
    let i : Int := if neg then -(r.1 : Int) else r.1
    if i < lo ∨ hi < i then
      { bits := past neg, flags := fNV ||| fOF, trap := if pol = 3 then some fpOverflow else none }
    else { bits := code i, flags := if r.2 then fNX else noFlags }

/-- Conversion of a value to a plain format under a policy. -/
def cvt (f : Fmt) (mode : RMode) (pol : BitVec 2) (ftz : Bool) (h : Nat) (v : Val) : Cvt :=
  match fltOf f with
  | some x => cvtFlt x mode pol ftz h v
  | none =>
    match intOf f with
    | some (w, sg) => cvtInt w sg mode pol h v
    | none => { bits := 0 }

/-- FP_INVALID before FP_DIVZERO before FP_OVERFLOW (R55). -/
def worse (a b : Option Nat) : Option Nat :=
  match a, b with
  | none, y => y
  | x, none => x
  | some x, some y => some (min x y)

/-! ### The 4-bit code family (R48, R49, R53, R171) -/

/-- The magnitudes of a type's indices (R49). -/
def f4Row (ty : Nat) : List Nat :=
  if ty = 2 then [0, 1, 2, 4, 8, 16, 32, 64] else [0, 1, 2, 3, 4, 6, 8, 12]
/-- The type exponent X. -/
def f4X (ty : Nat) : Int := if ty = 1 then -1 else if ty = 2 then -3 else 0
/-- The integer I with its sign that a code stands for (R49). -/
def f4Int (ty code : Nat) : Int :=
  if ty = 0 then intVal 4 true code
  else
    let i : Int := (f4Row ty).getD (code % 8) 0
    if 8 ≤ code % 16 then -i else i
/-- The value of a code under a scale byte (R48, R49). -/
def f4Val (scale code : Nat) : Val :=
  let se := scale % 64
  let ty := scale / 64 % 4
  if se = 63 then .nan
  else
    let i := f4Int ty code
    if i = 0 then .zero false else .fin (decide (i < 0)) i.natAbs (f4X ty + se - 32)

/-- The members of the positive half of a type in order, as multiples of 2^X. -/
def f4Members (ty : Nat) (neg : Bool) : List Nat :=
  if ty = 0 then (if neg then [0, 1, 2, 3, 4, 5, 6, 7, 8] else [0, 1, 2, 3, 4, 5, 6, 7]) else f4Row ty
/-- The code of the member of an index and a sign; every zero is written 0b0000 (R49). -/
def f4Code (ty : Nat) (neg : Bool) (idx : Nat) : Nat :=
  if idx = 0 then 0
  else if ty = 0 then (if neg then (16 - idx) % 16 else idx)
  else if neg then 8 + idx else idx

/-- The greatest index whose member does not exceed a magnitude. -/
def f4Floor (m : Nat) (e x : Int) : List Nat → Nat → Nat → Nat
  | [], _, best => best
  | k :: ks, i, best => f4Floor m e x ks (i + 1) (if cmpMag k x m e = .gt then best else i)

/-- The member chosen for (−1)^neg × m × 2^e (R53): its index and whether it is inexact; none on an overflow. -/
def f4Round (ty : Nat) (mode : RMode) (neg : Bool) (m : Nat) (e : Int) (h : Nat) : Option (Nat × Bool) :=
  let ms := f4Members ty neg
  let x := f4X ty
  if cmpMag m e (ms.getLastD 0) x = .gt then none
  else
    let k := f4Floor m e x ms 0 0
    let lo := ms.getD k 0
    if cmpMag lo x m e = .eq then some (k, false)
    else
      let hi := ms.getD (k + 1) lo
      let t := min e x
      let y := shiftUp m (e - t)
      let l := shiftUp lo (x - t)
      let u := shiftUp hi (x - t)
      let up := match mode with
        | .rne => decide (l + u < 2 * y) || (decide (l + u = 2 * y) && decide (k % 2 = 1))
        | .rtz => false
        | .rdn => neg
        | .rup => !neg
        | .sr => decide (65536 ≤ 65536 * (y - l) / (u - l) + h)
      some (if up then k + 1 else k, true)

/-- V_max of a type (R171). -/
def f4Max (ty : Nat) : Nat := if ty = 0 then 7 else if ty = 1 then 6 else if ty = 2 then 8 else 12
/-- The smallest e with V_max × 2^e ≥ m × 2^x. -/
def f4Exp (ty m : Nat) (x : Int) : Int :=
  let g := log2v m x - (Nat.log2 (f4Max ty) : Int)
  if cmpMag (f4Max ty) g m x = .lt then g + 1 else g

/-- A quantised block: 32 codes, the scale byte, the flags and the trap of policy 3. -/
structure F4Block where
  codes : List Nat
  scale : Nat
  flags : Flags := 0
  trap : Option Nat := none
  deriving DecidableEq, Repr

/-- A block marked NaN (R54). -/
def f4Nan (ty n : Nat) (flags : Flags) : F4Block := { codes := List.replicate n 0, scale := ty * 64 + 63, flags := flags }

/-- One element of a block at a scale exponent: its code, flags, and whether it overflows.  A code that does not
decode to the input raises NX, which a saturated infinity's is (entry 77). -/
def f4Elem (ty : Nat) (mode : RMode) (sc : Int) (h : Nat) (v : Val) : Nat × Flags × Bool :=
  match v with
  | .nan => (0, noFlags, false)
  | .inf neg => (f4Code ty neg ((f4Members ty neg).length - 1), fNV ||| fNX, true)
  | .fin neg m e =>
    if m = 0 then (0, noFlags, false)
    else
      match f4Round ty mode neg m (e - sc) h with
      | none => (f4Code ty neg ((f4Members ty neg).length - 1), fOF ||| fNX, true)
      | some (k, inexact) =>
        (f4Code ty neg k,
          if inexact then (if cmpMag m (e - sc) 1 (f4X ty) = .lt then fNX ||| fUF else fNX) else noFlags, false)

/-- The scale exponent SE of a block, from its finite elements (R171). -/
def f4Scale (ty : Nat) (xs : List Val) : Nat :=
  let best := xs.foldl (fun (b : Option Int) v =>
    match v with
    | .fin _ m e =>
      if m = 0 then b
      else
        match b with
        | none => some (f4Exp ty m e)
        | some y => some (max y (f4Exp ty m e))
    | _ => b) none
  match best with
  | none => 32
  | some e => (min (max (32 + e) 0) 62).toNat

/-- Quantisation of one block (R171).  A NaN block keeps the flags of the elements that made it one (entry 77). -/
def f4Block (ty : Nat) (mode : RMode) (pol : BitVec 2) (xs : List Val) (hs : List Nat) : F4Block :=
  let anyNan := xs.any Val.isNan
  let anyInf := xs.any Val.isInf
  if anyNan || (anyInf && decide (pol ≠ 0)) then
    if pol = 3 then
      { codes := [], scale := 0, trap := if anyNan then some fpInvalid else some fpOverflow }
    else f4Nan ty xs.length (if anyNan then noFlags else fNV ||| fNX)
  else
    let se := f4Scale ty xs
    let out := List.zipWith (fun v h => f4Elem ty mode (se - 32) h v) xs hs
    let past := out.any (·.2.2)
    let flags := out.foldl (fun f o => f ||| o.2.1) noFlags
    if past && decide (pol = 3) then { codes := [], scale := 0, trap := some fpOverflow }
    else if past && decide (pol ≠ 0) then f4Nan ty xs.length flags
    else { codes := out.map (·.1), scale := ty * 64 + se, flags := flags }

/-! ### The running maximum (R59, R60) -/

/-- AMAX after an input element. -/
def amaxStep (a : BitVec 64) (v : Val) : BitVec 64 :=
  match v with
  | .nan => a ||| 0x100000000
  | _ =>
    let m := (roundIeee fp32 .rup false 0 v.abs).1 % 2 ^ 31
    if (fld a 0 31).toNat < m then setFld a 0 31 (BitVec.ofNat 31 m) else a

/-! ### The coordinate hash (R66) -/

/-- The constants C[0..5]. -/
def hashC : List W32 := [0x7A3D1C95, 0xC2B84E07, 0x19F6A3D1, 0xE45C0B6F, 0x8D217F3A, 0x36C9E582]

/-- One round with its key word and constant. -/
def hashRound (key con : W32) (s : W32 × W32 × W32 × W32) : W32 × W32 × W32 × W32 :=
  let a := s.1 + (key ^^^ con)
  let d := (s.2.2.2 ^^^ a).rotateLeft 11
  let c := s.2.2.1 + d
  let b := (s.2.1 ^^^ c).rotateLeft 5
  let a := a + b
  let d := (d ^^^ a).rotateLeft 13
  let c := c + d
  let b := (b ^^^ c).rotateLeft 9
  (a, b, c, d)

/-- The hash's rounds over the constants that remain; `i` is the round's number. -/
def hashRounds (seed : BitVec 64) : Nat → List W32 → W32 × W32 × W32 × W32 → W32 × W32 × W32 × W32
  | _, [], s => s
  | i, c :: cs, s => hashRounds seed (i + 1) cs (hashRound (if i % 2 = 0 then fld seed 0 32 else fld seed 32 32) c s)

/-- `Hash(seed, step, tid, row, col)`. -/
def hash (seed : BitVec 64) (step : W32) (tid : BitVec 16) (row col : W32) : BitVec 64 :=
  let s := hashRounds seed 0 hashC (col, row, step, 0x5BD10000 ^^^ tid.setWidth 32)
  (s.2.2.1 ^^^ s.2.1) ++ (s.1 ^^^ s.2.2.2)

end Sys2Proof.Num
end

