-- ==== Sys2Proof/Config.lean ====
section
/-! DEFINITION.  What an implementation fixes and the spec leaves open: the free values of entry 9,
and the constants the spec states once for the whole device. -/

namespace Sys2Proof.Config

/-- A value the spec leaves open, one for each tick of the model's free-value counter (entry 9). -/
opaque freeValue : Nat → BitVec 64

/-- The promised completion delay of a copy, counted from the issue tick; R343 fixes only that the promise is
no earlier than the issue tick plus 1, so one is added to a free value (entry 9). -/
def promiseDelay (n : Nat) : BitVec 64 := (freeValue n &&& 0xFFFFFFFF#64) + 1

/-- The lane that carries a channel toward a peer (R445); no rule says which channels share one (entry 9). -/
opaque laneOf : Nat → Nat → Nat

/-- How many ticks the fabric's time is ahead of `CYC` when the package takes it (R443): a free value (entry 9). -/
def fabricAhead (n : Nat) : Nat := (freeValue n).toNat

/-- Whether the stack's read utilisation is at least 75 % at an AUTO `BLOAD` (R209): a free value (entry 9). -/
def autoBusy (n : Nat) : Bool := (freeValue n).getLsbD 0

/-- 1 GHz ticks in a millisecond-scale bound: ticket expiry, call run, pre-emption (R359, R410, R416). -/
def tenMs : Nat := 10000000
/-- The call timeout of R363, in ticks. -/
def callTimeout : Nat := 12000000
/-- The candidate wait of R260 and the READY wait of R421, in ticks. -/
def oneMs : Nat := 1000000
/-- The cycle bound of R151, R222 and R310. -/
def cycleBound : Nat := 1048576
/-- The cycles after which a write that has stepped is visible at core scope on every path (R400). -/
def visibleCycles : Nat := 1048576
/-- The fixed latency of a translation in cycles (R272). -/
def xltCycles : Nat := 32
/-- The region length limit of R414. -/
def regionLimit : Nat := 65536
/-- The size of core scratch in bytes (R14). -/
def scratchBytes : Nat := 0x200000
/-- The arithmetic clock in MHz at an operating point (R13). -/
def clockMHz (op : BitVec 2) : Nat :=
  if op = 0 then 850 else if op = 1 then 700 else if op = 2 then 550 else 400

/-- REC word 3 of a page-fault record, by the walk's reason; R271 has the reason recorded and gives no place and no
values (entry 84). -/
opaque reasonWord : Nat → BitVec 64

/-- The source unit of an error-log entry, by the kind of event; R462 names the field and gives no values
(entry 9). -/
opaque logUnit : Nat → BitVec 16
/-- The severity of an error-log entry where no rule says it, by the kind of event: 0 corrected, 1 uncorrected or 2 fatal
(R462, entry 9). -/
opaque logSeverity : Nat → Fin 3
/-- The cause of an error-log entry, by the kind of event (entry 9). -/
opaque logCause : Nat → BitVec 8
/-- The detail of an error-log entry, by the kind of event (entry 9). -/
opaque logDetail : Nat → BitVec 80

/-- The SHAKE256 digest, 64 bytes, of the public key under which firmware verifies, as it is fused in the device: no rule gives
its value (R464, entry 70). -/
opaque fusedKey : List (BitVec 8)
/-- SLH-DSA-SHAKE-256s verification of FIPS 205, by the public key, the message and the signature (R464, entry 70). -/
opaque slhDsaVerifies : List (BitVec 8) → List (BitVec 8) → List (BitVec 8) → Bool
/-- The security version number of a firmware image; where an image holds it, no rule says (R464, entry 70). -/
opaque imageSvn : List (BitVec 8) → BitVec 32
/-- Word `n` of the signature of an SPDM response under the device's identity key, by the time of the response and what it
reports (R464, entry 70). -/
opaque spdmSignature : Nat → List (BitVec 64) → Nat → BitVec 64

end Sys2Proof.Config
end

