-- ==== Sys2Proof/Machine/Tab.lean ====
section
/-! DEFINITION.  Plain-data containers: tables from numbers to values with a default, and sparse memory in
one canonical form. -/

namespace Sys2Proof.Machine

/-- A finite table; a key that is absent reads as the default its reader names. -/
abbrev Tab (α : Type) := List (Nat × α)

/-- The value at a key, or the default. -/
def tget {α : Type} (d : α) : Tab α → Nat → α
  | [], _ => d
  | (k, v) :: t, n => if k = n then v else tget d t n

/-- The table without a key. -/
def tdel {α : Type} (t : Tab α) (n : Nat) : Tab α := t.filter fun e => e.1 != n

/-- Inserts before the first larger key. -/
def tins {α : Type} (n : Nat) (v : α) : Tab α → Tab α
  | [] => [(n, v)]
  | (k, w) :: t => if n < k then (n, v) :: (k, w) :: t else (k, w) :: tins n v t

/-- The table with a key set to a value. -/
def tset {α : Type} (t : Tab α) (n : Nat) (v : α) : Tab α := tins n v (tdel t n)

/-- Sparse memory: (address, byte) pairs, addresses strictly rising, no byte equal to what an unlisted address
reads as. -/
abbrev Memory := List Host.Cell

/-- What an unlisted address reads as: 0, the reset contents of HBM, vaults and the LPDDR tier (R458) and of
core scratch (R266). -/
def Memory.unlisted : Byte := 0

/-- The byte at an address. -/
def Memory.read (m : Memory) (a : Nat) : Byte := tget Memory.unlisted m a

/-- The memory with one byte written; writing what an unlisted address reads as removes the entry. -/
def Memory.write (m : Memory) (a : Nat) (b : Byte) : Memory :=
  if b = Memory.unlisted then tdel m a else tset m a b

/-- Addresses strictly above `lo`, strictly rising, no entry equal to the unlisted byte. -/
def Memory.wfFrom (lo : Option Nat) : Memory → Bool
  | [] => true
  | (k, b) :: t =>
    (match lo with
     | none => true
     | some l => l < k) && b != Memory.unlisted && Memory.wfFrom (some k) t

/-- The canonical form. -/
def Memory.wf (m : Memory) : Bool := Memory.wfFrom none m

/-- The `n` bytes from an address, lowest first. -/
def Memory.readN (m : Memory) (a n : Nat) : List Byte := (List.range n).map fun i => m.read (a + i)

/-- Writes bytes from an address, lowest first. -/
def Memory.writeN (m : Memory) (a : Nat) : List Byte → Memory
  | [] => m
  | b :: bs => (m.write a b).writeN (a + 1) bs

/-- Bytes, lowest first, as a number (R1). -/
def leNat : List Byte → Nat
  | [] => 0
  | b :: bs => b.toNat + 256 * leNat bs

/-- The `n` low bytes of a number, lowest first (R1). -/
def natBytes : Nat → Nat → List Byte
  | 0, _ => []
  | n + 1, x => BitVec.ofNat 8 x :: natBytes n (x / 256)

end Sys2Proof.Machine
end

