-- ==== Sys2Proof/Syntax.lean ====
section
/-! DEFINITION.  The instructions of the Brotan 9: one constructor of `Instr` per row of the opcode table. -/

namespace Sys2Proof

/-! ### Matrix command records (R200, R203, R207, R211 to R213, R226, R239) -/

/-- The header of a matrix command record, without KIND (R200). -/
structure MxHdr where
  swe : Bool
  swi : BitVec 4
  sse : Bool
  ssi : BitVec 4
  deriving DecidableEq, Repr

/-- The tile fields of R200. -/
structure MxTile where
  row0 : BitVec 9
  mrows : BitVec 6
  col0 : BitVec 3
  ncols : BitVec 3
  deriving DecidableEq, Repr

/-- `MMA`, `MMAZ` and `ABANK` (R203). -/
structure MmaRec where
  hdr : MxHdr
  af : Fmt
  aw : BitVec 2
  scl : BitVec 2
  oq : Bool
  row0 : BitVec 9
  mrows : BitVec 6
  col0 : BitVec 3
  seq : BitVec 8
  aaddr : BitVec 21
  astride : BitVec 20
  deriving DecidableEq, Repr

/-- `BLOAD` (R207). -/
structure BloadRec where
  hdr : MxHdr
  bf : Fmt
  bw : BitVec 2
  slot : Bool
  src : Bool
  place : BitVec 2
  hreg : HReg
  kb : BitVec 4
  nb : BitVec 3
  cstr : BitVec 20
  rh : BitVec 4
  baddr : BitVec 32
  saddr : BitVec 32
  deriving DecidableEq, Repr

/-- `BSLOT` (R211). -/
structure BslotRec where
  hdr : MxHdr
  slot : Bool
  rel : Bool
  deriving DecidableEq, Repr

/-- `ACCZ` (R212). -/
structure AcczRec where
  hdr : MxHdr
  tile : MxTile
  deriving DecidableEq, Repr

/-- `DRAIN` (R213). -/
structure DrainRec where
  hdr : MxHdr
  outf : Fmt
  rm : BitVec 3
  ovf : BitVec 2
  clr : Bool
  tile : MxTile
  act : BitVec 3
  sc : Bool
  bi : Bool
  rs : Bool
  dropout : Bool
  dst : BitVec 15
  pb : BitVec 15
  dstr : BitVec 12
  deriving DecidableEq, Repr

/-- `PRJ` (R226): a `DRAIN` record and the projection fields. -/
structure PrjRec where
  drain : DrainRec
  set : BitVec 3
  rsrc : BitVec 2
  span : BitVec 4
  recs : Bool
  deriving DecidableEq, Repr

/-- `PRJADJ` (R239). -/
structure AdjRec where
  hdr : MxHdr
  outf : Fmt
  rm : BitVec 3
  ovf : BitVec 2
  clr : Bool
  tile : MxTile
  dst : BitVec 15
  pb : BitVec 15
  dstr : BitVec 12
  set : BitVec 3
  span : BitVec 4
  deriving DecidableEq, Repr

/-! ### Operand groups -/

/-- W2 of `RCALL` (R360). -/
structure CallW2 where
  entry : BitVec 10
  pb : GReg
  pn : BitVec 4
  rb : GReg
  rn : BitVec 3
  nr : Bool
  deriving DecidableEq, Repr

/-- W2 of `TLD` and `TLDT` (R312). -/
structure TldW2 where
  twm : BitVec 9
  thm : BitVec 9
  kreg : KReg
  q : Bool
  rm : BitVec 3
  ovf : BitVec 2
  deriving DecidableEq, Repr

/-- The five operand fields of a short vector form (R81, R82). -/
structure VOps where
  d : BitVec 6
  a : BitVec 6
  b : BitVec 6
  fmt : Fmt
  tk : Tk
  deriving DecidableEq, Repr

/-- W2 of the extended vector form (R82). -/
structure VW2 where
  op : BitVec 6
  pred : PReg
  rm : BitVec 3
  ovf : BitVec 2
  daz : Bool
  deriving DecidableEq, Repr

/-- What a remote access asks of the owner (R436, R441). -/
inductive RemOp where
  /-- a load of n bytes -/
  | load (n : Nat)
  /-- a store of these bytes -/
  | store (data : List Byte)
  /-- a unit of a store that keeps some bits: a mask and the new bits of each byte, in one atomic step (R187, R384) -/
  | bits (masks data : List Byte)
  /-- an atomic: operator, type code of R80, operand, comparand -/
  | atom (op : AtomOp) (ty : BitVec 2) (x cmp : Word)
  /-- the elements of a `NADD`, FP32 or INT32 -/
  | add (int : Bool) (data : List W32)
  /-- a call: entry, payload, whether no reply is expected, and the permissions of the caller's handle (R358, R435) -/
  | call (entry : BitVec 10) (payload : List Word) (nr : Bool) (perm : BitVec 3)
  deriving DecidableEq, Repr

/-- A remote access as it arrives at the owner's gateway: the requesting peer, its own tag for the access
and the requesting stream, the path it travels on (R389), the fabric address and the operation. -/
structure RemReq where
  peer : BitVec 12
  tag : Nat
  strm : Nat
  path : Path
  addr : BitVec 57
  op : RemOp
  deriving DecidableEq, Repr

/-- The quantities that a lantern-port sensor read names (R460, R463). -/
inductive Sensor where
  | cluster (n : Nat) | die (n : Nat) | stack (n : Nat) | inputPower
  deriving DecidableEq, Repr

/-- What a change of the health word sets (R20, R461). -/
inductive HealthChange where
  /-- the management plane fences a core for a cause of its own -/
  | fence (c : CoreId)
  /-- it raises the replace request -/
  | replace
  /-- it publishes the present state of the other fields -/
  | publish
  deriving DecidableEq, Repr

/-- A register page a write addresses (R453). -/
inductive RegPage where
  | ctx (c : CtxId) | device
  deriving DecidableEq, Repr

/-- Who writes an instruction memory (R411). -/
inductive ImemWriter where
  | host | stream (c : CoreId) (e : Eng)
  deriving DecidableEq, Repr

/-- One constructor per row of the opcode table, in the table's order. -/
inductive Instr where
  -- the shared control subset (R73 to R78)
  | add (d a b : GReg)
  | sub (d a b : GReg)
  | mul (d a b : GReg)
  | mulh (d a b : GReg)
  | mulhu (d a b : GReg)
  | madd (d a b : GReg)
  | div (d a b : GReg)
  | divu (d a b : GReg)
  | rem (d a b : GReg)
  | remu (d a b : GReg)
  | and (d a b : GReg)
  | or (d a b : GReg)
  | xor (d a b : GReg)
  | shl (d a b : GReg)
  | shr (d a b : GReg)
  | sha (d a b : GReg)
  | min (d a b : GReg)
  | max (d a b : GReg)
  | minu (d a b : GReg)
  | maxu (d a b : GReg)
  | clz (d a : GReg)
  | popc (d a : GReg)
  | cmp (cc : BitVec 4) (d a b : GReg)
  | sel (d a b c : GReg)
  | addi (d a : GReg) (imm : BitVec 13)
  | andi (d a : GReg) (imm : BitVec 13)
  | ori (d a : GReg) (imm : BitVec 13)
  | xori (d a : GReg) (imm : BitVec 13)
  | shli (d a : GReg) (n : BitVec 6)
  | shri (d a : GReg) (n : BitVec 6)
  | shai (d a : GReg) (n : BitVec 6)
  | bfx (d a : GReg) (pos len1 : BitVec 6)
  | bfxS (d a : GReg) (pos len1 : BitVec 6)
  | bfi (d a : GReg) (pos len1 : BitVec 6)
  | li (d : GReg) (imm : BitVec 19)
  | lui (d : GReg) (imm : BitVec 19)
  | bcz (cc : BitVec 4) (a : GReg) (off : BitVec 15)
  | bc (cc : BitVec 4) (a b : GReg) (off : BitVec 9)
  | jmp (l a : GReg)
  | call (l : GReg) (off : BitVec 19)
  | loop (lc : BitVec 2) (c : GReg) (body : BitVec 12)
  | loopi (lc : BitVec 2) (n : BitVec 10) (body : BitVec 12)
  | loopr (lc : BitVec 2) (c : GReg) (body : BitVec 12)
  | leave (lc : BitVec 2)
  | ld (d a : GReg) (imm : BitVec 10) (sz : BitVec 3)
  | st (d a : GReg) (imm : BitVec 10) (sz : BitVec 3)
  | ldHandle (d a : GReg) (h : HReg) (imm : BitVec 5) (sz : BitVec 3)
  | stHandle (d a : GReg) (h : HReg) (imm : BitVec 5) (sz : BitVec 3)
  | spl (d : GReg) (sz : BitVec 3) (off : BitVec 12)
  | sps (d : GReg) (sz : BitVec 3) (off : BitVec 12)
  | kmovKFromG (d : KReg) (a : GReg)
  | kmovGFromK (d : GReg) (a : KReg)
  | kmovKFromK (d a : KReg)
  | kaddi (d a : KReg) (imm : BitVec 13)
  | twait (m : BitVec 3)
  | tsig (m : BitVec 3)
  | fence (scope : BitVec 3)
  | xfence (scope : BitVec 3) (paths : BitVec 6)
  | waitc (a : GReg)
  | csrr (d : GReg) (num : BitVec 12)
  | csrw (num : BitVec 12) (a : GReg)
  | trap (n : BitVec 13)
  | nop
  | rdv
  | tret
  | lil (d : GReg) (imm : BitVec 51)
  | ldAq (d a : GReg) (imm : BitVec 13) (sz scope : BitVec 3) (paths : BitVec 6) (hf : Bool) (h : HReg)
  | stRl (d a : GReg) (imm : BitVec 13) (sz scope : BitVec 3) (paths : BitVec 6) (hf : Bool) (h : HReg)
  | region (mask : BitVec 31)
  -- the CE private half (R79)
  | mqpush (a : GReg) (tk : Tk)
  | mqdrop (d : GReg) (tk : Tk)
  | mqdepth (d : GReg) (tk : Tk)
  | mqdepthClr (d : GReg) (tk : Tk)
  | semw (i : BitVec 4) (n1 : BitVec 6) (tk : Tk)
  | sems (i : BitVec 4) (n1 : BitVec 6) (tk : Tk)
  | bsel (k : BitVec 2) (d a b : GReg) (tk : Tk)
  | launch (d a : GReg) (tk : Tk)
  | ftw (n : BitVec 6) (a : GReg) (engs : BitVec 4) (tk : Tk)
  | kitld (d a b : GReg) (fmt : Fmt) (tk : Tk)
  | rwait (a : GReg) (tk : Tk)
  | rpoll (d a : GReg) (tk : Tk)
  | yield (d : GReg) (tk : Tk)
  | gsfset (d a : GReg) (tk : Tk)
  | gsfsetOr (d a : GReg) (tk : Tk)
  | rcall (d a : GReg) (h : HReg) (tk : Tk) (w : CallW2)
  -- the AE private half (R80)
  | qld (fmt : Fmt) (d a b : GReg) (tk : Tk)
  | scq (a b : GReg) (tk : Tk)
  | gld (s : BitVec 3) (d : GReg) (h : HReg) (a : GReg) (tk : Tk)
  | gst (s : BitVec 3) (d : GReg) (h : HReg) (a : GReg) (tk : Tk)
  | amoAdd (loc : Bool) (h : HReg) (ty : BitVec 2) (a b : GReg) (tk : Tk)
  | amoMin (loc : Bool) (h : HReg) (ty : BitVec 2) (a b : GReg) (tk : Tk)
  | amoMax (loc : Bool) (h : HReg) (ty : BitVec 2) (a b : GReg) (tk : Tk)
  | amoAnd (loc : Bool) (h : HReg) (ty : BitVec 2) (a b : GReg) (tk : Tk)
  | amoOr (loc : Bool) (h : HReg) (ty : BitVec 2) (a b : GReg) (tk : Tk)
  | amoXor (loc : Bool) (h : HReg) (ty : BitVec 2) (a b : GReg) (tk : Tk)
  | amoSwap (loc : Bool) (h : HReg) (ty : BitVec 2) (a b : GReg) (tk : Tk)
  | amoCas (loc : Bool) (h : HReg) (ty : BitVec 2) (a b : GReg) (tk : Tk)
  | xlt (need : BitVec 3) (h : HReg) (a b : GReg) (tk : Tk)
  | xltw (need : BitVec 3) (h : HReg) (a b : GReg) (tk : Tk)
  | hinvAll (tk : Tk)
  | hinvRid (a : GReg) (tk : Tk)
  | hinvRange (a b : GReg) (tk : Tk)
  | hinvRangeRem (a b : GReg) (tk : Tk)
  | hchk (d : GReg) (h : HReg) (tk : Tk)
  | hchkAddr (d : GReg) (h : HReg) (tk : Tk)
  | hmov (eng : BitVec 2) (d a : HReg) (tk : Tk)
  | kget (k : KReg) (a : GReg) (tk : Tk)
  | wrel (a : GReg) (k : KReg) (tk : Tk)
  | tupd (h : HReg) (a b : GReg) (tk : Tk)
  | tskip (a : GReg) (tk : Tk)
  | nred (fmt : Fmt) (d a b : GReg) (tk : Tk)
  | nadd (fmt : Fmt) (h : HReg) (a b : GReg) (tk : Tk)
  | namoAdd (ty : BitVec 2) (h : HReg) (a b : GReg) (tk : Tk)
  | namoMax (ty : BitVec 2) (h : HReg) (a b : GReg) (tk : Tk)
  | namoSwap (ty : BitVec 2) (h : HReg) (a b : GReg) (tk : Tk)
  | namoCas (ty : BitVec 2) (h : HReg) (a b : GReg) (tk : Tk)
  | nfence (tk : Tk)
  | nfencePoll (d : GReg) (tk : Tk)
  | nseq (a : GReg) (tk : Tk)
  | rwaitAe (a : GReg) (tk : Tk)
  | tkq (d a : GReg) (tk : Tk)
  | tkqCnt (d : GReg) (tk : Tk)
  | pft (h : HReg) (a b : GReg) (tk : Tk)
  | tld (d a b : GReg) (fmt : Fmt) (tk : Tk) (w : TldW2)
  | tldt (d a b : GReg) (fmt : Fmt) (tk : Tk) (w : TldW2)
  | tst (d a b : GReg) (fmt : Fmt) (tk : Tk) (twm thm : BitVec 9) (rm : BitVec 3) (ovf : BitVec 2)
  | rcallAe (d a : GReg) (h : HReg) (tk : Tk) (w : CallW2)
  -- the VE private half (R81)
  | vadd (d a b : VReg) (fmt : Fmt) (tk : Tk)
  | vsub (d a b : VReg) (fmt : Fmt) (tk : Tk)
  | vmul (d a b : VReg) (fmt : Fmt) (tk : Tk)
  | vfma (d a b : VReg) (fmt : Fmt) (tk : Tk)
  | vfms (d a b : VReg) (fmt : Fmt) (tk : Tk)
  | vmin (d a b : VReg) (fmt : Fmt) (tk : Tk)
  | vmax (d a b : VReg) (fmt : Fmt) (tk : Tk)
  | vand (d a b : VReg) (fmt : Fmt) (tk : Tk)
  | vor (d a b : VReg) (fmt : Fmt) (tk : Tk)
  | vxor (d a b : VReg) (fmt : Fmt) (tk : Tk)
  | vshl (d a b : VReg) (fmt : Fmt) (tk : Tk)
  | vshr (d a b : VReg) (fmt : Fmt) (tk : Tk)
  | vsha (d a b : VReg) (fmt : Fmt) (tk : Tk)
  | vabs (d a : VReg) (fmt : Fmt) (tk : Tk)
  | vneg (d a : VReg) (fmt : Fmt) (tk : Tk)
  | vwadd (d a b : VReg) (fmt : Fmt) (tk : Tk)
  | vwmul (d a b : VReg) (fmt : Fmt) (tk : Tk)
  | vwfma (d a b : VReg) (fmt : Fmt) (tk : Tk)
  | vnrw (d a : VReg) (src fmt : Fmt) (tk : Tk)
  | vcvt (d a : VReg) (src fmt : Fmt) (tk : Tk)
  | vqnt (d a : VReg) (ty : BitVec 2) (fmt : Fmt) (tk : Tk)
  | vdqt (d a : VReg) (fmt : Fmt) (tk : Tk)
  | vcmp (c : BitVec 2) (p : PReg) (a b : VReg) (fmt : Fmt) (tk : Tk)
  | vsel (d a b : VReg) (fmt : Fmt) (tk : Tk)
  | pand (d a b : PReg) (tk : Tk)
  | por (d a b : PReg) (tk : Tk)
  | pxor (d a b : PReg) (tk : Tk)
  | pnot (d a : PReg) (tk : Tk)
  | pcnt (d : GReg) (a : PReg) (sz : BitVec 2) (tk : Tk)
  | pfirst (d : GReg) (a : PReg) (sz : BitVec 2) (tk : Tk)
  | pstage (p : PReg) (a : GReg) (sz : BitVec 2) (m : BitVec 3) (tk : Tk)
  | vperm (d a b : VReg) (fmt : Fmt) (tk : Tk)
  | vshuf (d a b : VReg) (tk : Tk)
  | vbcast (d : VReg) (a : GReg) (fmt : Fmt) (tk : Tk)
  | vextr (d : GReg) (a : VReg) (b : GReg) (fmt : Fmt) (tk : Tk)
  | vins (d : VReg) (a b : GReg) (fmt : Fmt) (tk : Tk)
  | vslide (d a : VReg) (b : GReg) (fmt : Fmt) (tk : Tk)
  | vzip (d a b : VReg) (fmt : Fmt) (tk : Tk)
  | vuzp (d a : VReg) (fmt : Fmt) (tk : Tk)
  | vrsum (d a : VReg) (fmt : Fmt) (tk : Tk)
  | vrmax (d a : VReg) (fmt : Fmt) (tk : Tk)
  | vrmin (d a : VReg) (fmt : Fmt) (tk : Tk)
  | vscan (d a : VReg) (fmt : Fmt) (tk : Tk)
  | vsegr (d a : VReg) (p : PReg) (fmt : Fmt) (tk : Tk)
  | vsort (d a : VReg) (fmt : Fmt) (tk : Tk)
  | vsortDesc (d a : VReg) (fmt : Fmt) (tk : Tk)
  | vuniq (p : PReg) (a : VReg) (fmt : Fmt) (tk : Tk)
  | vexp2 (d a : VReg) (tk : Tk)
  | vlog2 (d a : VReg) (tk : Tk)
  | vrcp (d a : VReg) (tk : Tk)
  | vrsq (d a : VReg) (tk : Tk)
  | vexp (d a : VReg) (tk : Tk)
  | vtanh (d a : VReg) (tk : Tk)
  | vsig (d a : VReg) (tk : Tk)
  | vgelu (d a : VReg) (tk : Tk)
  | vhash (d : VReg) (fmt : Fmt) (tk : Tk)
  | vdrop (d a : VReg) (b : GReg) (fmt : Fmt) (tk : Tk)
  | vld (d : VReg) (a : GReg) (hf : Bool) (h : HReg) (fmt : Fmt) (tk : Tk)
  | vst (d : VReg) (a : GReg) (hf : Bool) (h : HReg) (fmt : Fmt) (tk : Tk)
  | vlds (d : VReg) (a b : GReg) (fmt : Fmt) (tk : Tk)
  | vsts (d : VReg) (a b : GReg) (fmt : Fmt) (tk : Tk)
  | vgth (d : VReg) (a : GReg) (b : VReg) (fmt : Fmt) (tk : Tk)
  | vsct (d : VReg) (a : GReg) (b : VReg) (fmt : Fmt) (tk : Tk)
  | accrd (d : VReg) (a : GReg) (tk : Tk)
  | accwr (d : VReg) (a : GReg) (tk : Tk)
  | vrotb (a : GReg) (tk : Tk)
  | vdefer (k1 : BitVec 2) (a : VReg) (p : PReg) (fmt : Fmt) (tk : Tk)
  | vdrain (d : VReg) (a : GReg) (fmt : Fmt) (tk : Tk)
  | vdqn (d a : GReg) (tk : Tk)
  | extendedVectorForm (o : VOps) (w : VW2)
  -- the XE private half (R83)
  | xcopy (d a b : GReg) (tk : Tk)
  | xmcast (m : BitVec 4) (d a b : GReg) (tk : Tk)
  | xrot (d a b : GReg) (tk : Tk)
  | xfill (d a b : GReg) (tk : Tk)
  | binit (a b : GReg) (tk : Tk)
  | binitClr (a b : GReg) (tk : Tk)
  | bwait (a b : GReg) (tk : Tk)
  | bqry (d a : GReg) (tk : Tk)
  | barr (tk : Tk)
  | fsend (a b : GReg) (tk : Tk)
  | frecv (a : GReg) (tk : Tk)
  | fwiden (a : GReg) (tk : Tk)
  | xltx (need : BitVec 3) (h : HReg) (a b : GReg) (tk : Tk)
  | xstat (d b : GReg) (tk : Tk)
  | xstatWait (d a b : GReg) (tk : Tk)
  | xcancel (d b : GReg) (tk : Tk)
  | xcopy2d (d a b : GReg) (tk : Tk) (rows1 : BitVec 12)
  | freq (d a : GReg) (tk : Tk) (dur : BitVec 24)
  -- the outpost private half (R84, R358)
  | old (d a : GReg) (sz : BitVec 3)
  | ost (d a : GReg) (sz : BitVec 3)
  | oamoAdd (ty : BitVec 2) (a b : GReg)
  | oamoMax (ty : BitVec 2) (a b : GReg)
  | oamoSwap (ty : BitVec 2) (a b : GReg)
  | oamoCas (ty : BitVec 2) (a b : GReg)
  | ovadd (d a b : WReg)
  | ovmul (d a b : WReg)
  | ovfma (d a b : WReg)
  | ovmax (d a b : WReg)
  | ovld (d : WReg) (a : GReg)
  | ovst (d : WReg) (a : GReg)
  | oreply (n : BitVec 3) (a : GReg)
  -- the matrix commands (R200)
  | mnop
  | mma (r : MmaRec)
  | mmaz (r : MmaRec)
  | bload (r : BloadRec)
  | bslot (r : BslotRec)
  | accz (r : AcczRec)
  | drain (r : DrainRec)
  | prj (r : PrjRec)
  | prjadj (r : AdjRec)
  | semsig (h : MxHdr)
  | abank (r : MmaRec)
  -- translation and memory units
  | translationLookup (c : CoreId) (e : Eng) (id : Nat)
  | pageWalkEnd (c : CoreId) (e : Eng) (id : Nat)
  | invalidationComplete (id : Nat)
  | tileRequest (c : CoreId) (id : Nat)
  | stepWaitResume (c : CoreId) (id : Nat)
  | waitExpired (c : CoreId) (id : Nat)
  | qldAppend (c : CoreId) (id : Nat)
  | gatherPerform (c : CoreId) (id : Nat)
  | nredPerform (c : CoreId) (id : Nat)
  | naddPerform (c : CoreId) (id : Nat)
  | namoPerform (c : CoreId) (id : Nat)
  | nearMemoryReply (c : CoreId) (id : Nat)
  | bankSequencerRun (c : CoreId) (id : Nat)
  | stepRelease (c : CoreId) (id : Nat)
  | temperUpdate (c : CoreId) (id : Nat)
  -- copies, calls
  | copyLanding (c : CoreId) (slot : BitVec 4)
  | xrotRotationStart (c : CoreId)
  | promiseMiss (c : CoreId)
  | remoteCallStart (o : OutId) (f : FrameId)
  | callRunTimeout (o : OutId) (f : FrameId)
  | callReply (c : CoreId) (e : Eng) (tag : BitVec 4)
  | callLost (c : CoreId) (e : Eng)
  -- the fabric
  | remoteAccessArrival (r : RemReq)
  | remoteReply (c : CoreId) (e : Eng) (id : Nat) (data : List Byte)
  | remoteFaultReply (c : CoreId) (e : Eng) (id : Nat) (code : BitVec 16) (addr pc word : Word)
  | faultTicket (c : CoreId) (e : Eng) (id : Nat)
  | replayNotice (c : CoreId) (peer : BitVec 12) (page : BitVec 33)
  | ticketExpired (c : CoreId) (entry : BitVec 5)
  | exportWalkEnd (c : CtxId) (page : BitVec 24)
  | ticketCancelNotice (peer : BitVec 12) (strm : Nat) (c : CtxId) (page : BitVec 24)
  | peerUnreach (c : CoreId) (e : Eng) (id : Nat)
  | hostLossNotice (peer : BitVec 12)
  | slotSendStart (c : CoreId) (slot : BitVec 4)
  | slotArrival (c : CoreId) (peer : BitVec 12) (chan : BitVec 8) (data : BitVec 512)
  | bookingLapse (c : CoreId) (n : Nat)
  -- whole-job steps
  | tokenDeadlock (c : CoreId)
  | impreciseReportTimeout (c : CoreId) (e : Eng)
  | regionLong (c : CoreId) (e : Eng)
  -- submission, graphs, selection
  | doorbellWrite (c : CtxId) (q : BitVec 4) (tail : BitVec 32)
  | submissionFetch (c : CtxId) (q : BitVec 4)
  | graphStart (c : CtxId) (q : BitVec 4)
  | graphNodeWalk (g n : Nat)
  | graphNodeCopy (g n : Nat)
  | copyNodeComplete (g n : Nat)
  | graphNodeCondition (g n : Nat)
  | graphNodeSwitch (g n : Nat)
  | graphNodeEvent (g n : Nat)
  | graphNodeLoop (g n : Nat)
  | poolAllocation
  | placementDecision
  | energyBudgetUpdate
  | headroomReading (cluster : Fin 96) (h : BitVec 32)
  | preemptionRequest
  | gangDiscard (g : Nat)
  | preemptionWithdrawn (g : Nat)
  | bankReadyTimeout (c : CoreId)
  | pageFaultRecordReoffer (c : CoreId) (bankB : Bool)
  -- resets, link, power
  | functionLevelReset (c : CtxId)
  | moduleReset
  | moduleResetDone
  | hostLinkLoss
  | hostLossDiscardTimeout (g : Nat)
  | hostLinkReturn
  | thermalTrip (die : BitVec 2)
  | thermalTripEnd (die : BitVec 2)
  | operatingPointChange
  | healthWordUpdate (h : HealthChange)
  | coreMemoryError (c : CoreId)
  | refreshErrorFound (addr : BitVec 45) (uncorrected : Bool)
  | powerDownEntry (chan : Nat)
  | selfRefreshEntry (chan : Nat)
  -- host register commands
  | sqctlWrite (c : CtxId) (q : BitVec 4) (v : Word)
  | fqctlWrite (c : CtxId) (v : Word)
  | fqctlRead (c : CtxId)
  | fqresume (c : CtxId) (v : Word)
  | kitregRegister (c : CtxId) (ptr : Word)
  | kitregUnregister (c : CtxId) (ptr : Word)
  | invctlGo (c : CtxId) (v : Word)
  | exresume (c : CtxId) (v : Word)
  | devctlMrst
  | devctlHoldclr
  | opctlWrite (v : Word)
  | ebmaxWrite (v : Word)
  | logrdSelect (v : Word)
  | logrdDrain
  | instructionMemoryWrite (w : ImemWriter) (c : CoreId) (e : Eng) (addr : BitVec 16) (v : W32)
  | registerWrite (p : RegPage) (off : BitVec 16) (v : Word)
  -- the lantern port
  | sensorRead (x : Sensor)
  | firmwareUpdate (image key signature : List (BitVec 8)) (complete : Bool)
  | attestation
  | getHealth
  | readLog (n : BitVec 2)
  | resetModule
  | releaseHold
  | readEnergy
  | functionLevelResetDone (c : CtxId)
  | kitRegistrationDone (c : CtxId)
  | timeBaseLock (locked : Bool)
  | powerLoss
  deriving DecidableEq, Repr

end Sys2Proof
end

