-- ==== Sys2Proof/Machine/State.lean ====
section
/-! DEFINITION.  The machine's state as plain data: everything the spec gives the machine, the schedule that
says which agent moves next (entry 1), and the state right after reset. -/

namespace Sys2Proof.Machine

/-- Why a step faults.  Every trap of the spec is a next state; the model faults only on a schedule that names
a unit the module does not have. -/
inductive Fault where
  /-- raised by `step` for a turn that names a core of 384 or above, or an outpost of 148 or above (R9, R11):
  there is no such unit; safe -/
  | noSuchUnit
  deriving DecidableEq, Repr

/-- Why a step is refused. -/
inductive Refusal where
  /-- an instruction the model gives no meaning yet, by its mnemonic; safe -/
  | notModelled (mnemonic : String)
  /-- raised by `step` for an event turn that names an instruction a stream must fetch; safe -/
  | notAnEvent
  deriving DecidableEq, Repr

/-! ### A stream -/

/-- Where a stream stands in its job (R134, R135, R39). -/
inductive Life where
  /-- the engine has no image, or no job -/
  | off
  | running
  /-- `RDV` completed -/
  | done
  /-- stopped by a job failure -/
  | stopped
  deriving DecidableEq, Repr

/-- A hardware loop (R111). -/
structure Loop where
  count : W32 := 0
  ls : Word := 0
  le : Word := 0
  active : Bool := false
  /-- started by `LOOPR` (R115) -/
  rot : Bool := false
  deriving DecidableEq, Repr

/-- A stream's region record in its checkpoint slot (R132, R412). -/
structure RegionRec where
  rpc : Word := 0
  mask : BitVec 31 := 0
  done : Bool := false
  sealed : Bool := false
  loops : Tab Loop := []
  order : List Nat := []
  regs : Tab Word := []
  deriving DecidableEq, Repr

/-- A fault owed to a stream (R222, R310, R348, R437, R410): its place in issue order, code, class and
TRAPREC words, the die cycle at which it was raised, and whether it carries the ME as its source. -/
structure Owed where
  seq : Nat
  code : Nat
  cls : Nat
  words : List Word
  since : Nat
  me : Bool := false
  /-- it is a fault of a step-named request (R297) -/
  step : Bool := false
  deriving DecidableEq, Repr

/-- What the pattern of an instruction still has to signal: the lines and the semaphore (R148). -/
structure Sig where
  lines : BitVec 3 := 0
  sse : Bool := false
  ssi : BitVec 4 := 0
  deriving DecidableEq, Repr

/-- What a wait step has taken from its bank (R148): for each line the chain that its token carried, and the semaphore
with the chain that it carried. -/
structure Took where
  lines : List (Nat × Tab Nat) := []
  sem : Option (BitVec 4 × Tab Nat) := none
  deriving DecidableEq, Repr

/-- A match rule of an invalidation (R274). -/
inductive InvMatch where
  | all
  | rid (r : BitVec 7)
  | range (rem : Bool) (base len : Nat)
  deriving DecidableEq, Repr

/-- A translation in flight (R272, R273). -/
structure Xlate where
  id : Nat
  hreg : HReg
  greg : GReg
  ptr : Word
  need : BitVec 3
  bperm : BitVec 3
  /-- arithmetic cycle of issue -/
  at_ : Nat
  /-- the address and the words of the instruction whose page fault an answer's walk serves (R424) -/
  pf : Option (Word × Word) := none
  walking : Bool := false
  /-- the handle register has not been written or invalidated since -/
  live : Bool := true
  /-- the rules of the invalidations of its context that have run since it was issued (R273, R275) -/
  invs : List InvMatch := []
  deriving DecidableEq, Repr

/-- The translation that made a handle: its pointer, the permissions asked and those of its bounds entry.  An
answer to a page fault walks the pointer again (R424). -/
structure HOrigin where
  ptr : Word := 0
  need : BitVec 3 := 0
  bperm : BitVec 3 := 0
  /-- why its walk found no translation: 0 not present, 1 bad entry, 2 unmapped, 3 permission (R271), 4 an entry that
  could not be read (entry 87) -/
  reason : Nat := 0
  deriving DecidableEq, Repr

/-- A tensor descriptor (R277). -/
structure Desc where
  fmt : Fmt
  ndim : Nat
  dh : HReg
  sh : HReg
  sv : Bool
  ph : HReg
  hv : Bool
  tid : BitVec 16
  ext : List Nat
  str : List Nat
  doff : Nat
  soff : Nat
  deriving DecidableEq, Repr

/-- What a tile request carries (R278, R313). -/
structure TileReq where
  desc : Desc
  dh : Handle
  sh : Handle
  ph : Handle
  c : List Int
  tw : Nat
  th : Nat
  outf : Fmt
  rm : BitVec 3
  ovf : BitVec 2
  dst : Nat
  pad : BitVec 16
  q : Bool
  transposed : Bool
  step : W32
  seed : Word
  stepTid : Word
  rowCol : Word
  /-- the tile read from core scratch at issue order, for `TST` -/
  store : Bool
  deriving DecidableEq, Repr

/-- A tile-class request of an AE stream (R309). -/
inductive ReqKind where
  | tile (t : TileReq)
  | qld (fmt : Fmt) (addr m k : Nat) (scale : Option Nat)
  | gather (store : Bool) (size loc : Nat) (h : Handle) (offs : List Nat)
  | wrel (desc : Desc) (ph dh : Handle) (step : W32)
  | update (skip : Bool) (desc : Desc) (ph dh gh : Handle) (goff : Nat)
  deriving DecidableEq, Repr

/-- A tile of the operand queue (R317). -/
structure OqTile where
  m : Nat
  k : Nat
  fmt : Fmt
  bytes : List Byte
  scales : List Byte
  deriving DecidableEq, Repr

/-- An outstanding request: its number, its place in issue order, its instruction, what it asks, and, for a
step-named request that waits (R292), the tick at which its wait expires with the REL and the named step it sampled;
`tile` is a tile that waits for its place in the operand queue (R317). -/
structure Req where
  id : Nat
  seq : Nat
  pc : Word
  w1 : W32
  w2 : W32
  kind : ReqKind
  sig : Sig := {}
  waiting : Option (Nat × W32 × W32) := none
  /-- what a resolved step-named request has sampled: REL, the named step and COMMIT (R291, R299, R303) -/
  sampled : Option (W32 × W32 × W32) := none
  tile : Option OqTile := none
  deriving DecidableEq, Repr

/-- A near-memory operation (R329 to R333). -/
inductive NearKind where
  | nred (fmt : Fmt) (h : Handle) (base : Int) (rlen : Nat) (idx : List W32) (dst : Nat)
  | nadd (int : Bool) (h : Handle) (off : Nat) (data : List W32)
  | namo (op : AtomOp) (ty : BitVec 2) (h : Handle) (off : Nat) (x cmp : Word) (greg : GReg)
  | nseq (h : Handle) (prog : List Byte)
  deriving DecidableEq, Repr

/-- A posted near-memory operation: not yet performed, or performed with its reply on the way (R331). -/
structure NearOp where
  id : Nat
  seq : Nat
  pc : Word
  w1 : W32
  kind : NearKind
  /-- the outpost or bank sequencer in whose queue it stands (R370, R398) -/
  unit : Nat := 0
  performed : Bool := false
  reply : Word := 0
  deriving DecidableEq, Repr

/-- What a stream does with the reply of a remote access (R436). -/
inductive RemDest where
  | none
  /-- a `g` register with the size code of its extension -/
  | greg (r : GReg) (sz : BitVec 3)
  /-- the same, of an acquire (R379): nothing of the stream issues before it has read -/
  | acq (r : GReg) (sz : BitVec 3)
  /-- a `g` register with the old value of an atomic of a type -/
  | old (r : GReg) (ty : BitVec 2)
  /-- the elements of a physical vector register that a predicate names, from a byte of the register on -/
  | vec (r : VReg) (fmt : Fmt) (pred : PBits) (lo : Nat)
  /-- a call: its tag and that tag's GEN -/
  | call (tag : Nat) (gen : BitVec 8)
  /-- elements of a `NADD` that share its place in issue order (R449) -/
  | part (n : Nat)
  /-- a copy slot's unit: 0 to read it, 1 to acknowledge it -/
  | unit (slot : Nat) (ack : Bool)
  deriving DecidableEq, Repr

/-- A remote access in flight (R436, R438), with its instruction's address and words. -/
structure RemAcc where
  id : Nat
  seq : Nat
  pc : Word
  words : Word
  path : Path
  addr : BitVec 57
  op : RemOp
  dest : RemDest
  /-- it is held behind a ticket and not on the fabric; `ticketed` says that its owner has recorded a ticket for it -/
  held : Bool := false
  ticketed : Bool := false
  /-- it has been sent again after a replay notice (R438) -/
  replayed : Bool := false
  /-- the handle through which it goes (R275) -/
  via : Option Handle := none
  /-- the signals of its instruction, which finishes with the reply (R148) -/
  sig : Sig := {}
  /-- what has come for a part of a vector access whose other parts are still on their way, and its fault: code, class and
  window address (R164, R187) -/
  got : Option (List Byte) := none
  bad : Option (Nat × Nat × Word) := none
  /-- the ticket-table entry it reserves or shares; 32, which is none, once its data has come -/
  entry : Nat := 0
  issued : Nat := 0
  deriving DecidableEq, Repr

/-- A local load or atomic in a path buffer: issued, its read step not yet taken (R371, R373).  `amo` is an atomic's
operator, type, operand and comparand. -/
structure PLoad where
  id : Nat
  pc : Word
  addr : Nat
  n : Nat
  dest : RemDest
  amo : Option (AtomOp × BitVec 2 × Word × Word) := none
  /-- the place that the parts of one vector load share, 0 where there is one part; and what a part has read whose other
  parts have still to read (R187) -/
  grp : Nat := 0
  got : Option (List Byte) := none
  /-- the handle through which it goes (R275) -/
  via : Option Handle := none
  deriving DecidableEq, Repr

/-- The state of a call tag (R361 to R364). -/
inductive CallState where
  | free
  | flight
  | ready (regs : List Word)
  | fault (code : Nat) (addr : Word) (pc word : Word)
  deriving DecidableEq, Repr

/-- A call tag (R361). -/
structure Call where
  st : CallState := .free
  gen : BitVec 8 := 0
  rb : GReg := 0
  rn : BitVec 3 := 0
  pc : Word := 0
  issued : Nat := 0
  deriving DecidableEq, Repr

/-- A stream (R25), with what it has in flight. -/
structure Stream where
  life : Life := .off
  pc : Word := 0
  g : Tab Word := []
  k : Tab W32 := []
  h : Tab Handle := []
  /-- the translations that made the handles, by handle register -/
  horig : Tab HOrigin := []
  p : Tab PBits := []
  lc : Tab Loop := []
  /-- loop counters, most recently started first (R111) -/
  order : List Nat := []
  spill : Memory := []
  imem : Memory := []
  fcw : W32 := 0
  amax : Word := 0
  vrb : W32 := 0
  ftb : W32 := 0
  ftsel : W32 := 0
  pm : Tab Word := []
  stepstat : W32 := 3
  trappc : Word := 0
  trapcode : Word := 0
  traprec : Tab Word := []
  health : Tab Word := []
  ft : Tab W32 := []
  tk : Tab W32 := []
  entry : Word := 0
  trapEntry : Option Word := none
  /-- the wait step of the instruction at PC has been taken (R148) -/
  waited : Bool := false
  /-- the address at which a wait step is omitted, noted when a handler cleared H with WD 1 (R148) -/
  wdNote : Option Word := none
  /-- signals of finished instructions that wait for room (R148) -/
  sigs : List Sig := []
  /-- the stream waits in a way R151 counts as stuck -/
  stuck : Bool := false
  /-- the stream waits at its instruction for something else -/
  blocked : Bool := false
  /-- the semaphore wait at which it waits: lines, semaphore and number (R149) -/
  waitsOn : Option (BitVec 3 × BitVec 4 × Nat) := none
  /-- a started wait of this instruction that counts its own members: `BARR` issued (R353), the id of a
  translation, an invalidation or a call it waits for, 0 for none -/
  waitId : Nat := 0
  /-- what the wait step of the instruction at PC has taken; a report at the instruction gives it back (R310) -/
  took : Took := {}
  /-- the register that a waiting `XLTW` has overwritten, with what it held (R310) -/
  undo : Option (HReg × Handle × HOrigin) := none
  sealed : Bool := false
  /-- instructions from the one that sealed the region on, that one included (R414) -/
  sealCount : Nat := 0
  owed : List Owed := []
  xlates : List Xlate := []
  reqs : List Req := []
  near : List NearOp := []
  rems : List RemAcc := []
  /-- the elements performed so far of each remote `NADD` in flight that was sent in parts, by its place in issue order
  (R449) -/
  nadds : Tab Nat := []
  calls : Tab Call := []
  /-- local loads and atomics that have not taken their read step, oldest first (R370) -/
  loads : List PLoad := []
  /-- the schedule puts the stream's next load or atomic into `loads` (R371) -/
  lazy : Bool := false
  /-- units read for loads still to come, by address (R381) -/
  pre : List (Nat × List Byte) := []
  /-- for each engine's accesses, handed-off work and calls (keys 0, 4 and 8 plus its number) the access number below
  which a chain orders them before the stream's next instruction (R369) -/
  clk : Tab Nat := []
  /-- the access number below which the stream's finished work lies (R369) -/
  doneAt : Nat := 0
  /-- what an instruction captured when it began to wait at its issue (R319) -/
  held : List Byte := []
  /-- the result and program place of the last completed step-named request (R297) -/
  stepSeq : Nat := 0
  deriving DecidableEq, Repr

/-! ### A context bank of a core -/

/-- The state of a context bank (R421). -/
inductive BankSt where
  | empty | run | wait | ready
  deriving DecidableEq, Repr

/-- A job placed on a core (R141 to R144, R261). -/
structure Job where
  ctx : CtxId := 0
  sq : BitVec 4 := 0
  prio : BitVec 4 := 0
  ecls : BitVec 3 := 0
  seq : W32 := 0
  rank : BitVec 2 := 0
  gsize : BitVec 2 := 0
  gang : Nat := 0
  part : Nat := 0
  slot : Nat := 0
  deriving DecidableEq, Repr

/-- A command in the matrix queue (R198, R199). -/
structure MqEntry where
  record : BitVec 128
  pc : Word
  rm : BitVec 3
  fte : W32
  h : Handle
  started : Bool := false
  /-- it waits on its semaphore (R151) -/
  waitedSem : Bool := false
  /-- the parameter block of a drain, read when it started (R214, R228) -/
  pb : List Byte := []
  /-- the scale bytes that it has popped (R205) -/
  got : List Byte := []
  /-- what the chain at its push carries (R369) -/
  clk : Tab Nat := []
  deriving DecidableEq, Repr

/-- A weight slot: EMPTY, LOADING, ANVIL with its operand, or BANK with its binding (R197, R208, R209). -/
inductive WSlot where
  | empty
  | loading
  | anvil (k n : Nat) (bf : Fmt) (bw : BitVec 2) (cells scales : Memory)
  | bank (k n : Nat) (bf : Fmt) (bw : BitVec 2) (h : Handle) (baddr cstr saddr : Nat)
  deriving DecidableEq, Repr

/-- A packet of the scale FIFO (R205). -/
structure Packet where
  tag : Byte
  bytes : List Byte
  deriving DecidableEq, Repr

/-- The copy instructions and `FSEND`, which share the copy slots (R341, R445). -/
inductive CopyKind where
  | copy | copy2d | mcast | rot | fill | send
  deriving DecidableEq, Repr

/-- A copy slot: what the copy instruction captured, and the status word's fields (R340, R342, R354). -/
structure Copy where
  kind : CopyKind := .copy
  busy : Bool := false
  flt : Bool := false
  canc : Bool := false
  landed : Nat := 0
  src : Word := 0
  dst : Word := 0
  sk : Bool := false
  dk : Bool := false
  len : Nat := 0
  rows : Nat := 1
  sstr : Nat := 0
  dstr : Nat := 0
  sh : Handle := 0
  dh : Handle := 0
  bar : Option Nat := none
  mask : BitVec 4 := 0
  /-- number of units that are done, and whether the next one is on its way: to or from a remote package, or home -/
  unit : Nat := 0
  remote : Bool := false
  /-- the rotation has started (R347), or the slot of a send has (R445) -/
  rotOn : Bool := false
  rotN : Nat := 0
  /-- what has been read and not landed: a rotation's tile, or a unit -/
  data : List Byte := []
  dreg : GReg := 0
  /-- FSEND: destination peer, core, channel and slot start (R445) -/
  peer : BitVec 12 := 0
  rcore : Nat := 0
  chan : BitVec 8 := 0
  at_ : Nat := 0
  pc : Word := 0
  w1 : W32 := 0
  w2 : W32 := 0
  seq : Nat := 0
  sig : Sig := {}
  deriving DecidableEq, Repr

/-- A booking of a fabric lane (R445). -/
structure Booking where
  id : Nat
  peer : BitVec 12
  chan : BitVec 8
  at_ : Nat
  dur : Nat
  deriving DecidableEq, Repr

/-- The fields of a slot descriptor (R444). -/
structure SlotDesc where
  t : Word
  peer : BitVec 12
  rcore : Nat
  chan : BitVec 8
  n : Nat
  ifmt : Fmt
  ofmt : Fmt
  ty : BitVec 2
  add : Bool
  buf : Nat
  acc : Nat
  out : Nat
  bar : Option Nat
  /-- its BAR field keeps the limits of R340 -/
  barOk : Bool := true
  deriving DecidableEq, Repr

/-- An armed receive: its number, the bytes that have arrived for it, and the codes and scale bytes of the blocks that
have been hopped (R445, R446). -/
structure Recv where
  id : Nat
  desc : SlotDesc
  got : List Byte := []
  codes : List Byte := []
  scales : List Byte := []
  /-- result units already landed -/
  out : Nat := 0
  deriving DecidableEq, Repr

/-- What a bank in WAIT waits for (R423, R424). -/
structure PfWait where
  eng : Eng
  hreg : HReg
  handle : Handle
  seq : BitVec 16
  posted : Bool
  /-- the tick of the last offer of the record (R408) -/
  offered : Nat
  /-- the job is still draining (R423) -/
  draining : Bool := false
  pc : Word := 0
  word : Word := 0
  deriving DecidableEq, Repr

/-- A context bank: one job and all of its state (R421).  DESIGN CHOICE (entry 79): each bank keeps its own contents of
the anvil array's two weight slots (R14, R196). -/
structure Bank where
  st : BankSt := .empty
  job : Job := {}
  ce : Stream := {}
  ae : Stream := {}
  ve : Stream := {}
  xe : Stream := {}
  v : Tab VBits := []
  dq : List (W32 × W32 × W32 × W32) := []
  /-- guy lines: key 4 × pusher + popper (R145) -/
  lines : Tab Nat := []
  sems : Tab Nat := []
  /-- what the tokens on each line, oldest first, and a semaphore's increments carry along a chain (R369) -/
  lineClk : Tab (List (Tab Nat)) := []
  semClk : Tab (Tab Nat) := []
  /-- what the waits of matrix commands have joined (R369) -/
  meClk : Tab Nat := []
  mq : List MqEntry := []
  drop : BitVec 16 := 0
  /-- signals of dropped commands that wait for the signal of the started command (R220), with what they carry -/
  dropSig : List (BitVec 4 × Tab Nat) := []
  slot0 : WSlot := .empty
  slot1 : WSlot := .empty
  active : Bool := false
  fifo : List Packet := []
  oq : List OqTile := []
  /-- ids of AE requests that append to the operand queue, in issue order (R317) -/
  oqOrder : List Nat := []
  meStopped : Bool := false
  copies : Tab Copy := []
  rots : Nat := 0
  barrs : Nat := 0
  barrDone : Nat := 0
  recvs : List Recv := []
  books : List Booking := []
  /-- slot transfers whose fault can still come, with their copy slots (R442, R445) -/
  sends : List (Nat × Copy) := []
  /-- the die cycle since which everything has been stuck, and the stuck cycles counted before it (R151) -/
  stuckSince : Option Nat := none
  stuckFor : Nat := 0
  pf : Option PfWait := none
  readySince : Nat := 0
  deriving DecidableEq, Repr

/-- An entry of a core's ticket table (R336, R438). -/
structure Ticket where
  v : Bool := false
  reserved : Bool := false
  bankB : Bool := false
  eng : Eng := .ce
  notice : Bool := false
  peer : BitVec 12 := 0
  page : BitVec 33 := 0
  first : Nat := 0
  deriving DecidableEq, Repr

/-- A core. -/
structure Core where
  a : Bank := {}
  b : Bank := {}
  /-- bank B is the one in RUN, or was the last to be -/
  runB : Bool := false
  /-- accumulator memory: key 256 × row + column (R14) -/
  acc : Tab W32 := []
  tickets : Tab Ticket := []
  /-- the context of the core's last job (R266) -/
  lastCtx : Option CtxId := none
  deriving DecidableEq, Repr

/-! ### Memory and its ordering machine -/

/-- A party of the ordering machine: a stream, by its package (0 for this one, 1 for the host, 2 and its peer number for
another), core, context bank and engine (R366, R380). -/
structure Party where
  pkg : Nat := 0
  core : Nat
  bankB : Bool := false
  eng : Nat
  deriving DecidableEq, Repr

/-- A write: its party and path, its bytes, and for each path the widest scope at which it is visible, 0 for none
and otherwise the scope code of R77 plus one (R370, R374); a write in a path buffer is visible nowhere. -/
structure Write where
  party : Party
  path : Path
  cells : List (Nat × Byte)
  /-- bytes of which it writes only some bits, until its write step: address, mask and bits (R187, R384) -/
  half : List (Nat × Byte × Byte) := []
  vis : Tab Nat := []
  /-- its place among the accesses issued so far (R368) -/
  no : Nat := 0
  /-- a unit makes it for work that the party handed off (R369) -/
  work : Bool := false
  /-- the arithmetic cycle of its write step (R400) -/
  since : Nat := 0
  /-- the handle through which it goes (R275) -/
  via : Option Handle := none
  deriving DecidableEq, Repr

/-- A remote access that this package has performed and not yet acknowledged: the access, the numbers of its writes, and
what the acknowledgement carries (R389). -/
structure Ack where
  req : RemReq
  lo : Nat
  hi : Nat
  data : List Byte
  deriving DecidableEq, Repr

/-! ### Outposts -/

/-- Who a reply goes to (R361, R441). -/
inductive Caller where
  | tag (core : Nat) (bankB : Bool) (eng : Eng) (tag : Nat) (gen : BitVec 8)
  | peer (peer : BitVec 12) (tag : Nat)
  /-- no reply is expected -/
  | none
  deriving DecidableEq, Repr

/-- A reply on its way to a call tag of this package (R363). -/
structure CallReply where
  core : Nat
  bankB : Bool
  eng : Eng
  tag : Nat
  gen : BitVec 8
  st : CallState
  deriving DecidableEq, Repr

/-- A call in an outpost's queue (R388). -/
structure OCall where
  id : Nat
  caller : Caller
  party : Party
  ctx : CtxId
  entry : BitVec 10
  payload : List Word
  base : Nat
  bytes : Nat
  perm : BitVec 3
  off : Word
  deriving DecidableEq, Repr

/-- A call frame (R357). -/
structure Frame where
  busy : Bool := false
  call : Option OCall := none
  st : Stream := {}
  w : Tab (BitVec 512) := []
  data : Memory := []
  started : Nat := 0
  deriving DecidableEq, Repr

/-- An outpost. -/
structure Outpost where
  queue : List OCall := []
  frames : Tab Frame := []
  deriving DecidableEq, Repr

/-- A registered kit's outpost image, placed in every outpost (R457). -/
structure KitReg where
  ctx : CtxId
  ptr : Word
  code : Memory
  entries : Tab W32
  ready : Bool
  deriving DecidableEq, Repr

/-! ### The control plane -/

/-- A submission queue (R245). -/
structure Sq where
  base : Word := 0
  prio : BitVec 4 := 0
  log2n : BitVec 5 := 4
  en : Bool := false
  err : Bool := false
  head : W32 := 0
  tail : W32 := 0
  deriving DecidableEq, Repr

/-- A fetched submission entry (R247). -/
structure SubEntry where
  graph : Word
  done : Word
  doneval : Word
  int : Bool
  ser : Bool
  deriving DecidableEq, Repr

/-- A graph node (R248). -/
structure Node where
  ty : Nat
  cc : BitVec 4
  npred : Nat
  succ : List Nat
  int : Bool
  word : Word
  const : Word
  deriving DecidableEq, Repr

/-- Whether a node has run in the current iteration (R249). -/
inductive NodeSt where
  | idle | running | ran
  deriving DecidableEq, Repr

/-- A copy that an I/O die carries out for a copy node: its pointers, its number of 64-byte units, and how many are
written (R249). -/
structure GCopy where
  src : Word
  dst : Word
  units : Nat
  done : Nat := 0
  deriving DecidableEq, Repr

/-- A started graph (R248 to R252). -/
structure Graph where
  id : Nat
  ctx : CtxId
  sq : BitVec 4
  sub : SubEntry
  nodes : List Node
  pending : Tab Nat := []
  st : Tab NodeSt := []
  /-- the copies of running copy nodes -/
  copies : Tab GCopy := []
  /-- for each ready node the number at which it became ready (R256) -/
  readyNo : Tab Nat := []
  abandoned : Option Nat := none
  deriving DecidableEq, Repr

/-- A walk record (R253). -/
structure WalkRec where
  kit : Word
  arg : Word
  ndim : Nat
  gang : Nat
  prio : Nat
  ecls : Nat
  order : List Nat
  ext : List Nat
  str : List Nat
  deriving DecidableEq, Repr

/-- What a kit gives one stream: its image, entry, trap entry, format table and token patterns (R457, R98). -/
structure KitStream where
  code : Memory := []
  entry : Word := 0
  trap : Option Word := none
  ft : Tab W32 := []
  tk : Tab W32 := []
  deriving DecidableEq, Repr

/-- A kit as read when its walk's first gang is placed (R457); an engine without an image has no stream. -/
structure Kit where
  part : Nat
  streams : List (Option KitStream)
  daddr : Nat
  data : List Byte
  deriving DecidableEq, Repr

/-- Where a candidate's record stands (R256). -/
inductive Place where
  | pool | spilled | node
  deriving DecidableEq, Repr

/-- A candidate: a walk whose gangs are offered one at a time (R254, R258). -/
structure Cand where
  id : Nat
  ctx : CtxId
  sq : BitVec 4
  walk : WalkRec
  /-- its kit, once its first gang has been placed -/
  kit : Option Kit := none
  place : Place
  /-- the parent's gang of a launched child: its candidate and its SEQ, which a restart keeps -/
  parent : Option (Nat × Nat) := none
  /-- the graph and node of a walk node -/
  node : Option (Nat × Nat) := none
  /-- the number of its pool entry, in the order of entering -/
  entry : Nat := 0
  next : Nat := 0
  again : List Nat := []
  running : Nat := 0
  eff : Nat := 0
  age : Nat := 0
  ready : Nat := 0
  /-- the tick at which it became a candidate, and the ticks that it has waited for cores since (R260) -/
  since : Nat := 0
  waited : Nat := 0
  /-- no further gang is placed (R405) -/
  closed : Bool := false
  deriving DecidableEq, Repr

/-- A resident gang (R256, R416). -/
structure Gang where
  id : Nat
  cand : Nat
  seq : Nat
  ctx : CtxId
  cluster : Nat
  cores : List Nat
  eff : Nat
  started : Nat
  /-- the tick of a pending pre-emption's request, and whether it is never withdrawn (R416, R428) -/
  preempt : Option Nat := none
  /-- the scheduler requested it under R260 -/
  longWait : Bool := false
  /-- one of its jobs has failed: its other jobs are discarded by a later event (R394, R405) -/
  failing : Bool := false
  noWithdraw : Bool := false
  deriving DecidableEq, Repr

/-- A checkpoint slot in use (R412). -/
structure CkSlot where
  ctx : CtxId
  idx : Nat
  cand : Nat
  seq : Nat
  rank : Nat
  recs : Tab RegionRec := []
  /-- its job has ended with all its streams, and does not start again with its gang (R418) -/
  ended : Bool := false
  deriving DecidableEq, Repr

/-- A context (R245, R269, R406, R435, R454). -/
structure Ctx where
  sqs : Tab Sq := []
  subs : Tab (List SubEntry) := []
  /-- the number of the graph that each queue started last -/
  lastGraph : Tab Nat := []
  fqbase : Word := 0
  fqlog2n : BitVec 5 := 6
  fqen : Bool := false
  fqint : Bool := false
  fqovf : BitVec 16 := 0
  fqhead : W32 := 0
  fqtail : W32 := 0
  ttroot : Word := 0
  spqbase : Word := 0
  spqlog2n : BitVec 5 := 4
  /-- records appended to the spill queue so far (R256) -/
  spqtail : Nat := 0
  ckbase : Word := 0
  ckcnt : BitVec 16 := 0
  kitstat : BitVec 4 := 0
  kitPend : Option Word := none
  inv : Word := 0
  invbase : Word := 0
  invlen : Word := 0
  exroot : Word := 0
  exctl : Word := 0
  bounds : Tab (BitVec 128) := []
  gsf : Bool := false
  msix : Tab Bool := []
  /-- the tick at which a function-level reset began (R425) -/
  reset : Option Nat := none
  deriving DecidableEq, Repr

/-- An invalidation in progress (R275); the accesses it waits for are those that match and were issued before it, which
is to say, whose numbers are below its own. -/
structure Inval where
  id : Nat
  ctx : CtxId
  rule : InvMatch
  /-- the driver started it through `INVCTL` -/
  driver : Bool := false
  deriving DecidableEq, Repr

/-- A translation in a directory: die and context (or the exporting function at 4), page and leaf (R272, R435). -/
structure DirEntry where
  die : Nat
  ctx : CtxId
  page : Nat
  pgsz : BitVec 4
  perm : BitVec 3
  rem : Bool
  addr : BitVec 57
  deriving DecidableEq, Repr

/-- A ticket recorded at the owner, and whether an export walk for its page is under way (R439). -/
structure OwnTicket where
  peer : BitVec 12
  strm : Nat
  tag : Nat
  ctx : CtxId
  page : BitVec 24
  addr : BitVec 57
  walking : Bool := true
  /-- its notice has left; the record stays until the replay arrives (R438) -/
  noticed : Bool := false
  deriving DecidableEq, Repr

/-- What this package has put on the fabric, the lantern port or the host link: the model's record of its
outputs (entry 19). -/
inductive Out where
  | request (peer : BitVec 12) (tag strm : Nat) (path : Path) (addr : BitVec 57) (op : RemOp)
  | reply (peer : BitVec 12) (tag : Nat) (data : List Byte)
  | faultReply (peer : BitVec 12) (tag : Nat) (code : Nat) (addr pc word : Word)
  | ticket (peer : BitVec 12) (strm tag : Nat) (page : BitVec 24)
  | notice (peer : BitVec 12) (strm : Nat) (page : BitVec 33)
  | cancel (peer : BitVec 12) (strm : Nat) (page : BitVec 33)
  | slot (peer : BitVec 12) (core : Nat) (chan : BitVec 8) (data : List Byte)
  | unarmed (peer : BitVec 12) (chan : BitVec 8)
  | hostLoss
  | answer (words : List Word)
  deriving DecidableEq, Repr

/-! ### The management plane -/

/-- An error-log entry as stored (R462). -/
structure LogEntry where
  cyc : Word
  unit : BitVec 16
  severity : Byte
  cause : Byte
  addr : Word
  detail : BitVec 80
  deriving DecidableEq, Repr

/-- One error log: entries oldest first, and the overflow count (R23). -/
structure ErrLog where
  entries : List LogEntry := []
  overflow : BitVec 16 := 0
  deriving DecidableEq, Repr

/-- The fields of the health word (R461). -/
structure Health where
  ver : W32 := 0
  rr : Bool := false
  hold : Bool := false
  tbl : Bool := false
  trip : BitVec 4 := 0
  fenced : Tab Bool := []
  op : BitVec 2 := 0
  deriving DecidableEq, Repr

/-- Firmware (R464, R465). -/
structure Firmware where
  digest : BitVec 512 := 0
  svn : W32 := 0
  /-- the image in flash verifies -/
  good : Bool := true
  minSvn : W32 := 0
  /-- a write of the image is in progress -/
  writing : Bool := false
  /-- the image admitted at the last module reset, which attestation reports -/
  admDigest : BitVec 512 := 0
  admSvn : W32 := 0
  deriving DecidableEq, Repr

/-- The management plane and the device registers (R434, R456 to R465). -/
structure Mgmt where
  peerid : BitVec 13 := 0
  health : Health := {}
  /-- the hold of R428 -/
  hold : Bool := false
  linkUp : Bool := true
  /-- the tick of the host-link loss -/
  lossAt : Nat := 0
  ready : Bool := true
  recovery : Bool := false
  resetAt : Option Nat := none
  tbl : Bool := false
  trips : BitVec 4 := 0
  opReq : BitVec 2 := 0
  opCur : BitVec 2 := 0
  opBusy : Bool := false
  opHeld : Option (BitVec 2) := none
  ebenv : Tab W32 := []
  ebmax : W32 := 2000000
  ebcls : Tab W32 := []
  ebbal : Int := 2000000
  /-- the module energy counter at the last budget update -/
  ebLast : Word := 0
  ebTick : Nat := 0
  pdidle : W32 := 512
  sridle : W32 := 100000
  /-- the power states of the memory channels, the tick of each one's last request, and the tick from which channels
  without a request count as idle (R281) -/
  chans : Tab Nat := []
  chanReq : Tab Nat := []
  chanFrom : Nat := 0
  /-- what the temperature sensors show in °C: 0–95 the clusters', 96–99 the compute dies', 100–101 the I/O dies',
  102–113 the stacks', and the sensor of the module's input power at 114 (R460) -/
  temps : Tab Nat := []
  /-- the last tick at which the hottest sensor of a die showed 95 °C or more (R460) -/
  hotAt : Tab Nat := []
  energy : Tab Word := []
  headroom : Tab W32 := []
  logs : Tab ErrLog := []
  logSel : BitVec 2 := 0
  logLast : List Word := []
  fw : Firmware := {}
  deriving DecidableEq, Repr

/-! ### The machine -/

/-- Who executes: a stream, the ME of a core, or a call frame. -/
inductive Agent where
  | eng (c : Nat) (e : Eng)
  | me (c : Nat)
  | frame (o f : Nat)
  deriving DecidableEq, Repr

/-- One entry of the schedule (entry 1). -/
inductive Turn where
  /-- the agent executes its next instruction or command -/
  | run (a : Agent)
  /-- an event row of the opcode table takes place -/
  | event (i : Instr)
  /-- this many ticks pass -/
  | pass (n : Nat)
  /-- write `n` of the path buffers, newest first, takes its write step (R372) -/
  | writeStep (n : Nat)
  /-- write `n` of the coherence order, newest first, widens: it becomes visible at a scope on a path (R374) -/
  | widen (n : Nat) (q : Path) (scope : Nat)
  /-- every write takes its step and widens to `sys` on every path (R372, R374) -/
  | settle
  /-- a signal that waits for room is delivered (R148) -/
  | signal (c : Nat) (e : Eng)
  /-- the host writes bytes to a physical address (entry 19) -/
  | hostWrite (a : Nat) (bytes : List Byte)
  /-- a directory drops a translation (R272: its replacement is not architectural) -/
  | evict (n : Nat)
  /-- measured energy is added to a counter (R24, entry 19) -/
  | energy (n : Nat) (uj : Nat)
  /-- an uncorrectable error befalls a 64-byte unit of memory (R283, entry 19) -/
  | memError (a : Nat)
  /-- a correctable error is found in a core's anvil macros or scratch (R429, entry 19) -/
  | coreCorrected (c : Nat) (a : Nat)
  /-- a request reaches a memory channel (R281, entry 31) -/
  | request (chan : Nat)
  /-- a stream's next local load or atomic is issued into its path buffer (R371) -/
  | defer (c : Nat) (e : Eng)
  /-- load `n` of a stream's path buffer takes its read step (R373) -/
  | read (c : Nat) (e : Eng) (n : Nat)
  /-- a stream reads `n` bytes of a unit for a load still to come (R381) -/
  | peek (c : Nat) (e : Eng) (a n : Nat)
  /-- acknowledgement `n` leaves for its requester (R389) -/
  | ack (n : Nat)
  /-- item `n` of the gateway's own traffic is served (R434) -/
  | gateway (n : Nat)
  /-- a temperature or power sensor shows a new value (R460, entry 19) -/
  | sensor (n v : Nat)
  /-- update command `id` of a core's AE arrives at the stack of its tensor (R303) -/
  | arrive (c id : Nat)
  /-- the host reads a register of a page (R4, R454, R456, entry 19) -/
  | hostRead (p : RegPage) (off : Nat)
  /-- the host reads eight bytes at a physical address (R453, entry 19) -/
  | hostLoad (a : Nat)
  deriving DecidableEq, Repr

/-- The state of the machine. -/
structure State where
  /-- `CYC` (R15) -/
  cyc : Nat
  /-- cycles of the arithmetic clock, and the rest of a cycle in thousandths (R3) -/
  cycles : Nat
  cyclesRem : Nat
  /-- cycles that each die has spent in a thermal trip (R16) -/
  tripCycles : Tab Nat
  cores : Tab Core
  /-- what every byte holds beneath the writes of `log` -/
  mem : Memory
  /-- the writes that have taken their write step, newest first: the coherence sequences (R370) -/
  log : List Write
  /-- the writes in path buffers, newest first (R370) -/
  buf : List Write
  eccBad : Tab Bool
  /-- where the base dies know a tensor parameter block to lie (R289) -/
  tpbs : List Nat
  outposts : Tab Outpost
  kits : List KitReg
  /-- call replies on their way -/
  replies : List CallReply
  ctxs : Tab Ctx
  dir : List DirEntry
  invals : List Inval
  /-- the temper queue of each tensor, by the address of its parameter block: the numbers of the update commands that have
  arrived, in that order (R303, R370) -/
  temperQ : Tab (List Nat)
  /-- the near-memory queue of each outpost and of each stack's bank sequencers: the numbers of the operations posted to
  it and not performed (R370) -/
  nearQ : Tab (List Nat)
  graphs : List Graph
  cands : List Cand
  gangs : List Gang
  slots : List CkSlot
  /-- PTR[0..15] (R257) -/
  ptr : Tab Nat
  tickets : List OwnTicket
  /-- remote accesses performed and not yet acknowledged -/
  acks : List Ack
  /-- what the package's gateway carries from the package to itself (R434) -/
  loops : List Out
  outs : List Out
  mgmt : Mgmt
  /-- the module energy counter at the last multiple of 1,000 ticks (R259) -/
  enMark : Word
  /-- the next number of a graph, candidate, gang or invalidation -/
  nextId : Nat
  /-- the counter of free values (entry 9) -/
  freeCtr : Nat
  /-- the schedule and the agent that runs when it is empty (entry 1) -/
  turns : List Turn
  cur : Agent
  deriving DecidableEq, Repr

/-- The machine right after reset (R458), with READY set (entry 7). -/
def State.reset : State :=
  { cyc := 0, cycles := 0, cyclesRem := 0, tripCycles := [], cores := [], mem := [], log := [], buf := [],
    eccBad := [], tpbs := [], outposts := [], kits := [], replies := [], ctxs := [], dir := [], invals := [],
    temperQ := [], nearQ := [], graphs := [], cands := [],
    gangs := [], slots := [], ptr := [], tickets := [], acks := [], loops := [], outs := [], mgmt := {}, enMark := 0, nextId := 1, freeCtr := 0,
    turns := [], cur := .eng 0 .ce }

end Sys2Proof.Machine
end

