-- ==== Sys2Proof/Machine/Access.lean ====
section
/-! DEFINITION.  Reading and writing the pieces of the state: registers of the current agent, banks, cores,
contexts, and the passing of time. -/

namespace Sys2Proof.Machine

/-! ### Registers of a stream (R25, R26, R28, R69) -/

/-- `g[r]`; `g0` reads as 0 (R25). -/
def Stream.rg (t : Stream) (r : GReg) : Word := if r = 0 then 0 else tget 0 t.g r.toNat
/-- Writes `g[r]`; a write to `g0` is discarded (R25). -/
def Stream.wg (t : Stream) (r : GReg) (v : Word) : Stream :=
  if r = 0 then t else { t with g := tset t.g r.toNat v }
/-- `k[r]`; `k0` reads as 0xFFFF_FFFF, the encoding of NOW (R26). -/
def Stream.rk (t : Stream) (r : KReg) : W32 := if r = 0 then BitVec.allOnes 32 else tget 0 t.k r.toNat
/-- Writes `k[r]`; a write to `k0` is discarded (R26). -/
def Stream.wk (t : Stream) (r : KReg) (v : W32) : Stream :=
  if r = 0 then t else { t with k := tset t.k r.toNat v }
/-- `p[r]`; `p0` reads as all ones (R25). -/
def Stream.rp (t : Stream) (r : PReg) : PBits := if r = 0 then BitVec.allOnes 1024 else tget 0 t.p r.toNat
/-- Writes `p[r]`; a write to `p0` is discarded (R25). -/
def Stream.wp (t : Stream) (r : PReg) (v : PBits) : Stream :=
  if r = 0 then t else { t with p := tset t.p r.toNat v }
/-- `h[r]` (R28). -/
def Stream.rh (t : Stream) (r : HReg) : Handle := tget 0 t.h r.toNat
/-- Writes `h[r]`; a translation in flight to the register ends without a result (R272, R273). -/
def Stream.wh (t : Stream) (r : HReg) (v : Handle) : Stream :=
  { t with
    h := tset t.h r.toNat v
    xlates := t.xlates.map fun x => if x.hreg = r then { x with live := false } else x
    undo := if t.undo.any fun x => x.1 = r then none else t.undo }
/-- Loop counter n (R111). -/
def Stream.loop (t : Stream) (n : Nat) : Loop := tget {} t.lc n
/-- Writes loop counter n. -/
def Stream.setLoop (t : Stream) (n : Nat) (l : Loop) : Stream := { t with lc := tset t.lc n l }
/-- TRAPCODE.H (R40). -/
def Stream.inTrap (t : Stream) : Bool := t.trapcode.getLsbD 16
/-- A call tag (R361). -/
def Stream.call (t : Stream) (n : Nat) : Call := tget {} t.calls n

/-! ### Handles (R28) -/

/-- V. -/
def Handle.v (h : Handle) : Bool := h.getLsbD 0
/-- ST: 0 READY, 1 PENDING, 2 FAULTED. -/
def Handle.st (h : Handle) : BitVec 2 := fld h 1 2
/-- KIND: a remote handle. -/
def Handle.remote (h : Handle) : Bool := h.getLsbD 3
/-- PGSZ. -/
def Handle.pgsz (h : Handle) : BitVec 4 := fld h 4 4
/-- PERM: read, write, atomic in bits 0 to 2. -/
def Handle.perm (h : Handle) : BitVec 3 := fld h 8 3
/-- RID. -/
def Handle.rid (h : Handle) : BitVec 7 := fld h 11 7
/-- ADDR. -/
def Handle.addr (h : Handle) : BitVec 57 := fld h 64 57
/-- The bytes of a page size code; a reserved code names no page. -/
def pageBytes (p : BitVec 4) : Nat :=
  if p = 0 then 0x1000 else if p = 1 then 0x10000 else if p = 2 then 0x200000
  else if p = 3 then 0x40000000 else 0
/-- The bytes of the handle's page. -/
def Handle.bytes (h : Handle) : Nat := pageBytes (Handle.pgsz h)
/-- A handle from its fields. -/
def mkHandle (st : BitVec 2) (rem : Bool) (pgsz : BitVec 4) (perm : BitVec 3) (rid : BitVec 7)
    (addr : BitVec 57) : Handle :=
  (0 : BitVec 7) ++ addr ++ (0 : BitVec 46) ++ rid ++ perm ++ pgsz ++ bit1 rem ++ st ++ (1 : BitVec 1)
/-- The handle with V cleared (R275). -/
def Handle.clear (h : Handle) : Handle := h &&& ~~~(1 : Handle)

/-! ### Banks and cores (R421) -/

/-- A stream of a bank. -/
def Bank.get (b : Bank) : Eng → Stream
  | .ce => b.ce | .ae => b.ae | .ve => b.ve | .xe => b.xe
/-- The bank with one stream replaced. -/
def Bank.set (b : Bank) (e : Eng) (t : Stream) : Bank :=
  match e with
  | .ce => { b with ce := t } | .ae => { b with ae := t } | .ve => { b with ve := t } | .xe => { b with xe := t }
/-- The bank with one stream changed. -/
def Bank.mod (b : Bank) (e : Eng) (f : Stream → Stream) : Bank := b.set e (f (b.get e))
/-- The bank with every stream changed. -/
def Bank.modAll (b : Bank) (f : Stream → Stream) : Bank :=
  { b with ce := f b.ce, ae := f b.ae, ve := f b.ve, xe := f b.xe }
/-- The four streamed engines in the fixed order (R408). -/
def engines : List Eng := [.ce, .ae, .ve, .xe]
/-- A semaphore (R149). -/
def Bank.sem (b : Bank) (n : BitVec 4) : Nat := tget 0 b.sems n.toNat
/-- Sets a semaphore; the count of R151 begins again. -/
def Bank.setSem (b : Bank) (n : BitVec 4) (v : Nat) : Bank := { b with sems := tset b.sems n.toNat v, stuckSince := none, stuckFor := 0 }
/-- A weight slot. -/
def Bank.wslot (b : Bank) (one : Bool) : WSlot := if one then b.slot1 else b.slot0
/-- Sets a weight slot. -/
def Bank.setWslot (b : Bank) (one : Bool) (w : WSlot) : Bank :=
  if one then { b with slot1 := w } else { b with slot0 := w }
/-- A copy slot. -/
def Bank.copy (b : Bank) (n : Nat) : Copy := tget {} b.copies n
/-- Sets a copy slot. -/
def Bank.setCopy (b : Bank) (n : Nat) (c : Copy) : Bank := { b with copies := tset b.copies n c }

/-- A bank of a core by name. -/
def Core.get (k : Core) (bankB : Bool) : Bank := if bankB then k.b else k.a
/-- The core with a bank replaced. -/
def Core.set (k : Core) (bankB : Bool) (b : Bank) : Core := if bankB then { k with b := b } else { k with a := b }
/-- The bank that runs or ran last. -/
def Core.bank (k : Core) : Bank := k.get k.runB
/-- Replaces it. -/
def Core.setBank (k : Core) (b : Bank) : Core := k.set k.runB b
/-- A ticket-table entry (R336). -/
def Core.ticket (k : Core) (n : Nat) : Ticket := tget {} k.tickets n

/-- The compute die of a core (R267). -/
def dieOf (c : Nat) : Nat := c / 96
/-- The cluster of a core (R267). -/
def clusterOf (c : Nat) : Nat := c / 4

namespace State

/-- A core. -/
def core (s : State) (n : Nat) : Core := tget {} s.cores n
/-- Replaces a core. -/
def setCore (s : State) (n : Nat) (k : Core) : State := { s with cores := tset s.cores n k }
/-- Changes a core. -/
def modCore (s : State) (n : Nat) (f : Core → Core) : State := s.setCore n (f (s.core n))
/-- The running bank of a core. -/
def bank (s : State) (n : Nat) : Bank := (s.core n).bank
/-- Replaces it. -/
def setBank (s : State) (n : Nat) (b : Bank) : State := s.setCore n ((s.core n).setBank b)
/-- Changes it. -/
def modBank (s : State) (n : Nat) (f : Bank → Bank) : State := s.setBank n (f (s.bank n))
/-- An outpost. -/
def outpost (s : State) (o : Nat) : Outpost := tget {} s.outposts o
/-- Replaces an outpost. -/
def setOutpost (s : State) (o : Nat) (x : Outpost) : State := { s with outposts := tset s.outposts o x }
/-- A call frame. -/
def frame (s : State) (o f : Nat) : Frame := tget {} (s.outpost o).frames f
/-- Replaces a call frame. -/
def setFrame (s : State) (o f : Nat) (x : Frame) : State :=
  s.setOutpost o { s.outpost o with frames := tset (s.outpost o).frames f x }
/-- A context. -/
def ctx (s : State) (n : CtxId) : Ctx := tget {} s.ctxs n.val
/-- Replaces a context. -/
def setCtx (s : State) (n : CtxId) (c : Ctx) : State := { s with ctxs := tset s.ctxs n.val c }
/-- Changes a context. -/
def modCtx (s : State) (n : CtxId) (f : Ctx → Ctx) : State := s.setCtx n (f (s.ctx n))

/-- The stream of an agent; the ME acts for the CE that pushed its commands (R366). -/
def strm (s : State) : Agent → Stream
  | .eng c e => (s.bank c).get e
  | .me c => (s.bank c).ce
  | .frame o f => (s.frame o f).st
/-- Replaces the stream of an agent. -/
def setStrm (s : State) (a : Agent) (t : Stream) : State :=
  match a with
  | .eng c e => s.setBank c ((s.bank c).set e t)
  | .me c => s.setBank c ((s.bank c).set .ce t)
  | .frame o f => s.setFrame o f { s.frame o f with st := t }
/-- Changes the stream of an agent. -/
def modStrm (s : State) (a : Agent) (f : Stream → Stream) : State := s.setStrm a (f (s.strm a))

/-- The stream that executes. -/
def me (s : State) : Stream := s.strm s.cur
/-- Replaces the stream that executes. -/
def setMe (s : State) (t : Stream) : State := s.setStrm s.cur t
/-- Changes the stream that executes. -/
def modMe (s : State) (f : Stream → Stream) : State := s.setMe (f s.me)
/-- `g[r]` of the stream that executes. -/
def g (s : State) (r : GReg) : Word := s.me.rg r
/-- Writes `g[r]` of the stream that executes. -/
def setG (s : State) (r : GReg) (v : Word) : State := s.modMe (·.wg r v)
/-- `k[r]` of the stream that executes. -/
def k (s : State) (r : KReg) : W32 := s.me.rk r
/-- Writes `k[r]` of the stream that executes. -/
def setK (s : State) (r : KReg) (v : W32) : State := s.modMe (·.wk r v)
/-- `p[r]` of the stream that executes. -/
def p (s : State) (r : PReg) : PBits := s.me.rp r
/-- Writes `p[r]` of the stream that executes. -/
def setP (s : State) (r : PReg) (v : PBits) : State := s.modMe (·.wp r v)
/-- `h[r]` of the stream that executes. -/
def h (s : State) (r : HReg) : Handle := s.me.rh r
/-- Writes `h[r]` of the stream that executes. -/
def setH (s : State) (r : HReg) (v : Handle) : State := s.modMe (·.wh r v)

/-- The core of the agent that executes; an outpost has none. -/
def curCore (s : State) : Nat :=
  match s.cur with
  | .eng c _ => c
  | .me c => c
  | .frame _ _ => 0
/-- The engine of the agent that executes, if it is a stream. -/
def curEng (s : State) : Option Eng :=
  match s.cur with
  | .eng _ e => some e
  | .me _ => none
  | .frame _ _ => none
/-- The running bank of the core that executes. -/
def curBank (s : State) : Bank := s.bank s.curCore
/-- Changes it. -/
def modCurBank (s : State) (f : Bank → Bank) : State := s.modBank s.curCore f
/-- The context of the agent that executes. -/
def curCtx (s : State) : CtxId :=
  match s.cur with
  | .frame o f =>
    match (s.frame o f).call with
    | some c => c.ctx
    | none => 0
  | _ => s.curBank.job.ctx

/-! ### Time (R3, R15, R16) -/

/-- Whether a die is under a thermal trip (R460). -/
def tripped (s : State) (die : Nat) : Bool := s.mgmt.trips.getLsbD die
/-- The arithmetic cycles a die has counted: cycles under a thermal trip do not count (R16). -/
def dieCycles (s : State) (die : Nat) : Nat := s.cycles - tget 0 s.tripCycles die
/-- The cycles counted at a core's die. -/
def coreCycles (s : State) (c : Nat) : Nat := s.dieCycles (dieOf c)
/-- The number of the module's counter among the energy counters (R24): the clusters' follow it, then the stacks' and
the I/O dies'. -/
def energyModule : Nat := 0
/-- `n` ticks are counted: `CYC` counts them, the arithmetic clock counts its share exactly (R3, R13), and the module's
energy counter is noted at a multiple of 1,000 (R259). -/
def tick (s : State) (n : Nat) : State :=
  let total := s.cyclesRem + n * Config.clockMHz s.mgmt.opCur
  let add := total / 1000
  { s with
    cyc := s.cyc + n
    enMark := if s.cyc / 1000 = (s.cyc + n) / 1000 then s.enMark else tget 0 s.mgmt.energy energyModule
    cycles := s.cycles + add
    cyclesRem := total % 1000
    tripCycles := (List.range 4).foldl
      (fun t d => if s.mgmt.trips.getLsbD d then tset t d (tget 0 t d + add) else t) s.tripCycles }
/-- `CYC` as a register (R15). -/
def cycWord (s : State) : Word := BitVec.ofNat 64 s.cyc

/-! ### Fresh numbers and outputs -/

/-- The next free value and the state past it (entry 9). -/
def takeFree (s : State) : State := { s with freeCtr := s.freeCtr + 1 }
/-- Takes the next number. -/
def fresh (s : State) : Nat × State := (s.nextId, { s with nextId := s.nextId + 1 })
/-- Records something the package puts out (entry 19). -/
def emit (s : State) (o : Out) : State := { s with outs := s.outs ++ [o] }
/-- Something for a package leaves on the fabric, or, where it is for this package, stays with the package's own gateway;
while `PEERID.V` is 0 the ports carry nothing (R434). -/
def toPeer (s : State) (peer : BitVec 12) (o : Out) : State :=
  if peer = fld s.mgmt.peerid 0 12 then { s with loops := s.loops ++ [o] }
  else if s.mgmt.peerid.getLsbD 12 then s.emit o
  else s
/-- The package takes the fabric's time, before any fabric access; `CYC` never steps back (R443). -/
def takeFabricTime (s : State) : State :=
  let cyc := s.cyc + Config.fabricAhead s.freeCtr
  { s.takeFree with
    cyc := cyc
    enMark := if s.cyc / 1000 = cyc / 1000 then s.enMark else tget 0 s.mgmt.energy energyModule }

end State

/-- What a meaning answers. -/
abbrev Answer := Host.Outcome State Fault Refusal

end Sys2Proof.Machine
end

