-- ==== Sys2Proof/Machine/Special.lean ====
section
/-! DEFINITION.  FP32 arithmetic without flags, division and square roots (R215, R229), the special functions of
R184, and the aligned blocks and passes of the matrix arithmetic (R61 to R65). -/

namespace Sys2Proof.Num

/-! ### FP32 under RNE -/

/-- x × y. -/
def mul32 (x y : W32) : W32 := rne32 (mulV (val32 x) (val32 y)).1
/-- x × y + z, rounded once. -/
def fma32 (x y z : W32) : W32 := rne32 (fmaV false (val32 x) (val32 y) (val32 z)).1
/-- −x. -/
def neg32 (x : W32) : W32 := x ^^^ 0x80000000
/-- x − y. -/
def sub32 (x y : W32) : W32 := add32 x (neg32 y)
/-- |x|. -/
def abs32 (x : W32) : W32 := x &&& 0x7FFFFFFF
/-- A value known by a magnitude and whether something is left below it, rounded to FP32. -/
def rneSticky (neg : Bool) (m : Nat) (e : Int) (st : Bool) : W32 :=
  let r := roundCode fp32 .rne neg m e st 0
  BitVec.ofNat 32 (fp32.signBit neg + min r.1 fp32.infCode)
/-- Whether it is a NaN. -/
def isNan32 (x : W32) : Bool := (val32 x).isNan
/-- Whether it is an infinity. -/
def isInf32 (x : W32) : Bool := (val32 x).isInf
/-- x < y, false with a NaN. -/
def lt32 (x y : W32) : Bool :=
  !isNan32 x && !isNan32 y && cmpV (val32 x) (val32 y) = .lt
/-- x = y as numbers, false with a NaN. -/
def eq32 (x y : W32) : Bool :=
  !isNan32 x && !isNan32 y && cmpV (val32 x) (val32 y) = .eq
/-- x ≤ y, false with a NaN. -/
def le32 (x y : W32) : Bool := lt32 x y || eq32 x y
/-- A natural number in FP32. -/
def nat32 (n : Nat) : W32 := rne32 (.fin false n 0)
/-- An integer in FP32. -/
def int32 (i : Int) : W32 := rne32 (.ofInt i)

/-- x ÷ y, rounded once. -/
def div32 (x y : W32) : W32 :=
  match val32 x, val32 y with
  | .nan, _ => nan32
  | _, .nan => nan32
  | .inf _, .inf _ => nan32
  | .inf a, .fin b _ _ => rne32 (.inf (a != b))
  | .fin a _ _, .inf b => rne32 (.zero (a != b))
  | .fin a m1 e1, .fin b m2 e2 =>
    if m2 = 0 then (if m1 = 0 then nan32 else rne32 (.inf (a != b)))
    else
      let n := m1 * 2 ^ 64
      rneSticky (a != b) (n / m2) (e1 - e2 - 64) (decide (n % m2 ≠ 0))

/-- The integer square root of a number below 2^(2k): the bits from k − 1 down, added to what is known. -/
def isqrtBits (n : Nat) : Nat → Nat → Nat
  | 0, r => r
  | k + 1, r => isqrtBits n k (if (r + 2 ^ k) * (r + 2 ^ k) ≤ n then r + 2 ^ k else r)
/-- The square root of p/q × 2^(2e), rounded once. -/
def sqrtQ (p q : Nat) (e : Int) : W32 :=
  let n := p * 2 ^ 64 / q
  let r := isqrtBits n 72 0
  rneSticky false r (e - 32) (!(decide (r * r * q = p * 2 ^ 64)))
/-- √x for x ≥ 0, rounded once. -/
def sqrt32 (x : W32) : W32 :=
  match val32 x with
  | .nan => nan32
  | .inf neg => if neg then nan32 else x
  | .fin neg m e =>
    if m = 0 then x
    else if neg then nan32
    else if e % 2 = 0 then sqrtQ m 1 (e / 2) else sqrtQ (2 * m) 1 ((e - 1) / 2)

/-! ### Special functions (R184) -/

/-- 1.0. -/
def one32 : W32 := 0x3F800000
/-- +∞. -/
def inf32 : W32 := 0x7F800000
/-- −∞. -/
def ninf32 : W32 := 0xFF800000
/-- 1/ln 2. -/
def lInv : W32 := 0x3FB8AA3B
/-- (ln 2)^k / k! for k from 6 down to 0. -/
def expC : List W32 := [0x39218489, 0x3AAEC3FF, 0x3C1D955B, 0x3D635847, 0x3E75FDF0, 0x3F317218, 0x3F800000]
/-- 2/((2k + 1) ln 2) for k from 4 down to 0. -/
def logD : List W32 := [0x3EA4258A, 0x3ED30BB1, 0x3F13BB63, 0x3F76384F, 0x4038AA3B]
/-- √(2/π). -/
def geluG0 : W32 := 0x3F4C422A
/-- 0.044715 × √(2/π). -/
def geluG1 : W32 := 0x3D122279

/-- Horner's rule by FMA over coefficients, the highest first. -/
def horner (x : W32) : List W32 → W32
  | [] => 0
  | c :: cs => cs.foldl (fun p k => fma32 p x k) c
/-- Round(x × 2^n). -/
def scale32 (x : W32) (n : Int) : W32 := rne32 ((val32 x).scale n)

/-- EXP2CORE. -/
def exp2core (t : W32) : W32 :=
  match val32 t with
  | .nan => nan32
  | .inf neg => if neg then 0 else inf32
  | .fin neg m e =>
    if cmpV (.fin neg m e) (.fin false 128 0) ≠ .lt then inf32
    else if cmpV (.fin neg m e) (.fin true 150 0) = .lt then 0
    else
      let r := (roundAt .rne neg m e false 0 0).1
      let n : Int := if neg then -(r : Int) else r
      scale32 (horner (sub32 t (int32 n)) expC) n

/-- Decompose: the significand m in [1, 2) of a finite nonzero value, as FP32, and the exponent. -/
def decompose (m : Nat) (e : Int) : W32 × Int := (rne32 (.fin false m (-(Nat.log2 m : Int))), Nat.log2 m + e)

/-- RCPCORE. -/
def rcpcore (y : W32) : W32 :=
  match val32 y with
  | .fin neg m e =>
    let d := decompose m e
    let j := m * 128 / 2 ^ Nat.log2 m - 128
    let step := fun (r : W32) => fma32 r (fma32 (neg32 d.1) r one32) r
    let r := scale32 (step (step (div32 (nat32 256) (nat32 (257 + 2 * j))))) (-d.2)
    if neg then neg32 r else r
  | _ => nan32

/-- What a special function gives: its result and its flags. -/
abbrev Spec := W32 × Flags

/-- The only flag of a finite case: OF when a finite input gives an infinite result. -/
def ofFlag (x r : W32) : Flags := if !isInf32 x && isInf32 r then fOF else noFlags

/-- `VEXP2`. -/
def fExp2 (x : W32) : Spec := if isNan32 x then (nan32, noFlags) else (exp2core x, ofFlag x (exp2core x))
/-- `VEXP`. -/
def fExp (x : W32) : Spec :=
  if isNan32 x then (nan32, noFlags)
  else
    let r := if isInf32 x then exp2core x else exp2core (mul32 x lInv)
    (r, ofFlag x r)
/-- `VRCP`. -/
def fRcp (x : W32) : Spec :=
  match val32 x with
  | .nan => (nan32, noFlags)
  | .inf neg => (if neg then 0x80000000 else 0, noFlags)
  | .fin neg m _ =>
    if m = 0 then (if neg then ninf32 else inf32, fDZ) else (rcpcore x, ofFlag x (rcpcore x))
/-- The Newton steps of `VRSQ` on m in [1, 4) given by a numerator over 2^t. -/
def rsqCore (m t : Nat) (e : Int) : W32 :=
  let j := m * 64 / 2 ^ t - 64
  let h := rne32 (.fin false m (-(t : Int) - 1))
  let step := fun (r : W32) => mul32 r (fma32 (neg32 h) (mul32 r r) 0x3FC00000)
  scale32 (step (step (sqrtQ 128 (129 + 2 * j) 0))) (-e / 2)
/-- `VRSQ`. -/
def fRsq (x : W32) : Spec :=
  match val32 x with
  | .nan => (nan32, noFlags)
  | .inf neg => if neg then (nan32, fNV) else (0, noFlags)
  | .fin neg m e =>
    if m = 0 then (if neg then ninf32 else inf32, fDZ)
    else if neg then (nan32, fNV)
    else
      let t := Nat.log2 m
      let x2 : Int := t + e
      let r := if x2 % 2 = 0 then rsqCore m t x2 else rsqCore (2 * m) t (x2 - 1)
      (r, ofFlag x r)
/-- `VLOG2`. -/
def fLog2 (x : W32) : Spec :=
  match val32 x with
  | .nan => (nan32, noFlags)
  | .inf neg => if neg then (nan32, fNV) else (inf32, noFlags)
  | .fin neg m e =>
    if m = 0 then (ninf32, fDZ)
    else if neg then (nan32, fNV)
    else
      let t := Nat.log2 m
      let big := decide (2 * 2 ^ (2 * t) ≤ m * m)
      let t' : Int := if big then t + 1 else t
      let f := rne32 (addFin false false m (-t') true 1 0)
      let sm := mul32 f (rcpcore (add32 0x40000000 f))
      let p := horner (mul32 sm sm) logD
      (add32 (int32 (t' + e)) (mul32 sm p), noFlags)
/-- The value of `VTANH`. -/
def tanh32 (x : W32) : W32 :=
  match val32 x with
  | .nan => nan32
  | .inf neg => if neg then neg32 one32 else one32
  | .fin neg m e =>
    if cmpMag m e 1 (-12) = .lt then x
    else if cmpMag m e 9 0 ≠ .lt then (if neg then neg32 one32 else one32)
    else
      let a := abs32 x
      let r := rcpcore (add32 one32 (exp2core (mul32 (add32 a a) lInv)))
      let y := fma32 0xC0000000 r one32
      if neg then neg32 y else y
/-- `VTANH`. -/
def fTanh (x : W32) : Spec := (tanh32 x, noFlags)
/-- The value of `VSIG`. -/
def sig32 (x : W32) : W32 :=
  match val32 x with
  | .nan => nan32
  | .inf neg => if neg then 0 else one32
  | .fin .. =>
    let t := exp2core (mul32 (neg32 x) lInv)
    if t = inf32 then 0 else rcpcore (add32 one32 t)
/-- `VSIG`. -/
def fSig (x : W32) : Spec := (sig32 x, noFlags)
/-- The value of `VGELU`. -/
def gelu32 (x : W32) : W32 :=
  match val32 x with
  | .nan => nan32
  | .inf neg => if neg then 0 else inf32
  | .fin .. =>
    let w := mul32 x (fma32 geluG1 (mul32 x x) geluG0)
    let h := mul32 0x3F000000 x
    fma32 h (tanh32 w) h
/-- `VGELU`. -/
def fGelu (x : W32) : Spec := (gelu32 x, ofFlag x (gelu32 x))

/-! ### Aligned blocks and passes (R61 to R65) -/

/-- A K-block in aligned-integer form: the signed integers, the exponent, the values before alignment, and whether the
block is a NaN block. -/
structure Block where
  q : List Int
  e : Int
  vals : List Val
  nanBlock : Bool := false
  deriving DecidableEq, Repr

/-- `Align(block, W)` of floating elements, or the integer form (R61). -/
def alignBlock (fmt : Fmt) (w : Nat) (codes : List Nat) : Block :=
  let vals := codes.map (decodeVal fmt)
  match fltOf fmt with
  | none =>
    { q := vals.map fun
        | .fin neg m _ => if neg then -(m : Int) else m
        | _ => 0
      e := 0, vals := vals }
  | some _ =>
    let top := vals.foldl (fun (b : Option Int) v =>
      match v with
      | .fin _ m e =>
        if m = 0 then b
        else
          match b with
          | none => some (log2v m e)
          | some y => some (max y (log2v m e))
      | _ => b) none
    match top with
    | none => { q := vals.map fun _ => 0, e := 0, vals := vals }
    | some t =>
      let e0 := t - ((w : Int) - 1)
      { q := vals.map fun
          | .fin neg m e =>
            let r := (roundAt .rne neg m e false e0 0).1
            if neg then -(r : Int) else r
          | _ => 0
        e := e0, vals := vals }
/-- A block of the 4-bit code family with its scale byte (R48, R49). -/
def f4AlignBlock (scale : Nat) (codes : List Nat) : Block :=
  { q := codes.map (f4Int (scale / 64 % 4)), e := f4X (scale / 64 % 4) + (scale % 64 : Nat) - 32
    vals := codes.map (f4Val scale), nanBlock := decide (scale % 64 = 63) }
/-- A block of A under its scale byte (R204). -/
def Block.scaled (b : Block) (t : Nat) : Block :=
  if t = 255 then { b with nanBlock := true } else { b with e := b.e + (t : Int) - 127 }

/-- Two values' product where one of them is infinite (R65). -/
def specialProd (x y : Val) : Option Val :=
  if x.isInf || y.isInf then
    some (if x.isZero || y.isZero then .nan else .inf (x.neg != y.neg))
  else none
/-- Two special values together: a NaN, or opposite infinities, give a NaN. -/
def joinSpecial (x y : Val) : Val :=
  match x, y with
  | .nan, _ => .nan
  | _, .nan => .nan
  | .inf a, .inf b => if a = b then .inf a else .nan
  | .inf a, .fin .. => .inf a
  | .fin .., v => v

/-- The value of one block product: the exact integer times 2^e, or a special value (R63, R65). -/
def blockProd (a b : Block) : Val :=
  if a.nanBlock || b.nanBlock || a.vals.any Val.isNan || b.vals.any Val.isNan then .nan
  else
    let sp := (List.zipWith specialProd a.vals b.vals).filterMap id
    match sp with
    | [] =>
      let p := (List.zipWith (· * ·) a.q b.q).foldl (· + ·) 0
      .fin (decide (p < 0)) p.natAbs (a.e + b.e)
    | v :: vs => vs.foldl joinSpecial v

/-- floor(|t| / ω) for ω = 2^w, and whether something is left. -/
def floorAt (m : Nat) (e w : Int) : Nat × Bool :=
  if w ≤ e then (shiftUp m (e - w), false) else (m / 2 ^ (w - e).toNat, decide (m % 2 ^ (w - e).toNat ≠ 0))

/-- The sum of finite nonzero terms in the 80-bit window, rounded once (R64). -/
def windowSum (ts : List (Bool × Nat × Int)) : W32 :=
  match ts with
  | [] => 0
  | t :: rest =>
    let top := rest.foldl (fun l u => max l (log2v u.2.1 u.2.2)) (log2v t.2.1 t.2.2)
    let w := top - 73
    let s : Int := ts.foldl (fun a u =>
      let f : Int := (floorAt u.2.1 u.2.2 w).1
      if u.1 then a - f else a + f) 0
    let st := ts.any fun u => (floorAt u.2.1 u.2.2 w).2
    if s = 0 then 0 else rneSticky (decide (s < 0)) s.natAbs w st

/-- One pass (R64, R65): up to 16 block products and the old value, if there is one. -/
def pass (prods : List Val) (old : Option W32) : W32 :=
  let vs := prods ++ (match old with
    | some o => [val32 o]
    | none => [])
  let sp := vs.filter fun v => v.isNan || v.isInf
  match sp with
  | [] =>
    windowSum (vs.filterMap fun
      | .fin neg m e => if m = 0 then none else some (neg, m, e)
      | _ => none)
  | v :: rest =>
    match rest.foldl joinSpecial v with
    | .inf neg => if neg then ninf32 else inf32
    | _ => nan32

/-- The passes of one output over its blocks, K ascending; the fuel is the number of passes at most. -/
def passes : Nat → List Block → List Block → Option W32 → Option W32
  | 0, _, _, v => v
  | n + 1, as, bs, v =>
    match as with
    | [] => v
    | _ :: _ =>
      passes n (as.drop 16) (bs.drop 16) (some (pass (List.zipWith blockProd (as.take 16) (bs.take 16)) v))
/-- The dot product of a row and a column added to an old value, if there is one. -/
def dot (as bs : List Block) (old : Option W32) : W32 := (passes (as.length / 16 + 1) as bs old).getD 0

/-- A pair of formats a matrix command accepts (R62). -/
def pairOk (a b : Fmt) : Bool :=
  (3 ≤ a.toNat && a.toNat ≤ 6 && ((3 ≤ b.toNat && b.toNat ≤ 6) || b = 13)) || (a = 2 && b = 2)
/-- The alignment width of a code (R154, R203). -/
def alignWidth (aw : BitVec 2) : Nat := if aw = 0 then 8 else if aw = 1 then 12 else 16

end Sys2Proof.Num
end

