-- ==== Sys2Proof/Machine/Touch.lean ====
section
/-! DEFINITION.  Where things lie: the physical map (R267), the shape of a tile (R277, R278), and the ranges of memory
that requests and copies have still to read and to write (R311, R344, R375). -/

namespace Sys2Proof.Machine

/-! ### The physical map (R267) -/

/-- HBM4E. -/
def inHbm (a : Nat) : Bool := a < 0xC000000000
/-- The LPDDR tier. -/
def inTier (a : Nat) : Bool := 0x10000000000 ≤ a && a < 0x28000000000
/-- The vaults. -/
def inVault (a : Nat) : Bool := 0x100000000000 ≤ a && a < 0x100030000000
/-- The core scratch windows. -/
def inWindow (a : Nat) : Bool := 0x110000000000 ≤ a && a < 0x110030000000
/-- An address that memory stands behind. -/
def mapped (a : Nat) : Bool := inHbm a || inTier a || inVault a || inWindow a
/-- Where a core's scratch window begins (R267). -/
def windowBase (c : Nat) : Nat := 0x110000000000 + c * 0x200000
/-- The core whose scratch window holds an address of the windows' range. -/
def windowCore (a : Nat) : Nat := (a - 0x110000000000) / 0x200000

/-- The outpost that the owner of a local page chooses (R361): the base die of its stack, the vault controller, or
the I/O die of its channel. -/
def outpostOf (base : Nat) : Nat :=
  let page := base / 4096
  if inHbm base then 4 * (base / 0x1000000000) + page % 4
  else if inVault base then 48 + (base - 0x100000000000) / 0x800000
  else 144 + 2 * ((base - 0x10000000000) / 0xC00000000 / 16) + page % 2

/-- Whether two byte ranges overlap. -/
def overlap (a n b m : Nat) : Bool := decide (0 < n) && decide (0 < m) && decide (a < b + m) && decide (b < a + n)

/-- A byte with the bits under a mask replaced. -/
def maskByte (m new old : Byte) : Byte := (new &&& m) ||| (old &&& ~~~m)

/-! ### Records -/

/-- A little-endian field of a record. -/
def recNat (bs : List Byte) (lo n : Nat) : Nat := leNat ((bs.drop lo).take n)
/-- Whether the bytes of a record from one place on, `n` of them, are all 0. -/
def recZero (bs : List Byte) (lo n : Nat) : Bool := ((bs.drop lo).take n).all fun b => b = 0

/-! ### The tensor parameter block (R287, R288) -/

/-- The fields of a parameter block. -/
structure Tpb where
  at0 : Nat
  tid : Nat
  ctl : Nat
  back : Nat
  fwd : Nat
  commit : W32
  rel : W32
  depth : Nat
  nelem : Nat
  mbase : Nat
  momb : Nat
  secb : Nat
  hbase : Nat
  rbase : Nat
  lr : W32
  b1 : W32
  c1 : W32
  b2 : W32
  c2 : W32
  eps : W32
  clip : W32
  waitlim : Nat
  deriving DecidableEq, Repr

/-- The fields of 256 bytes. -/
def parseTpb (at0 : Nat) (b : List Byte) : Tpb :=
  let w := fun (i : Nat) => BitVec.ofNat 32 (recNat b i 4)
  { at0 := at0, tid := recNat b 0 2, ctl := recNat b 2 1, back := recNat b 3 1 % 16, fwd := recNat b 3 1 / 16 % 8
    commit := w 4, rel := w 8, depth := recNat b 13 1 % 32, nelem := recNat b 16 8, mbase := recNat b 24 8
    momb := recNat b 32 8, secb := recNat b 40 8, hbase := recNat b 48 8, rbase := recNat b 56 8, lr := w 64, b1 := w 68
    c1 := w 72, b2 := w 76, c2 := w 80, eps := w 84, clip := w 88, waitlim := recNat b 92 4 }

namespace Tpb

/-- KIND is adaptive. -/
def adaptive (t : Tpb) : Bool := t.ctl / 2 % 4 = 1
/-- POL is WAIT. -/
def waits (t : Tpb) : Bool := t.ctl / 8 % 2 = 0
/-- The number of granules. -/
def granules (t : Tpb) : Nat := t.nelem / 1024
/-- The ring slot of the filing of a step for a granule (R298). -/
def slot (t : Tpb) (step g : Nat) : Nat := t.rbase + (step % t.depth * t.granules + g) * 4672

end Tpb

/-- Whether a range lies in one HBM4E stack. -/
def inStack (stack a n : Nat) : Bool :=
  inHbm a && inHbm (a + n - 1) && a / 0x1000000000 = stack && (a + n - 1) / 0x1000000000 = stack

/-- Whether a block whose V bit is set has the fields of a parameter block that no store reaches while it is armed (R288,
R289). -/
def tpbLayout (t : Tpb) (b : List Byte) : Bool :=
  let stack := t.at0 / 0x1000000000
  let ring := t.depth * t.granules * 4672
  recNat b 3 1 < 128 && recZero b 12 1 && recNat b 13 1 < 32 && recZero b 14 2 && recZero b 96 160 &&
    t.commit ≠ BitVec.allOnes 32 && t.back + 1 ≤ t.depth && t.depth ≤ 16 && t.nelem ≠ 0 && t.nelem % 1024 = 0 &&
    t.mbase % 4096 = 0 && t.momb % 4096 = 0 && t.secb % 4096 = 0 && t.hbase % 4 = 0 && t.rbase % 64 = 0 &&
    inStack stack t.at0 256 && inStack stack t.mbase (4 * t.nelem) && inStack stack t.momb (4 * t.nelem) &&
    inStack stack t.hbase (4 * t.granules) &&
    ((inHbm t.rbase && inHbm (t.rbase + ring - 1)) || (inTier t.rbase && inTier (t.rbase + ring - 1)))
/-- The checks of R288 that concern a block's own bytes. -/
def tpbForm (t : Tpb) (b : List Byte) : Bool :=
  let stack := t.at0 / 0x1000000000
  let ring := t.depth * t.granules * 4672
  t.ctl % 2 = 1 && t.ctl / 16 = 0 && t.ctl / 2 % 4 ≤ 1 && recNat b 3 1 < 128 && recZero b 12 1 && recNat b 13 1 < 32 &&
    recZero b 14 2 && recZero b 96 160 && t.commit ≠ BitVec.allOnes 32 &&
    t.back + 1 ≤ t.depth && t.depth ≤ 16 && t.nelem ≠ 0 && t.nelem % 1024 = 0 &&
    t.mbase % 4096 = 0 && t.momb % 4096 = 0 && (if t.adaptive then t.secb % 4096 = 0 else t.secb = 0) &&
    t.hbase % 4 = 0 && t.rbase % 64 = 0 && Num.lt32 0 t.clip &&
    inStack stack t.at0 256 && inStack stack t.mbase (4 * t.nelem) && inStack stack t.momb (4 * t.nelem) &&
    inStack stack t.hbase (4 * t.granules) && (!t.adaptive || inStack stack t.secb (4 * t.nelem)) &&
    ((inHbm t.rbase && inHbm (t.rbase + ring - 1)) || (inTier t.rbase && inTier (t.rbase + ring - 1)))

/-! ### The shape of a tile (R278) -/

/-- The extent of a dimension. -/
def Desc.e (d : Desc) (i : Nat) : Nat := d.ext.getD i 0
/-- STR1 to STR3. -/
def Desc.s (d : Desc) (i : Nat) : Nat := d.str.getD (i - 1) 0

/-- The tensor and the rectangle that a request names. -/
structure TileBox where
  d : Desc
  c : List Int
  tw : Nat
  th : Nat
  deriving DecidableEq, Repr

namespace TileBox

/-- A coordinate. -/
def at0 (b : TileBox) (i : Nat) : Int := b.c.getD i 0
/-- The first column inside the tensor, and the first beyond. -/
def xs (b : TileBox) : Nat × Nat :=
  let x0 := min b.tw (-(b.at0 0)).toNat
  (x0, max x0 (min b.tw ((b.d.e 0 : Int) - b.at0 0).toNat))
/-- The rows that hold elements of the tensor. -/
def rows (b : TileBox) : List Nat :=
  let inside := fun (i : Nat) (k : Int) => decide (0 ≤ k) && decide (k < b.d.e i)
  if b.xs.1 < b.xs.2 && inside 2 (b.at0 2) && inside 3 (b.at0 3) then
    (List.range b.th).filter fun y => inside 1 (b.at0 1 + y)
  else []
/-- Whether an element lies in the tensor. -/
def holds (b : TileBox) (x y : Nat) : Bool := b.rows.contains y && b.xs.1 ≤ x && x < b.xs.2
/-- The byte offset of element 0 of a row's dimension 0. -/
def rowAt (b : TileBox) (y : Nat) : Nat :=
  b.d.doff + (b.at0 3).toNat * b.d.s 3 + (b.at0 2).toNat * b.d.s 2 + (b.at0 1 + y).toNat * b.d.s 1
/-- The bit offset of an element in the data page. -/
def bitAt (b : TileBox) (x y : Nat) : Nat := 8 * b.rowAt y + (b.at0 0 + x).toNat * Num.width b.d.fmt
/-- The bytes of a row's elements: offset and number. -/
def span (b : TileBox) (y : Nat) : Nat × Nat :=
  let lo := b.bitAt b.xs.1 y / 8
  (lo, (b.bitAt b.xs.2 y + 7) / 8 - lo)
/-- The offset and number of the scale bytes of a row (R277). -/
def scaleSpan (b : TileBox) (y : Nat) : Nat × Nat :=
  (b.d.soff + (((b.at0 3).toNat * b.d.e 2 + (b.at0 2).toNat) * b.d.e 1 + (b.at0 1 + y).toNat) * (b.d.e 0 / 32) +
    (b.at0 0 + b.xs.1).toNat / 32, b.xs.2 / 32 - b.xs.1 / 32)
/-- The limits of R278. -/
def ok (b : TileBox) : Bool :=
  b.tw * b.th * Num.width b.d.fmt ≤ 1048576 && !(b.d.fmt = 13 && (b.tw % 32 ≠ 0 || b.at0 0 % 32 ≠ 0))

end TileBox

/-- The box of a captured request. -/
def TileReq.box (t : TileReq) : TileBox := { d := t.desc, c := t.c, tw := t.tw, th := t.th }

/-- The bytes of `n` elements of a format. -/
def packedBytes (f : Fmt) (n : Nat) : Nat := (n * Num.width f + 7) / 8
/-- The bytes that a tile takes in core scratch (R313). -/
def tileBytes (f : Fmt) (tw th : Nat) : Nat := packedBytes f (tw * th) + (if f = 13 then tw * th / 32 else 0)

/-! ### What requests and copies read and write -/

/-- Where a range of the tensor's handle and of its scales' handle lies, row by row. -/
def TileReq.tensor (t : TileReq) : List (Nat × Nat) :=
  let b := t.box
  b.rows.flatMap fun y =>
    ((Handle.addr t.dh).toNat + (b.span y).1, (b.span y).2) ::
      (if t.desc.sv then [((Handle.addr t.sh).toNat + (b.scaleSpan y).1, (b.scaleSpan y).2)] else [])
/-- The tile in core scratch, from the core's window on. -/
def TileReq.tile (t : TileReq) (base : Nat) : List (Nat × Nat) := [(base + t.dst, tileBytes t.outf t.tw t.th)]

/-- The ranges that a request reads on the scalar path, by the window of its core. -/
def ReqKind.reads (base : Nat) : ReqKind → List (Nat × Nat)
  | .tile t => if t.store then t.tile base else t.tensor
  | .qld fmt addr m k scale =>
    (base + addr, packedBytes fmt (m * k)) ::
      (match scale with
        | some z => [(base + z, m * (k / 32))]
        | none => [])
  | .gather store size loc h offs =>
    if store then [(base + loc, offs.length * size)] else offs.map fun o => ((Handle.addr h).toNat + o, size)
  | .wrel .. => []
  | .update .. => []
/-- The ranges that it writes on that path. -/
def ReqKind.writes (base : Nat) : ReqKind → List (Nat × Nat)
  | .tile t => if t.store then t.tensor else if t.q then [] else t.tile base
  | .qld .. => []
  | .gather store size loc h offs =>
    if store then offs.map fun o => ((Handle.addr h).toNat + o, size) else [(base + loc, offs.length * size)]
  | .wrel .. => []
  | .update .. => []
/-- What a request has still to read: nothing, once its tile waits for the operand queue. -/
def Req.reads (base : Nat) (r : Req) : List (Nat × Nat) := if r.tile.isSome then [] else r.kind.reads base

/-- The operand size of a type code of R80: 4 for `.i32` and `.f32`, 8 for `.i64`. -/
def amoSize (ty : BitVec 2) : Nat := if ty = 1 then 8 else 4
/-- The bytes that a remote operation touches. -/
def State.opBytes : RemOp → Nat
  | .load n => n
  | .store d => d.length
  | .bits _ d => d.length
  | .atom _ ty _ _ => amoSize ty
  | .add _ d => 4 * d.length
  | .call _ _ _ _ => 1
/-- The owner of a fabric address. -/
def State.fabPeer (a : BitVec 57) : BitVec 12 := fld a 45 12
/-- Its window page: bits 44:12 (R336). -/
def State.fabPage (a : BitVec 57) : BitVec 33 := fld a 12 33
/-- The exporting function of a fabric address. -/
def State.fabFn (a : BitVec 57) : Nat := (fld a 36 9).toNat
/-- The virtual address of an export walk. -/
def State.fabVa (a : BitVec 57) : Nat := (fld a 0 36).toNat
/-- A directory entry that covers a virtual address. -/
def DirEntry.covers (e : DirEntry) (die : Nat) (x : CtxId) (va : Nat) : Bool :=
  e.die = die && e.ctx = x && va / pageBytes e.pgsz = e.page
/-- The export directory's entry for an address of a function (R435). -/
def State.exportEntry (s : State) (ctx : CtxId) (va : Nat) : Option DirEntry := s.dir.find? fun d => d.covers 4 ctx va
/-- Where the package's export directory places a fabric address of its own. -/
def State.fabHome (s : State) (a : BitVec 57) : Option Nat :=
  if h : State.fabFn a < 385 then
    (s.exportEntry ⟨State.fabFn a, h⟩ (State.fabVa a)).map fun d => d.addr.toNat + State.fabVa a % pageBytes d.pgsz
  else none
/-- Whether a remote access is an access of its stream's own, and none of a call or of a copy (R369). -/
def RemAcc.direct (r : RemAcc) : Bool :=
  (match r.op with
    | .call .. => false
    | _ => true) &&
  (match r.dest with
    | .unit .. => false
    | _ => true)
/-- Whether two ranges share a byte as far as their places in a 4 KB page tell, of which an owner translates one (R435). -/
def overlapPage (a n b m : Nat) : Bool :=
  let d := (b % 4096 + 4096 - a % 4096) % 4096
  decide (0 < n) && decide (0 < m) && (decide (d < n) || decide (4096 < d + m))

/-- The receivers of a mask: cores of the cluster. -/
def maskCores (c : Nat) (m : BitVec 4) : List Nat := ((List.range 4).filter fun i => m.getLsbD i).map fun i => clusterOf c * 4 + i
/-- The physical address a handle and an offset name. -/
def handlePhys (h : Handle) (off : Int) : Nat := ((Handle.addr h).toNat + off).toNat

/-- Units in a row of a copy. -/
def Copy.perRow (x : Copy) : Nat := x.len / 64
/-- Units in all. -/
def Copy.total (x : Copy) : Nat := x.rows * x.perRow
/-- The distance of unit `u` from the start, for a row stride in units. -/
def Copy.unitAt (x : Copy) (stride u : Nat) : Nat := u / x.perRow * stride * 64 + u % x.perRow * 64
/-- The units that a copy has still to read from memory of this package: first address and length of each row's rest. -/
def Copy.reads (base : Nat) (x : Copy) : List (Nat × Nat) :=
  let at0 := if x.sk then (Handle.addr x.sh).toNat + x.src.toNat else base + x.src.toNat
  let from_ := x.unit + (if x.data.isEmpty && !x.remote then 0 else 1)
  if !x.busy || x.kind = .fill || (x.sk && Handle.remote x.sh) || (x.kind = .rot && x.rotOn) then []
  else
    (List.range x.rows).filterMap fun r =>
      let lo := max (r * x.perRow) from_
      let hi := (r + 1) * x.perRow
      if lo < hi then some (at0 + x.unitAt x.sstr lo, 64 * (hi - lo)) else none
/-- The units that a copy has still to land in this package, by the windows of its receivers: first address and length of
each row's rest. -/
def Copy.lands (bases : List Nat) (x : Copy) : List (Nat × Nat) :=
  let starts := if x.dk then [(Handle.addr x.dh).toNat + x.dst.toNat] else bases.map fun b => b + x.dst.toNat
  if !x.busy || x.kind = .send || (x.dk && Handle.remote x.dh) then []
  else
    starts.flatMap fun at0 => (List.range x.rows).filterMap fun r =>
      let lo := max (r * x.perRow) x.unit
      let hi := (r + 1) * x.perRow
      if lo < hi then some (at0 + x.unitAt x.dstr lo, 64 * (hi - lo)) else none

/-- What a copy still moves from or to another package, or this one as its own peer: rows by fabric address, which of them
depends on the handle. -/
def Copy.away (own : BitVec 57 → Bool) (x : Copy) : List (Nat × Nat) :=
  let rows := fun (h : Handle) (off : Word) (stride : Nat) =>
    if Handle.remote h && own (Handle.addr h) then
      (List.range x.rows).filterMap fun r =>
        let lo := max (r * x.perRow) x.unit
        let hi := (r + 1) * x.perRow
        if lo < hi then some ((Handle.addr h).toNat + off.toNat + x.unitAt stride lo, 64 * (hi - lo)) else none
    else []
  (if x.sk then rows x.sh x.src x.sstr else []) ++ if x.dk then rows x.dh x.dst x.dstr else []

/-! ### Gangs -/

namespace State

/-- A gang by its number. -/
def gang (s : State) (n : Nat) : Option Gang := s.gangs.find? fun g => g.id = n
/-- The core of the ring neighbour (R347). -/
def neighbour (s : State) (c : Nat) (bankB : Bool) : Nat :=
  let j := ((s.core c).get bankB).job
  match s.gang j.gang with
  | some g => g.cores.getD ((j.rank.toNat + 1) % g.cores.length) c
  | none => c
/-- The cores in whose scratch a unit of a copy lands. -/
def receivers (s : State) (c : Nat) (bankB : Bool) (x : Copy) : List Nat :=
  if x.kind = .mcast then maskCores c x.mask else if x.kind = .rot then [s.neighbour c bankB] else [c]

end State

end Sys2Proof.Machine
end

