-- ==== Sys2Proof/Machine/Order.lean ====
section
/-! DEFINITION.  The ordering machine (R366 to R390): path buffers, the coherence order, visibility, chains, and
the reads and writes of every agent over them. -/

namespace Sys2Proof.Machine

/-! ### Parties and scopes (R366, R380) -/

/-- A stream of this package as a party. -/
def Party.stream (c : Nat) (bankB : Bool) (e : Eng) : Party := { core := c, bankB := bankB, eng := e.num }
/-- The party that stands for the device's own units. -/
def Party.dev : Party := { core := 384, eng := 0 }
/-- The party that stands for the copy and event nodes of graphs, which write for software (R249, R289). -/
def Party.graph : Party := { core := 384, eng := 1 }
/-- The party that stands for the host. -/
def Party.host : Party := { pkg := 1, core := 0, eng := 0 }
/-- The number by which a remote access names its stream: core, bank and engine (R370). -/
def strmNo (c : Nat) (bankB : Bool) (e : Eng) : Nat := 8 * c + (if bankB then 4 else 0) + e.num
/-- The stream of another package that a remote access names, as a party; a package's own number names itself (R434). -/
def State.peerParty (s : State) (peer : BitVec 12) (strm : Nat) : Party :=
  { pkg := if peer = fld s.mgmt.peerid 0 12 then 0 else 2 + peer.toNat
    core := strm / 8, bankB := strm / 4 % 2 = 1, eng := strm % 4 }

/-- The narrowest scope, plus one, whose instance of the first party holds the second (R380). -/
def Party.reach (w r : Party) : Nat :=
  if w = r then 1
  else if w.pkg ≠ r.pkg then 6
  else if w.core = r.core then 2
  else if 384 ≤ w.core ∨ 384 ≤ r.core then 5
  else if clusterOf w.core = clusterOf r.core then 3
  else if dieOf w.core = dieOf r.core then 4
  else 5

/-- Whether an address lies in one of some ranges. -/
def inRanges (rs : List (Nat × Nat)) (a : Nat) : Bool := rs.any fun r => r.1 ≤ a && a < r.1 + r.2
/-- The channels of the LPDDR tier in which some ranges lie, 0 to 31 (R267). -/
def tierChans (rs : List (Nat × Nat)) : List Nat :=
  (((rs.filter fun x => 0 < x.2).flatMap fun x => [x.1, x.1 + x.2 - 1]).filter inTier |>.map fun a =>
    (a - 0x10000000000) / 0xC00000000).eraseDups
/-- Whether some ranges share a byte with others. -/
def rangesMeet (xs ys : List (Nat × Nat)) : Bool := xs.any fun x => ys.any fun y => overlap x.1 x.2 y.1 y.2

namespace Write

/-- The byte a write gives an address, if it covers it whole. -/
def byteAt (w : Write) (a : Nat) : Option Byte := (w.cells.find? fun c => c.1 == a).map (·.2)
/-- The byte at an address after the write, given the byte before it. -/
def byteOver (w : Write) (a : Nat) (below : Byte) : Byte :=
  match w.byteAt a with
  | some b => b
  | none =>
    match w.half.find? fun c => c.1 == a with
    | some (_, m, v) => maskByte m v below
    | none => below
/-- Its bytes as ranges. -/
def ranges (w : Write) : List (Nat × Nat) := (w.cells.map fun c => (c.1, 1)) ++ w.half.map fun c => (c.1, 1)
/-- Whether it shares a byte with some ranges. -/
def hits (w : Write) (rs : List (Nat × Nat)) : Bool :=
  (w.cells.any fun c => inRanges rs c.1) || w.half.any fun c => inRanges rs c.1
/-- Whether a write is visible to a party's load on a path (R373). -/
def visTo (w : Write) (p : Party) (q : Path) : Bool :=
  (w.party = p && w.path = q) || w.party.reach p ≤ tget 0 w.vis q.bit
/-- The write with its visibility on the named paths at least a scope (R374). -/
def widen (w : Write) (paths : BitVec 6) (scope : Nat) : Write :=
  { w with
    vis := (List.range 6).foldl
      (fun t i => if paths.getLsbD i then tset t i (max (tget 0 t i) (scope + 1)) else t) w.vis }
/-- What kind of access it is for a chain: 0 a direct one of its stream, 1 of work that the stream handed off, 2 of a call
(R369). -/
def cls (w : Write) : Nat := if w.work then (if w.path = .rem then 2 else 1) else 0

end Write

/-- Visible at `sys` scope on every path. -/
def fullVis : Tab Nat := [(0, 6), (1, 6), (2, 6), (3, 6), (4, 6), (5, 6)]

/-- The first write of a list that covers an address and satisfies a condition. -/
def newest (f : Write → Bool) (a : Nat) : List Write → Option Byte
  | [] => none
  | w :: ws =>
    match w.byteAt a with
    | some b => if f w then some b else newest f a ws
    | none => newest f a ws
/-- A byte as the writes of a list, newest first, leave it that satisfy a condition. -/
def overlay (f : Write → Bool) (a : Nat) (below : Byte) : List Write → Byte
  | [] => below
  | w :: ws => if f w then w.byteOver a (overlay f a below ws) else overlay f a below ws
/-- The numbers of the writes of a list, newest first, that must step before a write of some ranges: those that share a
byte with it, and the older ones that share a byte with one of these (R375). -/
def mustStep (f : Write → Bool) : List (Nat × Nat) → List Write → List Nat
  | _, [] => []
  | rs, w :: ws => if f w && w.hits rs then w.no :: mustStep f (w.ranges ++ rs) ws else mustStep f rs ws

/-! ### Chains (R369) -/

/-- The key of an engine's accesses of a kind. -/
def clkKey (e : Eng) (cls : Nat) : Nat := e.num + 4 * cls
/-- What two chains carry together. -/
def joinClk (a b : Tab Nat) : Tab Nat := b.foldl (fun t x => tset t x.1 (max (tget 0 t x.1) x.2)) a
/-- A chain carries the accesses of an engine, of a kind, below a number. -/
def raiseClk (t : Tab Nat) (e : Eng) (cls n : Nat) : Tab Nat := joinClk t [(clkKey e cls, n)]
/-- The chain that starts at the present of a stream of an engine: what it carries itself, all its direct accesses, and
its work that has finished. -/
def Stream.chain (t : Stream) (e : Eng) (now : Nat) : Tab Nat :=
  raiseClk (raiseClk t.clk e 0 now) e 1 t.doneAt

namespace State

/-! ### Reads -/

/-- The newest write of a byte's coherence sequence that is visible to a party on a path, else what memory holds. -/
def visByte (s : State) (p : Party) (q : Path) (a : Nat) : Byte :=
  match newest (fun w => w.visTo p q) a s.log with
  | some b => b
  | none => s.mem.read a
/-- A read step (R373): the reader's own youngest unstepped write on the path, else the newest visible write. -/
def readByte (s : State) (p : Party) (q : Path) (a : Nat) : Byte :=
  overlay (fun w => w.party = p && w.path = q) a (s.visByte p q a) s.buf
/-- The bytes from an address, lowest first. -/
def loadBytes (s : State) (p : Party) (q : Path) (a n : Nat) : List Byte :=
  (List.range n).map fun i => s.readByte p q (a + i)
/-- The same for an access that stands at place `no` of its party's issue log (R368): later writes do not count. -/
def loadAsOf (s : State) (p : Party) (q : Path) (no a n : Nat) : List Byte :=
  (List.range n).map fun i =>
    overlay (fun w => w.party = p && w.path = q && w.no < no) (a + i) (s.visByte p q (a + i)) s.buf
/-- A little-endian number read from an address (R1). -/
def loadNat (s : State) (p : Party) (q : Path) (a n : Nat) : Nat := leNat (s.loadBytes p q a n)
/-- The last entry of a byte's coherence sequence, whatever its visibility (R372). -/
def lastByte (s : State) (a : Nat) : Byte :=
  match newest (fun _ => true) a s.log with
  | some b => b
  | none => s.mem.read a

/-! ### Writes -/

/-- Whether the first 256 bytes of a page are an armed tensor parameter block: V is set, and a command has named the block or
its bytes have the layout of one (R289, entry 25). -/
def tpbArmed (s : State) (b : Nat) : Bool :=
  inHbm b && (s.lastByte (b + 2)).getLsbD 0 &&
    (s.tpbs.contains b ||
      (let bytes := (List.range 256).map fun i => s.lastByte (b + i)
       tpbLayout (parseTpb b bytes) bytes))
/-- Whether a base die drops a software store to a byte: it belongs to an armed tensor parameter block, outside CTL and
the fields from LR to WAITLIM (R289). -/
def tpbGuarded (s : State) (a : Nat) : Bool :=
  let o := a % 4096
  decide (o < 256) && decide (o ≠ 2) && !(decide (64 ≤ o) && decide (o < 96)) && s.tpbArmed (a - o)
/-- A write as it reaches memory: the device's own, or what the base dies leave of another. -/
def landed (s : State) (w : Write) : Write :=
  if w.party = Party.dev then w else { w with cells := w.cells.filter fun c => !s.tpbGuarded c.1 }

/-- A full aligned 64-byte write clears an uncorrectable error of the unit (R283). -/
def clearEcc (s : State) (cells : List (Nat × Byte)) : State :=
  { s with eccBad := s.eccBad.filter fun e =>
      !((List.range 64).all fun i => cells.any fun c => c.1 == 64 * e.1 + i) }
/-- A write of the stream that executes enters its path buffer; bytes at unmapped addresses are dropped (R453). -/
def putWrite (s : State) (p : Party) (q : Path) (cells : List (Nat × Byte)) (half : List (Nat × Byte × Byte) := [])
    (work : Bool := false) (via : Option Handle := none) : State :=
  { s with
    nextId := s.nextId + 1
    buf := { party := p, path := q, cells := cells.filter fun c => mapped c.1, half := half.filter fun c => mapped c.1
             no := s.nextId, work := work, via := via } :: s.buf }
/-- Accesses to some ranges are requests to the channels of the LPDDR tier in which these lie (R267, R281). -/
def ask (s : State) (rs : List (Nat × Nat)) : State :=
  { s with mgmt := { s.mgmt with
      chans := (tierChans rs).foldl (fun t n => tset t n 0) s.mgmt.chans
      chanReq := (tierChans rs).foldl (fun t n => tset t n s.cyc) s.mgmt.chanReq } }
/-- A write takes its write step: a byte of which it writes some bits is read and rewritten (R384). -/
def pushLog (s : State) (w : Write) : State :=
  let cells := w.cells ++ w.half.map fun (c : Nat × Byte × Byte) => (c.1, maskByte c.2.1 c.2.2 (s.lastByte c.1))
  State.ask ({ s with log := s.landed { w with cells := cells, half := [], since := s.cycles } :: s.log }.clearEcc w.cells)
    (cells.map fun c => (c.1, 1))
/-- A write takes its write step at once with a given visibility; its place in issue order is that of the instruction that
posted it, where that is given (R369). -/
def appendWrite (s : State) (p : Party) (q : Path) (cells : List (Nat × Byte)) (vis : Tab Nat) (work : Bool := true)
    (half : List (Nat × Byte × Byte) := []) (no : Option Nat := none) : State :=
  { s with nextId := s.nextId + 1 }.pushLog
    { party := p, path := q, cells := cells.filter fun c => mapped c.1, half := half.filter fun c => mapped c.1
      vis := vis, no := no.getD s.nextId, work := work }
/-- The write steps of the selected writes, oldest first (R372): each becomes visible at core scope on its own path. -/
def stepWrites (s : State) (f : Write → Bool) : State :=
  (s.buf.filter f).foldr (fun w t => t.pushLog { w with vis := [(w.path.bit, 2)] })
    { s with buf := s.buf.filter fun w => !f w }
/-- The selected writes become visible at a scope on the named paths (R374). -/
def widenWrites (s : State) (f : Write → Bool) (paths : BitVec 6) (scope : Nat) : State :=
  { s with log := s.log.map fun w => if f w then w.widen paths scope else w }
/-- A write that took its step 1,048,576 cycles ago is visible at core scope on every path (R400). -/
def ageWrites (s : State) : State := s.widenWrites (fun w => w.since + Config.visibleCycles ≤ s.cycles) 0x3F 1

end State

/-- Numbered bytes from an address. -/
def cellsAt (a : Nat) : List Byte → List (Nat × Byte)
  | [] => []
  | b :: bs => (a, b) :: cellsAt (a + 1) bs

/-- The bytes of a unit that a store replaces, by their masks: those that it replaces whole, and those of which it keeps
some bits (R187). -/
def maskCells (a : Nat) (masks data : List Byte) : List (Nat × Byte) × List (Nat × Byte × Byte) :=
  let xs := (cellsAt a data).zip masks
  ((xs.filter fun x => x.2 = 0xFF#8).map (·.1),
    (xs.filter fun x => x.2 ≠ 0 ∧ x.2 ≠ 0xFF#8).map fun x => (x.1.1, x.2, x.1.2))
/-- A piece of a write, an address with a mask and bits, laid over earlier pieces. -/
def addPiece (ps : List (Nat × Byte × Byte)) (x : Nat × Byte × Byte) : List (Nat × Byte × Byte) :=
  if ps.any fun y => y.1 = x.1 then
    ps.map fun y => if y.1 = x.1 then (y.1, y.2.1 ||| x.2.1, maskByte x.2.1 x.2.2 y.2.2) else y
  else ps ++ [x]
/-- Whole bytes as pieces. -/
def wholePieces (cs : List (Nat × Byte)) : List (Nat × Byte × Byte) := cs.map fun c => (c.1, 0xFF#8, c.2)
/-- The cells of an access, cut at multiples of a unit (R384). -/
def unitsAt (unit : Nat) : Nat → Nat → List Byte → List (List (Nat × Byte))
  | 0, _, _ => []
  | n + 1, a, bs =>
    let k := unit - a % unit
    match bs.take k with
    | [] => []
    | c :: cs => cellsAt a (c :: cs) :: unitsAt unit n (a + k) (bs.drop k)

/-! ### The order of one party's accesses (R375) -/

/-- The stream that a party of this package is. -/
def State.partyStrm (s : State) (p : Party) : Stream :=
  match engines.find? fun e => e.num = p.eng with
  | some e => if p.pkg = 0 ∧ p.core < 384 then ((s.core p.core).get p.bankB).get e else {}
  | none => {}
/-- The path of an engine's direct accesses (R367). -/
def Eng.path : Eng → Path
  | .ce => .sc | .ae => .sc | .ve => .vec | .xe => .cp

namespace State

/-- The ranges that accesses of a party before place `no` have still to read on a path: its loads and the requests of the
AE. -/
def streamReads (s : State) (p : Party) (q : Path) (no : Nat) : List (Nat × Nat) :=
  let t := s.partyStrm p
  (if (engines.any fun e => e.num = p.eng && Eng.path e = q) then
      (t.loads.filter fun l => l.id < no && l.got.isNone).map fun l => (l.addr, l.n)
    else []) ++
  (if q = .sc then (t.reqs.filter fun r => r.id < no).flatMap fun r => r.reads (windowBase p.core) else [])
/-- The copies of a party before place `no` on a path that are not over. -/
def copiesOpen (s : State) (p : Party) (q : Path) (no : Nat) : List Copy :=
  if q = .cp ∧ p.eng = Eng.xe.num ∧ p.pkg = 0 ∧ p.core < 384 then
    ((((s.core p.core).get p.bankB).copies.map (·.2)).filter fun x => x.busy && x.seq < no && x.kind ≠ .send)
  else []
/-- What loads, requests and copies of a party before place `no` have still to read. -/
def readsOpen (s : State) (p : Party) (q : Path) (no : Nat) : List (Nat × Nat) :=
  s.streamReads p q no ++ (s.copiesOpen p q no).flatMap fun x => x.reads (windowBase p.core)
/-- The ranges that copies of a party before place `no` have still to land on a path. -/
def landsOpen (s : State) (p : Party) (q : Path) (no : Nat) : List (Nat × Nat) :=
  (s.copiesOpen p q no).flatMap fun x => x.lands ((s.receivers p.core p.bankB x).map windowBase)
/-- Whether a fabric address lies in this package (R434). -/
def ownFabric (s : State) (a : BitVec 57) : Bool := s.mgmt.peerid.getLsbD 12 && fabPeer a = fld s.mgmt.peerid 0 12
/-- Whether a remote access of a party to this package, before place `no` on a path, is on its way that may share a byte with
some ranges (R434): as the export directory places it, or, where it has no entry, as far as places in a page tell.  One behind
a ticket holds no access to another page (R390). -/
def remsOpen (s : State) (p : Party) (q : Path) (no : Nat) (rs : List (Nat × Nat)) : Bool :=
  (s.partyStrm p).rems.any fun r =>
    decide (r.seq < no) && decide (r.path = q) && r.direct && !r.held && s.ownFabric r.addr &&
      match s.fabHome r.addr with
      | some a => rangesMeet rs [(a, opBytes r.op)]
      | none => rs.any fun x => overlapPage x.1 x.2 r.addr.toNat (opBytes r.op)
/-- Whether an access of a party, of place `no`, to some ranges must wait for an older one on the path that is made elsewhere:
a landing, or a remote access to this package. -/
def awayOpen (s : State) (p : Party) (q : Path) (no : Nat) (rs : List (Nat × Nat)) : Bool :=
  rangesMeet rs (s.landsOpen p q no) || s.remsOpen p q no rs ||
    (s.copiesOpen p q no).any fun x => (x.away s.ownFabric).any fun y => rs.any fun z => overlapPage z.1 z.2 y.1 y.2
/-- Whether a remote access of a party to this package, of place `no`, must wait at its issue for an older copy that may share
a byte with it. -/
def copyWaits (s : State) (p : Party) (q : Path) (no : Nat) (a : BitVec 57) (n : Nat) : Bool :=
  s.ownFabric a && (s.copiesOpen p q no).any fun x =>
    (x.reads (windowBase p.core) ++ x.lands ((s.receivers p.core p.bankB x).map windowBase) ++ x.away s.ownFabric).any fun y =>
      overlapPage a.toNat n y.1 y.2
/-- A write in a path buffer that must wait for an older access of its party. -/
def heldWrite (s : State) (w : Write) : Bool :=
  w.hits (s.readsOpen w.party w.path w.no) || s.awayOpen w.party w.path w.no w.ranges
/-- The writes of a party that must step before its access of place `no` to some ranges. -/
def stepFirst (s : State) (p : Party) (q : Path) (no : Nat) (rs : List (Nat × Nat)) : List Nat :=
  mustStep (fun w => w.party = p && w.path = q && w.no < no) rs s.buf
/-- Whether one of the selected writes cannot step yet. -/
def forceHeld (s : State) (f : Write → Bool) : Bool := s.buf.any fun w => f w && s.heldWrite w
/-- Whether an access of a party, of place `no`, cannot write some ranges yet: an older access of the party must read or write
them, or a write that comes first cannot step. -/
def landHeld (s : State) (p : Party) (q : Path) (no : Nat) (rs : List (Nat × Nat)) : Bool :=
  rangesMeet rs (s.readsOpen p q no) || s.awayOpen p q no rs || s.forceHeld fun w => (s.stepFirst p q no rs).contains w.no
/-- The writes of a party that must come before an access of place `no` to some ranges take their steps. -/
def stepOver (s : State) (p : Party) (q : Path) (no : Nat) (rs : List (Nat × Nat)) : State :=
  s.stepWrites fun w => (s.stepFirst p q no rs).contains w.no

/-- A store of bytes as one unit. -/
def storeBytes (s : State) (p : Party) (q : Path) (a : Nat) (bs : List Byte) (via : Option Handle := none) : State :=
  s.putWrite p q (cellsAt a bs) [] false via
/-- A store of a unit's work in aligned units, lowest first; the bytes of the ranges `kept` are left out. -/
def storeUnits (s : State) (p : Party) (q : Path) (unit a : Nat) (bs : List Byte) (kept : List (Nat × Nat) := []) : State :=
  (unitsAt unit bs.length a bs).foldl (fun t cs =>
    match cs.filter fun x => kept.all fun k => decide (x.1 < k.1) || decide (k.1 + k.2 ≤ x.1) with
    | [] => t
    | cs => t.putWrite p q cs [] true) s
/-- Writes performed by a unit of the device at its own event, in aligned 64-byte units. -/
def performUnits (s : State) (p : Party) (q : Path) (a : Nat) (bs : List Byte) (work : Bool := true)
    (no : Option Nat := none) : State :=
  (unitsAt 64 bs.length a bs).foldl (fun t cs => t.appendWrite p q cs [(q.bit, 2)] work [] no) s
/-- Writes of a unit's work in pieces, later ones over earlier ones: each aligned 64-byte unit in one step (R384). -/
def performPieces (s : State) (p : Party) (q : Path) (xs : List (Nat × Byte × Byte)) (work : Bool := true) : State :=
  let ps := xs.foldl addPiece []
  (ps.map fun x => x.1 / 64).eraseDups.foldl (fun t u =>
    let mine := ps.filter fun x => x.1 / 64 = u
    t.appendWrite p q ((mine.filter fun x => x.2.1 = 0xFF#8).map fun x => (x.1, x.2.2)) [(q.bit, 2)] work
      (mine.filter fun x => x.2.1 ≠ 0xFF#8)) s
/-- A write that the device makes, visible to every party (R247, R408). -/
def storeFor (s : State) (p : Party) (a : Nat) (bs : List Byte) : State :=
  s.pushLog { party := p, path := .sc, cells := (cellsAt a bs).filter fun c => mapped c.1, vis := fullVis }
/-- A write of the device's own. -/
def devStore (s : State) (a : Nat) (bs : List Byte) : State := s.storeFor Party.dev a bs
/-- The device learns where a tensor parameter block lies (R289). -/
def learnTpb (s : State) (a : Nat) : State := if s.tpbs.contains a then s else { s with tpbs := s.tpbs ++ [a] }
/-- A command or request names a block that fails its check: its base die knows it while V is set (R289, entry 25). -/
def nameTpb (s : State) (ph : Handle) : State :=
  if (s.lastByte ((Handle.addr ph).toNat + 2)).getLsbD 0 then s.learnTpb (Handle.addr ph).toNat else s
/-- The newest bytes of a range at its home, whatever their visibility. -/
def homeBytes (s : State) (a n : Nat) : List Byte := (List.range n).map fun i => s.lastByte (a + i)
/-- A read of the device's own, an acquire at system scope (R249, R271). -/
def devLoad (s : State) (a n : Nat) : List Byte := s.loadBytes Party.dev .sc a n

/-- An atomic read-modify-write of `n` bytes (R372): the last entries are read, and the result is appended.  Answers the
old bytes. -/
def rmw (s : State) (p : Party) (q : Path) (a n : Nat) (f : List Byte → List Byte) (work : Bool := true)
    (no : Option Nat := none) : List Byte × State :=
  let old := s.homeBytes a n
  (old, s.appendWrite p q (cellsAt a (f old)) [(q.bit, 2)] work [] no)

/-! ### The agent that executes -/

/-- The party of the agent that executes (R366). -/
def party (s : State) : Party :=
  match s.cur with
  | .eng c e => Party.stream c (s.core c).runB e
  | .me c => Party.stream c (s.core c).runB .ce
  | .frame o f =>
    match (s.frame o f).call with
    | some c => c.party
    | none => Party.dev
/-- The path of its direct accesses (R367). -/
def ownPath (s : State) : Path :=
  match s.cur with
  | .eng _ e => Eng.path e
  | .me _ => .mx
  | .frame _ _ => .rem
/-- Whether an outpost executes. -/
def inOutpost (s : State) : Bool :=
  match s.cur with
  | .frame _ _ => true
  | _ => false
/-- An atomic of the stream that executes: its own earlier writes to the bytes step first (R375). -/
def amo (s : State) (a n : Nat) (f : List Byte → List Byte) : List Byte × State :=
  (s.stepOver s.party s.ownPath s.nextId [(a, n)]).rmw s.party s.ownPath a n f s.inOutpost

/-! ### Fences (R369, R376 to R378, R386 to R388) -/

/-- Whether a write is core-earlier than the next instruction of the stream that executes (R369): its own direct ones and
those of its requests and near-memory operations, those that a chain orders before it, and units landed in the core's
scratch by a copy that a chain orders before it; for a call, its accesses. -/
def coreEarlier (s : State) (w : Write) : Bool :=
  let p := s.party
  let clk := s.me.clk
  (w.party = p && (!w.work || w.path = .sc || w.path = .near || s.inOutpost)) ||
  (w.party.pkg = p.pkg && w.party.core = p.core && w.party.bankB = p.bankB && w.no < tget 0 clk (w.party.eng + 4 * w.cls)) ||
  (w.path = .cp && w.work && w.no < tget 0 clk (clkKey .xe 1) && w.hits [(windowBase p.core, 0x200000)])
/-- The core-earlier writes on some paths. -/
def earlierOn (s : State) (paths : BitVec 6) (w : Write) : Bool := paths.getLsbD w.path.bit && s.coreEarlier w
/-- The core-earlier writes on the named paths step and become visible at a scope on every one of them. -/
def fencePaths (s : State) (paths : BitVec 6) (scope : Nat) : State :=
  (s.stepWrites (s.earlierOn paths)).widenWrites (s.earlierOn paths) paths scope
/-- A release also widens every write that the stream may have read (R378). -/
def releasePaths (s : State) (paths : BitVec 6) (scope : Nat) : State :=
  (s.fencePaths paths scope).widenWrites
    (fun w => [Path.sc, .vec, .cp, .mx, .near, .rem].any fun q => w.visTo s.party q) paths scope

/-! ### Turns of the ordering machine (R371) -/

/-- Every write that has taken its step becomes visible everywhere (R374): it goes into what memory holds. -/
def publish (s : State) : State :=
  { s with
    mem := s.log.foldr (fun w m => w.cells.foldl (fun m c => m.write c.1 c.2) m) s.mem
    log := [] }
/-- Every write takes its step and becomes visible everywhere, unless an older access must still read first. -/
def settle (s : State) : State :=
  if s.forceHeld fun _ => true then s else (s.stepWrites fun _ => true).publish
/-- One write step of the schedule: possible when no program-earlier access of its party and path that shares a byte
with it has still to step (R375). -/
def writeStepTurn (s : State) (n : Nat) : State :=
  match s.buf.drop n with
  | [] => s
  | w :: older =>
    if s.heldWrite w || older.any fun o => o.party = w.party && o.path = w.path && o.hits w.ranges then s
    else
      { s with buf := s.buf.take n ++ older }.pushLog { w with vis := [(w.path.bit, 2)] }
/-- One widen step of the schedule (R374): to the next wider scope on a path, or to a scope it has on another. -/
def widenTurn (s : State) (n : Nat) (q : Path) (scope : Nat) : State :=
  match s.log.drop n with
  | [] => s
  | w :: older =>
    let ok := (scope < 6 && tget 0 w.vis q.bit = scope && 0 < scope) ||
      (List.range 6).any fun i => i != q.bit && scope + 1 ≤ tget 0 w.vis i
    if ok then
      { s with log := s.log.take n ++ w.widen (1 <<< q.bit) scope :: older }
    else s

/-! ### Uncorrectable errors (R283) -/

/-- An uncorrectable error befalls a 64-byte unit of HBM, of the LPDDR tier or of a vault (R283). -/
def badUnit (s : State) (a : Nat) : State := { s with eccBad := tset s.eccBad (a / 64) true }
/-- Whether an uncorrectable error stands in a range (R283). -/
def eccHit (s : State) (a n : Nat) : Bool :=
  s.eccBad.any fun e => e.2 && a / 64 ≤ e.1 && e.1 ≤ (a + n - 1) / 64

end State

end Sys2Proof.Machine
end

