-- ==== Sys2Proof/Machine/Walk.lean ====
section
/-! DEFINITION.  Page tables and the bounds table (R269 to R273), the device's own accesses to a context's memory,
interrupts, error logs, and the fault queue (R406 to R408). -/

namespace Sys2Proof.Machine

/-! ### Page walks (R268, R270, R271) -/

/-- How a walk ends: a leaf, or the reason why there is none. -/
inductive WalkEnd where
  | leaf (pgsz : BitVec 4) (perm : BitVec 3) (rem : Bool) (addr : Nat)
  | notPresent
  | badEntry
  | unmapped
  /-- an entry cannot be read, for an uncorrectable error at an address (R283, entry 87) -/
  | uncorr (a : Nat)
  deriving DecidableEq, Repr

/-- Whether a page lies wholly inside one range of the physical map other than the device registers (R268). -/
def pageInMap (a n : Nat) : Bool :=
  (inHbm a && inHbm (a + n - 1)) || (inTier a && inTier (a + n - 1)) || (inVault a && inVault (a + n - 1)) ||
    (inWindow a && inWindow (a + n - 1))
/-- Whether a page table may lie at an address: in HBM or in the LPDDR tier (R270). -/
def tableInMap (a : Nat) : Bool := inHbm a || inTier a

namespace State

/-- The walk from a table at a level (R270, R271). -/
def walkFrom (s : State) (va : Nat) : Nat → Nat → Nat → WalkEnd
  | 0, _, _ => .badEntry
  | fuel + 1, level, table =>
    if !tableInMap table then .unmapped
    else
      let idx := va / 2 ^ (48 - 9 * level) % 512
      if s.eccHit (table + 8 * idx) 8 then .uncorr (table + 8 * idx) else
      let e := BitVec.ofNat 64 (leNat (s.devLoad (table + 8 * idx) 8))
      let isLeaf := e.getLsbD 1
      let rem := e.getLsbD 5
      let c64 := e.getLsbD 6
      let addr := (fld e 12 45).toNat * 4096
      if !e.getLsbD 0 then .notPresent
      else if fld e 7 5 ≠ 0 ∨ fld e 57 7 ≠ 0 then .badEntry
      else if (isLeaf && level < 2) || (!isLeaf && level = 4) then .badEntry
      else if (c64 && level < 4) || (rem && !isLeaf) || (!rem && addr ≥ 2 ^ 45) then .badEntry
      else if !isLeaf then walkFrom s va fuel (level + 1) addr
      else
        let pgsz : BitVec 4 := if level = 2 then 3 else if level = 3 then 2 else if c64 then 1 else 0
        let base := addr / pageBytes pgsz * pageBytes pgsz
        if !rem && !pageInMap base (pageBytes pgsz) then .unmapped
        else .leaf pgsz (fld e 2 3) rem base

/-- The table entries that it reads. -/
def walkReads (s : State) (va : Nat) : Nat → Nat → Nat → List (Nat × Nat)
  | 0, _, _ => []
  | fuel + 1, level, table =>
    let a := table + 8 * (va / 2 ^ (48 - 9 * level) % 512)
    let e := BitVec.ofNat 64 (leNat (s.devLoad a 8))
    (a, 8) :: (if tableInMap table && e.getLsbD 0 && !e.getLsbD 1 && level < 4 then
      walkReads s va fuel (level + 1) ((fld e 12 45).toNat * 4096) else [])

/-- The walk of a virtual address in a context (R270, R454). -/
def walk (s : State) (c : CtxId) (va : Nat) : WalkEnd :=
  let root := (fld (s.ctx c).ttroot 12 33).toNat * 4096
  if root = 0 then .notPresent else walkFrom s va 5 0 root

/-- The walk of a virtual address in a context has been made: its reads are requests to their channels (R281). -/
def walked (s : State) (c : CtxId) (va : Nat) : State :=
  let root := (fld (s.ctx c).ttroot 12 33).toNat * 4096
  if root = 0 then s else s.ask (s.walkReads va 5 0 root)

end State

/-! ### Pointers (R269) -/

/-- The region identifier of a pointer. -/
def ptrRid (p : Word) : BitVec 7 := fld p 57 7
/-- The virtual address of a pointer. -/
def ptrVa (p : Word) : Nat := (fld p 0 57).toNat
/-- The permissions of a bounds entry. -/
def boundPerm (b : BitVec 128) : BitVec 3 := fld b 1 3
/-- Whether a bounds entry admits an address with permissions (R272). -/
def boundAdmits (b : BitVec 128) (va : Nat) (need : BitVec 3) : Bool :=
  b.getLsbD 0 && 4096 * (fld b 12 45).toNat ≤ va && va < 4096 * (fld b 76 45).toNat && need &&& ~~~boundPerm b = 0

namespace State

/-- The bounds entry of a region (R269). -/
def boundOf (s : State) (c : CtxId) (rid : BitVec 7) : BitVec 128 := tget 0 (s.ctx c).bounds rid.toNat

/-- Where a pointer of a context leads for one of the device's own accesses: the physical address, when its
bounds entry and a local leaf grant the permissions (entry 20). -/
def ctxAddr (s : State) (c : CtxId) (p : Word) (need : BitVec 3) : Option Nat :=
  if boundAdmits (s.boundOf c (ptrRid p)) (ptrVa p) need then
    match s.walk c (ptrVa p) with
    | .leaf pgsz perm false addr =>
      if need &&& ~~~perm = 0 then some (addr + ptrVa p % pageBytes pgsz) else none
    | _ => none
  else none

/-- The device reads bytes of a context's memory, page by page; none where they cannot be read. -/
def ctxLoadPages (s : State) (c : CtxId) : Nat → Word → Nat → Option (List Byte)
  | 0, _, _ => some []
  | fuel + 1, p, n =>
    if n = 0 then some []
    else
      let k := min n (4096 - ptrVa p % 4096)
      match s.ctxAddr c p 1, ctxLoadPages s c fuel (p + BitVec.ofNat 64 k) (n - k) with
      | some a, some rest => if s.eccHit a k then none else some (s.devLoad a k ++ rest)
      | _, _ => none
/-- The device reads `n` bytes at a pointer of a context. -/
def ctxLoad (s : State) (c : CtxId) (p : Word) (n : Nat) : Option (List Byte) :=
  s.ctxLoadPages c (n / 4096 + 2) p n
/-- A number read so. -/
def ctxLoadNat (s : State) (c : CtxId) (p : Word) (n : Nat) : Option Nat := (s.ctxLoad c p n).map leNat
/-- The device writes bytes of a naturally aligned unit at a pointer of a context. -/
def ctxStore (s : State) (c : CtxId) (p : Word) (bs : List Byte) : Option State :=
  (s.ctxAddr c p 2).map fun a => s.devStore a bs

/-! ### Interrupts (R455) and error logs (R23, R462) -/

/-- Deposits an error-log entry, or counts it as dropped. -/
def deposit (s : State) (log : Nat) (e : LogEntry) : State :=
  let l := tget {} s.mgmt.logs log
  let l' := if l.entries.length < 256 then { l with entries := l.entries ++ [e] }
    else { l with overflow := if l.overflow = BitVec.allOnes 16 then l.overflow else l.overflow + 1 }
  { s with mgmt := { s.mgmt with logs := tset s.mgmt.logs log l' } }
/-- An entry for an address, of a kind of event of the model's numbering, with a severity. -/
def depositSev (s : State) (log kind : Nat) (sev : Byte) (addr : Word) : State :=
  s.deposit log
    { cyc := s.cycWord, unit := Config.logUnit kind, severity := sev, cause := Config.logCause kind, addr := addr
      detail := Config.logDetail kind }
/-- An entry whose severity no rule gives. -/
def depositKind (s : State) (log kind : Nat) (addr : Word) : State :=
  s.depositSev log kind (BitVec.ofNat 8 (Config.logSeverity kind).val) addr

/-- Where an uncorrectable error stands that stops the device's read of bytes of a context's memory: in a page table, or in
the bytes. -/
def ctxBad (s : State) (c : CtxId) : Nat → Word → Nat → Option Nat
  | 0, _, _ => none
  | fuel + 1, p, n =>
    if n = 0 then none
    else
      let k := min n (4096 - ptrVa p % 4096)
      match s.walk c (ptrVa p), s.ctxAddr c p 1 with
      | .uncorr a, _ => some a
      | _, some a =>
        if s.eccHit a k then ((List.range k).find? fun i => s.eccHit (a + i) 1).map fun i => a + i
        else ctxBad s c fuel (p + BitVec.ofNat 64 k) (n - k)
      | _, none => none
/-- The device reads `n` bytes at a pointer of a context: the walk and the read are requests to their channels (R281), and an
uncorrectable error that they meet is entered in the error log with its address (R283). -/
def ctxNote (s : State) (c : CtxId) (p : Word) (n : Nat) : State :=
  let t := (s.walked c (ptrVa p)).ask ((s.ctxAddr c p 1).toList.map fun a => (a, n))
  match s.ctxBad c (n / 4096 + 2) p n with
  | some a => t.depositSev 0 4 1 (BitVec.ofNat 64 a)
  | none => t

/-- Raises a vector of a context; a masked one is held pending outside this model (entry 19).  While the host link is down
the write to host memory that this is is dropped, with an error-log entry (R428). -/
def raise (s : State) (c : CtxId) (v : Nat) : State :=
  if s.mgmt.linkUp then s.modCtx c fun x => { x with msix := tset x.msix v true } else s.depositKind 3 9 0

end State

/-! ### Fault records (R407) -/

/-- The flag bits of a record. -/
structure RecFlags where
  recov : Bool := false
  ended : Bool := false
  bank : Bool := false
  sealed : Bool := false
  deriving DecidableEq, Repr

/-- A fault to be posted. -/
structure FaultRec where
  code : Nat
  cls : Nat
  flags : RecFlags := {}
  src : Nat
  job : Word := 0
  pc : Word := 0
  words : List Word := []
  deriving DecidableEq, Repr

/-- SRC of R407 from a core and an engine number. -/
def srcField (core eng : Nat) : Nat := core % 512 + 512 * eng

/-- The 64 bytes of a record with its SEQ (R407). -/
def FaultRec.bytes (r : FaultRec) (seq : Nat) : List Byte :=
  let fl := (if r.flags.recov then 1 else 0) + (if r.flags.ended then 2 else 0) +
    (if r.flags.bank then 4 else 0) + (if r.flags.sealed then 8 else 0)
  natBytes 2 r.code ++ natBytes 1 r.cls ++ natBytes 1 fl ++ natBytes 2 r.src ++ natBytes 2 seq ++
    natBytes 8 r.job.toNat ++ natBytes 8 r.pc.toNat ++
    ((List.range 5).map fun i => natBytes 8 (r.words.getD i 0).toNat).flatten

namespace State

/-- Counts a dropped record (R408). -/
def dropRecord (s : State) (c : CtxId) : State :=
  s.modCtx c fun x => { x with fqovf := if x.fqovf = BitVec.allOnes 16 then x.fqovf else x.fqovf + 1 }

/-- Posts a record under R408; answers whether it was posted.  A function under reset posts nothing (R426). -/
def post (s : State) (c : CtxId) (r : FaultRec) : Bool × State :=
  let x := s.ctx c
  let slot := x.fqbase + 64 * (zext x.fqtail % (1 <<< x.fqlog2n.toNat))
  if x.reset.isSome then (false, s)
  else if !x.fqen ∨ (x.fqtail - x.fqhead).toNat ≥ 2 ^ x.fqlog2n.toNat then (false, s.dropRecord c)
  else
    match s.ctxStore c slot (r.bytes (x.fqtail.toNat % 65536)) with
    | none => (false, (s.dropRecord c).depositKind 3 0 slot)
    | some s' =>
      let s' := s'.modCtx c fun y => { y with fqtail := y.fqtail + 1 }
      (true, if x.fqint then s'.raise c 16 else s')

/-- Posts a record where nothing depends on whether it was posted. -/
def postRec (s : State) (c : CtxId) (r : FaultRec) : State := (s.post c r).2

end State

/-! ### Fault codes (R404) -/

/-- Whether a code is recoverable (R404); PAGE_FAULT never enters a handler. -/
def recoverable (code : Nat) : Bool :=
  [0x06, 0x0B, 0x10, 0x11, 0x12, 0x1D, 0x33, 0x41, 0x42, 0x43, 0x50, 0x51, 0x56, 0x60, 0x6C].contains code

end Sys2Proof.Machine
end

