-- ==== Sys2Proof/Machine/Near.lean ====
section
/-! DEFINITION.  What an outpost does for the near-memory operations that need no more than memory: New() of R321,
and the sum of `NRED` (R329). -/

namespace Sys2Proof.Machine

/-! ### New() of R321 -/

/-- The smaller or larger of two FP32 values: −0 below +0, canonical NaN if either is a NaN (R167). -/
def minMax32 (wantMax : Bool) (x y : W32) : W32 :=
  let a := Num.val32 x
  let b := Num.val32 y
  if a.isNan || b.isNan then Num.nan32
  else
    let less := match Num.cmpV a b with
      | .lt => true
      | .gt => false
      | .eq => a.neg && !b.neg
    if wantMax then (if less then y else x) else (if less then x else y)

/-- New(old, operand) on 64-bit words. -/
def amoNew64 (op : AtomOp) (old x cmp : Word) : Word :=
  match op with
  | .add => old + x
  | .min => if x.slt old then x else old
  | .max => if old.slt x then x else old
  | .and => old &&& x
  | .or => old ||| x
  | .xor => old ^^^ x
  | .swap => x
  | .cas => if old = cmp then x else old
/-- New(old, operand) on 32-bit integers. -/
def amoNew32 (op : AtomOp) (old x cmp : W32) : W32 :=
  match op with
  | .add => old + x
  | .min => if x.slt old then x else old
  | .max => if old.slt x then x else old
  | .and => old &&& x
  | .or => old ||| x
  | .xor => old ^^^ x
  | .swap => x
  | .cas => if old = cmp then x else old
/-- New(old, operand) on FP32. -/
def amoNewF (op : AtomOp) (old x cmp : W32) : W32 :=
  match op with
  | .add => Num.add32 old x
  | .min => minMax32 false old x
  | .max => minMax32 true old x
  | .and => old &&& x
  | .or => old ||| x
  | .xor => old ^^^ x
  | .swap => x
  | .cas => if old = cmp then x else old

/-- New() on the bytes of the location. -/
def amoBytes (op : AtomOp) (ty : BitVec 2) (x cmp : Word) (old : List Byte) : List Byte :=
  let o := BitVec.ofNat 64 (leNat old)
  let r : Word :=
    if ty = 1 then amoNew64 op o x cmp
    else if ty = 2 then zext (amoNewF op (fld o 0 32) (fld x 0 32) (fld cmp 0 32))
    else zext (amoNew32 op (fld o 0 32) (fld x 0 32) (fld cmp 0 32))
  natBytes (amoSize ty) r.toNat
/-- The old value as the destination register receives it: sign-extended for `.i32`, zero-extended for `.f32`. -/
def amoOld (ty : BitVec 2) (old : List Byte) : Word :=
  if ty = 0 then sext (BitVec.ofNat 32 (leNat old)) else BitVec.ofNat 64 (leNat old)

/-! ### `NRED` (R329) -/

namespace State

/-- One index slot added to the accumulators, FP32 for a floating table. -/
def nredRow (s : State) (p : Party) (fmt : Fmt) (row n : Nat) (acc : List W32) : List W32 :=
  let sz := if fmt = 2 then 2 else 4
  let bytes := s.loadBytes p .near row (n * sz)
  acc.zipIdx.map fun (a, i) =>
    let raw := leNat ((bytes.drop (i * sz)).take sz)
    if fmt = 9 then a + BitVec.ofNat 32 raw
    else Num.rne32 (Num.addV false (Num.val32 a) (Num.decodeVal fmt raw)).1

/-- The sums in ascending slot order, padding slots skipped. -/
def nredSums (s : State) (p : Party) (fmt : Fmt) (base : Int) (rlen : Nat) (idx : List W32) : List W32 :=
  let n := rlen / (if fmt = 2 then 2 else 4)
  idx.foldl (fun acc i =>
    if i = BitVec.allOnes 32 then acc else s.nredRow p fmt (base + i.toNat * rlen).toNat n acc) (List.replicate n 0)

/-- The outpost sums the indexed rows and writes DST in the core's scratch, at the place `no` of the posting. -/
def nredPerform (s : State) (c : Nat) (p : Party) (no : Nat) (fmt : Fmt) (h : Handle) (base : Int) (rlen : Nat)
    (idx : List W32) (dst : Nat) : State :=
  let sums := s.nredSums p fmt ((Handle.addr h).toNat + base) rlen idx
  s.performUnits p .near (windowBase c + dst) ((sums.map fun w => natBytes 4 w.toNat).flatten) false (some no)

end State

end Sys2Proof.Machine
end

