-- ==== Sys2Proof/Machine/Seq.lean ====
section
/-! DEFINITION.  Records as bytes, rows of elements as blocks, and what a memory unit does for an addition and for a
bank sequencer program (R284, R285, R330). -/

namespace Sys2Proof.Machine

/-! ### Blocks -/

/-- The element size of an A format or a result format. -/
def fmtSize (f : Fmt) : Nat := Num.width f / 8
/-- Elements of a format from bytes (R47). -/
def codesOf (fmt : Fmt) (bs : List Byte) : List Nat :=
  if Num.width fmt = 4 then (bs.map fun b => [b.toNat % 16, b.toNat / 16]).flatten
  else
    let n := Num.width fmt / 8
    (List.range (bs.length / n)).map fun i => leNat ((bs.drop (n * i)).take n)
/-- The 32-element blocks of a list of codes. -/
def chunks32 : Nat → List Nat → List (List Nat)
  | 0, _ => []
  | n + 1, xs => xs.take 32 :: chunks32 n (xs.drop 32)
/-- A row of A as blocks under its scale bytes, none where there is no scale (R204). -/
def aBlocks (af : Fmt) (w k : Nat) (bs : List Byte) (scales : List Byte) : List Num.Block :=
  ((chunks32 (k / 32) (codesOf af bs)).map (Num.alignBlock af w)).zipIdx.map fun (b, i) =>
    match scales[i]? with
    | some t => b.scaled t.toNat
    | none => b

/-! ### Bank sequencer programs (R284, R333) -/

/-- A counter of a program. -/
structure SeqCounter where
  n : Nat
  v : Nat
  pad : Nat
  sa : Int
  sb : Int
  sc : Int
  deriving DecidableEq, Repr

/-- A program. -/
structure SeqProg where
  fmt : Fmt
  aw : BitVec 2
  ha : HReg
  a : Nat
  b : Nat
  c : Nat
  counters : List SeqCounter
  deriving DecidableEq, Repr

/-- The program in 128 bytes; none for REQ_BAD. -/
def parseSeq (p : List Byte) : Option SeqProg :=
  let b0 := recNat p 0 1
  let pad := recNat p 112 2
  let int := fun (i : Nat) => (BitVec.ofNat 32 (recNat p i 4)).toInt
  let counters := (List.range 5).map fun i =>
    let o := 32 + 16 * i
    ({ n := recNat p o 2, v := recNat p (o + 2) 2, pad := pad / 4 ^ i % 4, sa := int (o + 4), sb := int (o + 8)
       sc := int (o + 12) } : SeqCounter)
  if 2 ≤ b0 % 16 && b0 % 16 ≤ 6 && b0 / 16 ≤ 2 && recZero p 1 1 && recNat p 2 1 < 32 && recZero p 3 5 && pad < 1024 &&
      recZero p 114 14 && counters.all fun k => 1 ≤ k.v && k.v ≤ k.n && k.pad ≤ 2 then
    some
      { fmt := BitVec.ofNat 4 (b0 % 16), aw := BitVec.ofNat 2 (b0 / 16), ha := BitVec.ofNat 5 (recNat p 2 1)
        a := recNat p 8 8, b := recNat p 16 8, c := recNat p 24 8, counters := counters }
  else none

/-- The lowest and highest address that counters reach from an offset, one stride and one last index each. -/
def seqExtent (from_ : Int) (ks : List (Int × Nat)) : Int × Int :=
  ks.foldl (fun r k => (r.1 + min 0 (k.1 * (k.2 : Int)), r.2 + max 0 (k.1 * (k.2 : Int)))) (from_, from_)
/-- The last effective index of a counter for B and C; A is not read at an index beyond the valid extent. -/
def SeqCounter.last (k : SeqCounter) : Nat := if k.pad = 1 then k.n - 1 else k.v - 1
/-- The ranges of A, B and C: first offset and the number of bytes (R333). -/
def SeqProg.extents (q : SeqProg) : List (Int × Nat) :=
  let n := 64 * fmtSize q.fmt
  let ext := fun (off len : Nat) (ks : List (Int × Nat)) =>
    let r := seqExtent off ks
    (r.1, (r.2 - r.1).toNat + len)
  [ext q.a n (q.counters.map fun k => (k.sa, k.v - 1)), ext q.b n (q.counters.map fun k => (k.sb, k.last)),
    ext q.c 4 (q.counters.map fun k => (k.sc, k.last))]

/-! ### A bank sequencer at work (R285) -/

/-- Where one tuple stands: the three offsets, and whether A is read as zeros. -/
structure SeqAt where
  a : Int
  b : Int
  c : Int
  zero : Bool
  deriving DecidableEq, Repr

/-- The place after counter `k` at index `j`; none for a skipped tuple. -/
def SeqCounter.move (k : SeqCounter) (j : Nat) (x : SeqAt) : Option SeqAt :=
  let go := fun (e : Nat) (zero : Bool) =>
    some { a := x.a + e * k.sa, b := x.b + e * k.sb, c := x.c + e * k.sc, zero := x.zero || zero : SeqAt }
  if j < k.v then go j false
  else if k.pad = 0 then none
  else if k.pad = 2 then go (k.v - 1) false
  else go j true

namespace State

/-- The body for one tuple, or the address of an uncorrectable error; `no` is the place of the posting. -/
def seqBody (s : State) (p : Party) (no : Nat) (q : SeqProg) (base : Nat) (x : SeqAt) : Except Nat State :=
  let n := 64 * fmtSize q.fmt
  let a := (base + x.a).toNat
  let b := (base + x.b).toNat
  let c := (base + x.c).toNat
  if !x.zero && s.eccHit a n then .error a
  else if s.eccHit b n then .error b
  else if s.eccHit c 4 then .error c
  else
    let old := BitVec.ofNat 32 (s.loadNat p .near c 4)
    let blocks := fun (at0 : Nat) => aBlocks q.fmt (Num.alignWidth q.aw) 64 (s.loadBytes p .near at0 n) []
    let new := if x.zero then Num.pass [] (some old)
      else Num.pass (List.zipWith Num.blockProd (blocks a) (blocks b)) (some old)
    .ok (s.performUnits p .near c (natBytes 4 new.toNat) false (some no))
/-- The tuples of the counters from one on, the innermost fastest; the first error ends the program. -/
def seqRun (p : Party) (no : Nat) (q : SeqProg) (base : Nat) : List SeqCounter → SeqAt → State × Option Nat → State × Option Nat
  | [], x, (s, none) =>
    match s.seqBody p no q base x with
    | .ok t => (t, none)
    | .error a => (s, some a)
  | k :: ks, x, r =>
    (List.range k.n).foldl (fun r j =>
      match k.move j x with
      | some y => seqRun p no q base ks y r
      | none => r) r
  | [], _, r => r

/-! ### Additions to memory (R330) -/

/-- The elements of an addition to memory, each one atomic step; those that meet an uncorrectable error are left out.
Answers how many were performed and where the first error stands.  `no` is the place of the posting, for an operation posted in
this package. -/
def addElems (s : State) (p : Party) (no : Option Nat) (int : Bool) (a : Nat) : List W32 → Nat → State × Nat × Option Nat
  | [], k => (s, k, none)
  | x :: xs, k =>
    if s.eccHit a 4 then
      let r := addElems s p no int (a + 4) xs k
      (r.1, r.2.1, some a)
    else
      let s := (s.rmw p .near a 4 (fun old => amoBytes .add (if int then 0 else 2) (zext x) 0 old) false no).2
      addElems s p no int (a + 4) xs (k + 1)

/-! ### Operations that have left their core when its job is discarded (R417) -/

/-- A posted operation is performed, without a report; one that meets an uncorrectable error delivers nothing. -/
def performNear (s : State) (c : Nat) (bankB : Bool) (o : NearOp) : State :=
  let p := Party.stream c bankB .ae
  if o.performed then s
  else
    match o.kind with
    | .nred fmt h base rlen idx dst =>
      if idx.any fun i =>
          i ≠ BitVec.allOnes 32 && s.eccHit ((Handle.addr h).toNat + base + i.toNat * rlen : Int).toNat rlen then s
      else s.nredPerform c p o.seq fmt h base rlen idx dst
    | .nadd int h off data => (s.addElems p (some o.seq) int ((Handle.addr h).toNat + off) data 0).1
    | .namo op ty h off x cmp _ =>
      let a := (Handle.addr h).toNat + off
      if s.eccHit a (amoSize ty) then s else (s.rmw p .near a (amoSize ty) (amoBytes op ty x cmp) false (some o.seq)).2
    | .nseq h prog =>
      match parseSeq prog with
      | none => s
      | some q => (seqRun p o.seq q (Handle.addr h).toNat q.counters { a := q.a, b := q.b, c := q.c, zero := false } (s, none)).1

end State

end Sys2Proof.Machine
end

