-- ==== Sys2Proof/Machine/Land.lean ====
section
/-! DEFINITION.  Barrier objects (R349 to R351), and units of copies as they land in this package (R344 to R347). -/

namespace Sys2Proof.Machine

/-! ### Barrier objects (R349) -/

/-- A barrier object's fields. -/
structure Barrier where
  mark : Nat
  ph : Bool
  exp : Nat
  arr : Nat
  orph : Nat
  deriving DecidableEq, Repr

/-- The fields of 16 bytes. -/
def parseBar (b : List Byte) : Barrier :=
  { mark := recNat b 0 2, ph := recNat b 2 1 % 2 = 1, exp := recNat b 4 4, arr := recNat b 8 4, orph := recNat b 12 4 }
/-- It holds its mark. -/
def Barrier.marked (b : Barrier) : Bool := b.mark = 0xB47E
/-- One unit of 64 bytes counted on 16 bytes (R349). -/
def barCount (old : List Byte) : List Byte :=
  let b := parseBar old
  if b.marked then old.take 8 ++ natBytes 4 (b.arr + 64) ++ old.drop 12 else old.take 12 ++ natBytes 4 (b.orph + 64)
/-- `BINIT` (R350). -/
def barInit (exp : Nat) (clr : Bool) (old : List Byte) : List Byte :=
  natBytes 2 0xB47E ++ natBytes 2 0 ++ natBytes 4 exp ++ natBytes 4 0 ++ (if clr then natBytes 4 0 else old.drop 12)
/-- The final step of `BWAIT` (R351). -/
def barDone (old : List Byte) : List Byte :=
  old.take 2 ++ ((old.drop 2).take 1).map (· ^^^ 1) ++ (old.drop 3).take 5 ++ natBytes 4 0 ++ old.drop 12

namespace State

/-- One atomic step on a barrier of a core (R349). -/
def modBar (s : State) (p : Party) (c a : Nat) (f : List Byte → List Byte) (work : Bool := true) : State :=
  (s.rmw p .cp (windowBase c + a) 16 f work).2
/-- A unit lands in the scratch of a core and is counted there, in one step. -/
def landScratch (s : State) (p : Party) (c a : Nat) (bar : Option Nat) (data : List Byte) (work : Bool := true) : State :=
  let s := s.performUnits p .cp (windowBase c + a) data work
  match bar with
  | some b => s.modBar p c b barCount work
  | none => s
/-- The ranges that unit `u` of a copy writes in this package: its bytes, and the barriers that count it. -/
def unitRanges (s : State) (c : Nat) (bankB : Bool) (x : Copy) (u : Nat) : List (Nat × Nat) :=
  let off := x.dst.toNat + x.unitAt x.dstr u
  if x.dk then
    if Handle.remote x.dh then [] else [(handlePhys x.dh off, 64)]
  else
    (s.receivers c bankB x).flatMap fun r =>
      (windowBase r + off, 64) ::
        (match x.bar with
          | some b => [(windowBase r + b, 16)]
          | none => [])
/-- Whether the place of unit `u` is at home, away from every core's scratch: its count follows its acknowledgement. -/
def unitHome (x : Copy) (u : Nat) : Bool := x.dk && !inWindow (handlePhys x.dh (x.dst.toNat + x.unitAt x.dstr u))
/-- Unit `u` of a copy lands in this package: in the scratch of its receivers, counted there in the same step, or at its
home, visible at `sys` scope on the copy path (R344). -/
def landAt (s : State) (c : Nat) (bankB : Bool) (x : Copy) (u : Nat) (data : List Byte) : State :=
  let p := Party.stream c bankB .xe
  let off := x.dst.toNat + x.unitAt x.dstr u
  let pa := handlePhys x.dh off
  let s := s.stepOver p .cp x.seq (s.unitRanges c bankB x u)
  if !x.dk then (s.receivers c bankB x).foldl (fun s r => s.landScratch p r off x.bar data) s
  else if inWindow pa then s.landScratch p c (pa - windowBase c) x.bar data
  else s.appendWrite p .cp (cellsAt pa data) [(Path.cp.bit, 6)]
/-- What a cancelled copy has read lands and is counted (R355, R417), also a unit whose acknowledgement has not returned and
one that has still to leave for another package (entry 83). -/
def landRead (s : State) (c : Nat) (bankB : Bool) (n : Nat) : State :=
  let b := (s.core c).get bankB
  let x := b.copy n
  let p := Party.stream c bankB .xe
  let count := fun (s : State) =>
    match x.bar with
    | some a => s.modBar p c a barCount
    | none => s
  let far := x.dk && Handle.remote x.dh
  if !x.busy || x.kind = .send then s
  else if x.remote then
    if (if far then b.xe.rems.any fun r => r.dest = .unit n true else decide (x.landed = 64 * (x.unit + 1))) then count s else s
  else if x.data.isEmpty then s
  else if far then
    let a := Handle.addr x.dh + BitVec.ofInt 57 (x.dst.toNat + x.unitAt x.dstr x.unit)
    let (id, s) := s.fresh
    if s.mgmt.peerid.getLsbD 12 then
      count (s.toPeer (fabPeer a) (.request (fabPeer a) id (strmNo c bankB .xe) .cp a (.store x.data)))
    else s
  else
    let units := if x.kind = .rot then (List.range x.total).drop x.unit else [x.unit]
    units.foldl (fun s u =>
      let s := s.landAt c bankB x u (if x.kind = .rot then (x.data.drop (64 * u)).take 64 else x.data)
      if unitHome x u then count s else s) s

end State

end Sys2Proof.Machine
end

