-- ==== Sys2Proof/Machine/Jobs.lean ====
section
/-! DEFINITION.  Jobs, gangs, walks and graphs as they end: discard (R417), job end (R134), the release of graph
nodes (R249 to R252), graph completion (R247), and job failure (R405). -/

namespace Sys2Proof.Machine

/-! ### Discarding a bank (R417) -/

/-- Whether some stream of the bank is in a sealed region (R413). -/
def Bank.sealedAny (b : Bank) : Bool := b.ce.sealed || b.ae.sealed || b.ve.sealed || b.xe.sealed
/-- Whether the bank holds a job. -/
def Bank.busy (b : Bank) : Bool := b.st ≠ .empty

/-- A stream whose job is over: its registers stay readable to no one, and everything in flight is gone. -/
def Stream.stop (t : Stream) : Stream :=
  { t with
    life := if t.life = .off then .off else .stopped
    h := [], horig := [], xlates := [], reqs := [], near := [], rems := [], nadds := [], owed := [], sigs := []
    calls := t.calls.map fun c => (c.1, { gen := c.2.gen })
    loads := [], lazy := false, pre := [], clk := [], doneAt := 0, held := [], took := {}, undo := none
    waited := false, wdNote := none, stuck := false, blocked := false, waitsOn := none, waitId := 0, sealed := false, sealCount := 0 }

/-- The command at the head of a bank's matrix queue, when it has started. -/
def Bank.startedCmd (b : Bank) : Option MqEntry :=
  match b.mq with
  | m :: _ => if m.started then some m else none
  | [] => none
/-- A bank whose job is over (R417): lines, semaphores, queues, slots, copy slots, tags and handles are
discarded, and the bank is EMPTY; the GEN of a tag stays (R362, R363).  A started matrix command completes, so what it
works on stays until it has. -/
def Bank.stop (b : Bank) : Bank :=
  let e : Bank := { ce := b.ce.stop, ae := b.ae.stop, ve := b.ve.stop, xe := b.xe.stop, v := b.v }
  match b.startedCmd with
  | some m =>
    { e with job := b.job, mq := [m], slot0 := b.slot0, slot1 := b.slot1, active := b.active, fifo := b.fifo, oq := b.oq }
  | none => e

namespace State

/-- The streams' posted near-memory operations, which have left the core, are performed (R417, R311). -/
def performNears (s : State) (c : Nat) (bankB : Bool) : State :=
  let b := (s.core c).get bankB
  engines.foldl (fun s e => (b.get e).near.foldl (fun s o => s.performNear c bankB o) s) s

/-- The tickets of a bank are cancelled, with notices to their owners, and its reservations freed (R417, R440). -/
def cancelTickets (s : State) (c : Nat) (bankB : Bool) : State :=
  let k := s.core c
  let mine := k.tickets.filter fun e => e.2.bankB = bankB && (e.2.v || e.2.reserved)
  let s := mine.foldl (fun s e =>
    if e.2.v then s.toPeer e.2.peer (.cancel e.2.peer (strmNo c bankB e.2.eng) e.2.page) else s) s
  s.modCore c fun k => { k with tickets := k.tickets.filter fun e => !(e.2.bankB = bankB) }

/-- A READY bank resumes when no bank is in RUN (R421) and no command of the bank that ran is still to complete. -/
def resumeReady (s : State) (c : Nat) : State :=
  let k := s.core c
  if k.a.st = .run ∨ k.b.st = .run ∨ k.bank.startedCmd.isSome then s
  else if k.a.st = .ready then s.setCore c { k with a := { k.a with st := .run }, runB := false }
  else if k.b.st = .ready then s.setCore c { k with b := { k.b with st := .run }, runB := true }
  else s

/-- The writes that a bank's streams have left in path buffers take their steps. -/
def flushBank (s : State) (c : Nat) (bankB : Bool) : State :=
  s.stepWrites fun w => w.party.pkg = 0 && w.party.core = c && w.party.bankB = bankB
/-- A bank is emptied: the shared part of a job's end and of its discard.  Its writes have all been made. -/
def emptyBank (s : State) (c : Nat) (bankB : Bool) : State :=
  let s := s.flushBank c bankB
  let b := (s.core c).get bankB
  (s.modCore c fun k => { (k.set bankB b.stop) with lastCtx := some b.job.ctx }).resumeReady c
end State

/-- The half of a partition: first and last byte of scratch plus one, first and last row plus one (R422). -/
def partHalf (part : Nat) : (Nat × Nat) × (Nat × Nat) :=
  if part = 1 then ((0, 0x100000), (0, 256)) else if part = 2 then ((0x100000, 0x200000), (256, 512))
  else ((0, 0x200000), (0, 512))
/-- Accumulator memory with the rows of a partition at +0. -/
def Core.clearRows (k : Core) (part : Nat) : Core :=
  let r := (partHalf part).2
  { k with acc := k.acc.filter fun e => !(256 * r.1 ≤ e.1 && e.1 < 256 * r.2) }
/-- A queue of a unit without some of its entries. -/
def leaveQueues (ids : List Nat) (q : Tab (List Nat)) : Tab (List Nat) :=
  (q.map fun e => (e.1, e.2.filter fun n => !ids.contains n)).filter fun e => !e.2.isEmpty

namespace State

/-- A started matrix command of a job that was discarded has completed: its results go with the accumulator rows of the
job's partition (R417), its bank is free of it, and a READY bank resumes. -/
def afterStop (s : State) (c : Nat) : State :=
  ((s.modCore c fun k => k.clearRows k.bank.job.part).modBank c fun b => { b with mq := [] }.stop).resumeReady c
/-- The commands and operations of a bank leave the queues of the units that serve them. -/
def leaveUnits (s : State) (c : Nat) (bankB : Bool) : State :=
  let b := (s.core c).get bankB
  let ids := engines.flatMap fun e => ((b.get e).reqs.map fun r => r.id) ++ (b.get e).near.map fun o => o.id
  { s with temperQ := leaveQueues ids s.temperQ, nearQ := leaveQueues ids s.nearQ }

/-- The discard of one job (R417): what its copies have read lands, posted near-memory operations are performed, tickets
cancelled, replies to its tags dropped, its accumulator rows discarded, and everything else it holds is gone. -/
def discardBank (s : State) (c : Nat) (bankB : Bool) : State :=
  let s := (List.range 16).foldl (fun s n => s.landRead c bankB n) (s.flushBank c bankB)
  let s := (s.performNears c bankB).leaveUnits c bankB
  let s := s.cancelTickets c bankB
  let s := { s with replies := s.replies.filter fun r => !(r.core = c && r.bankB = bankB) }
  (s.modCore c fun k => k.clearRows (k.get bankB).job.part).emptyBank c bankB

/-- The banks that hold the jobs of a gang, by rank. -/
def gangBanks (s : State) (g : Gang) : List (Nat × Bool) :=
  g.cores.filterMap fun c =>
    let k := s.core c
    if k.a.busy && k.a.job.gang = g.id then some (c, false)
    else if k.b.busy && k.b.job.gang = g.id then some (c, true)
    else none

/-- Whether some stream of the gang is in a sealed region. -/
def gangSealed (s : State) (g : Gang) : Bool := (s.gangBanks g).any fun x => ((s.core x.1).get x.2).sealedAny

/-- A candidate by its number. -/
def cand (s : State) (n : Nat) : Option Cand := s.cands.find? fun c => c.id = n
/-- Changes a candidate. -/
def modCand (s : State) (n : Nat) (f : Cand → Cand) : State :=
  { s with cands := s.cands.map fun c => if c.id = n then f c else c }
/-- Changes a gang. -/
def modGang (s : State) (n : Nat) (f : Gang → Gang) : State :=
  { s with gangs := s.gangs.map fun g => if g.id = n then f g else g }
/-- A graph by its number. -/
def graph (s : State) (n : Nat) : Option Graph := s.graphs.find? fun g => g.id = n
/-- Changes a graph. -/
def modGraph (s : State) (n : Nat) (f : Graph → Graph) : State :=
  { s with graphs := s.graphs.map fun g => if g.id = n then f g else g }

end State

/-! ### Walks (R253, R254) -/

/-- The number of tiles of a dimension. -/
def WalkRec.tiles (w : WalkRec) (d : Nat) : Nat :=
  let e := w.ext.getD d 0
  let r := w.str.getD d 0
  if r = 0 then 0 else (e + r - 1) / r
/-- The number of gangs of a walk. -/
def WalkRec.total (w : WalkRec) : Nat := (List.range w.ndim).foldl (fun p d => p * w.tiles d) 1
/-- The tile index of a dimension in gang SEQ: the levels inside the dimension's level vary faster (R254). -/
def WalkRec.index (w : WalkRec) (seq d : Nat) : Nat :=
  let level := (w.order.take w.ndim).idxOf d
  if level < w.ndim then
    let faster := ((w.order.take w.ndim).drop (level + 1)).foldl (fun p x => p * w.tiles x) 1
    if faster = 0 ∨ w.tiles d = 0 then 0 else seq / faster % w.tiles d * w.str.getD d 0
  else 0

/-! ### Graphs (R247 to R252) -/

/-- What DONE receives for an abandoned graph (R247). -/
def abandonWord (code : Nat) : Word := 0x8000000000000000 + BitVec.ofNat 64 code

namespace State

/-- The completion write of R247 and the queue's interrupt; a DONE that cannot be written is logged. -/
def writeDone (s : State) (c : CtxId) (q : BitVec 4) (sub : SubEntry) (v : Word) : State :=
  let s := s.publish
  let s :=
    if sub.done = 0 then s
    else if sub.done.toNat % 8 ≠ 0 then s.depositKind 3 1 sub.done
    else
      match s.ctxStore c sub.done (natBytes 8 v.toNat) with
      | some t => t
      | none => s.depositKind 3 1 sub.done
  if sub.int then s.raise c q.toNat else s

end State

/-- The state of a node. -/
def Graph.nodeSt (g : Graph) (n : Nat) : NodeSt := tget .idle g.st n
/-- A node's pending count. -/
def Graph.pend (g : Graph) (n : Nat) : Nat := tget 0 g.pending n
/-- Whether a node lies in the body of a loop node (R250). -/
def Node.bodyHas (x : Node) (n : Nat) : Bool := x.ty = 3 && decide (x.succ.getD 0 0 ≤ n) && decide (n ≤ x.succ.getD 1 0)
/-- Whether every loop around a node is in an iteration. -/
def Graph.inIteration (g : Graph) (n : Nat) : Bool := g.nodes.zipIdx.all fun x => !x.1.bodyHas n || g.nodeSt x.2 = .running
/-- Whether a node is ready (R249). -/
def Graph.ready (g : Graph) (n : Nat) : Bool := g.pend n = 0 && g.nodeSt n = .idle && g.inIteration n
/-- Releases a list of successors (R249). -/
def Graph.release (g : Graph) (ns : List Nat) : Graph :=
  ns.foldl (fun g n => { g with pending := tset g.pending n (g.pend n - 1) }) g
/-- Marks a node. -/
def Graph.mark (g : Graph) (n : Nat) (x : NodeSt) : Graph := { g with st := tset g.st n x }
/-- Whether a node is a loop node. -/
def Graph.isLoop (g : Graph) (n : Nat) : Bool := g.nodes[n]?.any fun x => x.ty = 3
/-- Whether nothing of the graph is ready or running; no node of an abandoned graph starts, and none of its loops goes
on (R251, R252). -/
def Graph.atEnd (g : Graph) : Bool :=
  (List.range g.nodes.length).all fun n =>
    if g.abandoned.isSome then g.nodeSt n ≠ .running || g.isLoop n else g.nodeSt n ≠ .running && !g.ready n

namespace State

/-- Completes a graph that has nothing ready or running (R252). -/
def graphCheck (s : State) (gid : Nat) : State :=
  match s.graph gid with
  | none => s
  | some g =>
    if g.atEnd then
      let v := match g.abandoned with
        | some code => abandonWord code
        | none => g.sub.doneval
      { s with graphs := s.graphs.filter fun x => x.id ≠ gid }.writeDone g.ctx g.sq g.sub v
    else s

/-- The nodes of a graph that have become ready receive the next number, and those that are ready no longer lose theirs
(R256). -/
def numberReady (s : State) (gid : Nat) : State :=
  State.modGraph { s with nextId := s.nextId + 1 } gid fun g =>
    { g with readyNo := (List.range g.nodes.length).filterMap fun m =>
        if g.ready m then some (m, tget s.nextId g.readyNo m) else none }
/-- A node completes and releases the named successors (R249). -/
def nodeDone (s : State) (gid n : Nat) (succ : List Nat) : State :=
  ((s.publish.modGraph gid fun g => (g.mark n .ran).release succ).numberReady gid).graphCheck gid
/-- The successors of a walk, copy or event node. -/
def nodeSuccs (s : State) (gid n : Nat) : List Nat :=
  match s.graph gid with
  | some g =>
    match g.nodes[n]? with
    | some x => x.succ
    | none => []
  | none => []

/-- A graph is abandoned with a code: no further node starts (R251), and a walk node that still waits for a pool
entry never becomes a candidate. -/
def abandonGraph (s : State) (gid code : Nat) : State :=
  let s := { s with cands := s.cands.filter fun (c : Cand) => !(c.place = Place.node && c.node.any fun (x : Nat × Nat) => x.1 = gid) }
  (s.modGraph gid fun g => { g with abandoned := some (g.abandoned.getD code) }).graphCheck gid

/-- A walk that has nothing left to place and nothing running ends, and its node completes (R249, R254). -/
def walkCheck (s : State) (cid : Nat) : State :=
  match s.cand cid with
  | none => s
  | some c =>
    if c.running = 0 ∧ (c.closed ∨ (c.again = [] ∧ c.walk.total ≤ c.next)) then
      let s := { s with
        cands := s.cands.filter fun x => x.id ≠ cid
        slots := s.slots.filter fun x => x.cand ≠ cid }
      match c.node with
      | some (gid, n) => s.nodeDone gid n (s.nodeSuccs gid n)
      | none => s
    else s

/-- A gang is over: it leaves the resident gangs and its walk is looked at. -/
def gangOver (s : State) (g : Gang) : State :=
  let s := { s with
    gangs := s.gangs.filter fun x => x.id ≠ g.id
    slots := s.slots.filter fun x => !(x.cand = g.cand && x.seq = g.seq) }
  (s.modCand g.cand fun c => { c with running := c.running - 1 }).walkCheck g.cand

/-- Every job of a gang is discarded (R417). -/
def discardBanks (s : State) (g : Gang) : State :=
  (s.gangBanks g).foldl (fun s x => s.discardBank x.1 x.2) s

end State

/-- Inserts a sequence number in ascending order. -/
def seqInsert (n : Nat) : List Nat → List Nat
  | [] => [n]
  | m :: ms => if n ≤ m then n :: m :: ms else m :: seqInsert n ms

namespace State

/-- A gang is discarded and becomes a candidate again ahead of its walk's next gang (R254, R258, R417); a walk that
places no further gang takes it back no more. -/
def discardGang (s : State) (g : Gang) : State :=
  let s := s.discardBanks g
  match s.cand g.cand with
  | none => s.gangOver g
  | some c =>
    if c.closed then s.gangOver g
    else
      let s := { s with gangs := s.gangs.filter fun x => x.id ≠ g.id }
      s.modCand g.cand fun c =>
        { c with
          running := c.running - 1
          again := seqInsert g.seq c.again
          eff := c.walk.prio
          age := 0
          ready := s.cyc
          since := s.cyc
          waited := 0 }

/-- A job ends: its bank is free, its checkpoint slot is freed, and its gang ends with its last job (R134, R142, R412).  That
the job has ended is kept until then: it does not start again with its gang (R418). -/
def jobEnd (s : State) (c : Nat) (bankB : Bool) : State :=
  let j := ((s.core c).get bankB).job
  let s := s.emptyBank c bankB
  match s.gang j.gang with
  | none => { s with slots := s.slots.filter fun (x : CkSlot) => x.ended || !(x.ctx = j.ctx && x.idx = j.slot) }
  | some g =>
    let s := { s with slots := s.slots.map fun (x : CkSlot) =>
      if x.cand = g.cand ∧ x.seq = g.seq ∧ x.rank = j.rank.toNat then { x with ended := true } else x }
    if (s.gangBanks g).isEmpty then s.gangOver g else s

end State

/-! ### JOBID (R144) and job failure (R405) -/

/-- `JOBID` of the job of a bank on a core. -/
def jobId (c : Nat) (j : Job) : Word :=
  zext j.seq ||| (zext j.rank <<< 32) ||| (zext j.gsize <<< 34) ||| (BitVec.ofNat 64 (clusterOf c) <<< 36) |||
    (BitVec.ofNat 64 (c % 4) <<< 43)
/-- `CTXID` of the job of a bank (R261). -/
def ctxIdWord (j : Job) : Word :=
  BitVec.ofNat 64 j.ctx.val ||| (zext j.sq <<< 9) ||| (zext j.prio <<< 16) ||| (zext j.ecls <<< 20)

namespace State

/-- A job fails (R405): its record is posted, the job is discarded, the walk places no further gang, and the graph is
abandoned; a pre-emption of the gang is absorbed (R419).  The gang's other jobs are discarded by a later event (entry 90).
The record's job, ENDED and SEALED are filled here. -/
def jobFail (s : State) (c : Nat) (bankB : Bool) (r : FaultRec) : State :=
  let b := (s.core c).get bankB
  let s := s.postRec b.job.ctx
    { r with job := jobId c b.job, flags := { r.flags with ended := true, sealed := b.sealedAny } }
  let s := s.discardBank c bankB
  match s.gang b.job.gang with
  | none => s
  | some g =>
    let s := s.modGang g.id fun g => { g with failing := true, preempt := none, longWait := false }
    let s := s.modCand g.cand fun x => { x with closed := true }
    let s := match s.cand g.cand with
      | some x =>
        match x.node with
        | some (gid, _) => s.abandonGraph gid r.code
        | none => s
      | none => s
    if (s.gangBanks g).isEmpty then s.gangOver g else s
/-- Every job that is left of a gang with a failed one is discarded (R405). -/
def failOver (s : State) (gid : Nat) : State :=
  match s.gang gid with
  | none => s
  | some g => (s.discardBanks g).gangOver g

end State

end Sys2Proof.Machine
end

