-- ==== Sys2Proof/Machine/Kit.lean ====
section
/-! DEFINITION.  Kit images as they lie in a context's memory (R457). -/

namespace Sys2Proof.Machine

/-- Bytes from an address as a memory. -/
def memOf (a : Nat) (bs : List Byte) : Memory := (cellsAt a bs).filter fun c => c.2 ≠ Memory.unlisted

/-! ### Checkpoint slots as they lie in a context's memory (R412) -/

/-- The 256 bytes of a stream's region record; MASK is W2, whose bit i stands for `g`i (R78, R412). -/
def RegionRec.bytes (r : RegionRec) : List Byte :=
  natBytes 8 r.rpc.toNat ++ natBytes 4 (2 * r.mask.toNat) ++ natBytes 4 ((if r.done then 1 else 0) + (if r.sealed then 2 else 0)) ++
    ((List.range 4).flatMap fun n =>
      let l : Loop := tget {} r.loops n
      natBytes 4 l.count.toNat ++ natBytes 4 l.ls.toNat ++ natBytes 4 l.le.toNat ++ natBytes 4 (if l.active then 1 else 0)) ++
    ((List.range 16).flatMap fun i => natBytes 8 (((r.regs.map fun (x : Nat × Word) => x.2).getD i 0).toNat)) ++ List.replicate 48 0
/-- The record of a stream is written into its job's slot; where the slot finds no translation, nothing is written
(entry 86). -/
def State.saveRec (s : State) (c : CtxId) (idx e : Nat) : State :=
  match s.slots.find? fun x => !x.ended && x.ctx = c && x.idx = idx with
  | none => s
  | some x =>
    (s.ctxStore c ((s.ctx c).ckbase + BitVec.ofNat 64 (1024 * idx + 256 * e)) (RegionRec.bytes (tget {} x.recs e))).getD s

/-! ### Kit images (R457) -/

/-- An image's entry in the header. -/
structure KitImage where
  off : Nat
  len : Nat
  entry : Word
  trap : Option Word
  deriving DecidableEq, Repr

/-- A PC from a kit: bits 1:0 of a PC are always 0 (R25).  DESIGN CHOICE (entry 76): those of the kit's field are
dropped. -/
def kitPc (n : Nat) : Word := BitVec.ofNat 64 (n / 4 * 4)

/-- Image `e` of a header: 0 to 3 the streams, 4 the outposts. -/
def kitImage (h : List Byte) (e : Nat) : KitImage :=
  let b := 8 + 32 * e
  { off := recNat h b 8
    len := recNat h (b + 8) 4
    entry := kitPc (recNat h (b + 12) 4)
    trap := if recNat h (b + 16) 4 = 0xFFFFFFFF then none else some (kitPc (recNat h (b + 16) 4)) }
/-- The size of the instruction memory that receives an image (R140, R457). -/
def imageLimit (e : Nat) : Nat := if e = 0 then 0x10000 else if e = 4 then 0x4000 else 0x8000

/-- The header obeys R457. -/
def kitHeaderOk (h : List Byte) : Bool :=
  recNat h 0 4 = 0x54494B58 && recNat h 4 2 = 1 && recNat h 6 1 ≤ 2 && recZero h 7 1 && recZero h 192 64 &&
    ((List.range 5).all fun e => recZero h (8 + 32 * e + 20) 12 && (kitImage h e).len ≤ imageLimit e) &&
    recNat h 180 4 + recNat h 176 4 ≤ 0x200000

namespace State

/-- The 256 bytes of a kit's header, when the pointer is aligned, they can be read, and they obey R457. -/
def kitHeader (s : State) (c : CtxId) (ptr : Word) : Option (List Byte) :=
  if ptr.toNat % 256 ≠ 0 then none
  else
    match s.ctxLoad c ptr 256 with
    | some h => if kitHeaderOk h then some h else none
    | none => none

/-- One stream's image with its tables; none where the code or the tables cannot be read. -/
def kitStream (s : State) (c : CtxId) (ptr : Word) (h : List Byte) (tabs : List Byte) (e : Nat) :
    Option (Option KitStream) :=
  let i := kitImage h e
  if i.len = 0 then some none
  else
    match s.ctxLoad c (ptr + BitVec.ofNat 64 i.off) i.len with
    | none => none
    | some code =>
      some (some
        { code := memOf 0 code
          entry := i.entry
          trap := i.trap
          ft := (List.range 64).filterMap fun n =>
            let v := BitVec.ofNat 32 (recNat tabs (256 * e + 4 * n) 4)
            if v = 0 then none else some (n, v)
          tk := (List.range 7).filterMap fun n =>
            let v := BitVec.ofNat 32 (recNat tabs (1024 + 28 * e + 4 * n) 4)
            if v = 0 then none else some (n + 1, v) })

/-- The reads of a kit, those that its header allows. -/
def kitNote (s : State) (c : CtxId) (ptr : Word) : State :=
  match s.kitHeader c ptr with
  | none => if ptr.toNat % 256 = 0 then s.ctxNote c ptr 256 else s
  | some h =>
    let reads := (0, 256) :: (recNat h 184 8, 5232) :: (recNat h 168 8, recNat h 176 4) ::
      (List.range 5).map fun e => let i := kitImage h e; (i.off, i.len)
    reads.foldl (fun s x => s.ctxNote c (ptr + BitVec.ofNat 64 x.1) x.2) s

/-- A registered outpost image of a context. -/
def kitRegistered (s : State) (c : CtxId) (ptr : Word) : Bool :=
  s.kits.any fun k => k.ctx = c && k.ptr = ptr && k.ready

/-- The kit at a pointer of a context; none where R457 has WALK_BAD. -/
def readKit (s : State) (c : CtxId) (ptr : Word) : Option Kit :=
  match s.kitHeader c ptr with
  | none => none
  | some h =>
    let len := recNat h 176 4
    match s.ctxLoad c (ptr + BitVec.ofNat 64 (recNat h 184 8)) 1136,
      s.ctxLoad c (ptr + BitVec.ofNat 64 (recNat h 168 8)) len with
    | some tabs, some data =>
      if (kitImage h 4).len ≠ 0 && !s.kitRegistered c ptr then none
      else
        match s.kitStream c ptr h tabs 0, s.kitStream c ptr h tabs 1, s.kitStream c ptr h tabs 2,
          s.kitStream c ptr h tabs 3 with
        | some ce, some ae, some ve, some xe =>
          some { part := recNat h 6 1, streams := [ce, ae, ve, xe], daddr := recNat h 180 4, data := data }
        | _, _, _, _ => none
    | _, _ => none

/-- The code and the entry words of a kit's outpost image. -/
def readOutpostImage (s : State) (c : CtxId) (ptr : Word) : Option (Memory × Tab W32) :=
  match s.kitHeader c ptr with
  | none => none
  | some h =>
    let i := kitImage h 4
    match s.ctxLoad c (ptr + BitVec.ofNat 64 i.off) i.len,
      s.ctxLoad c (ptr + BitVec.ofNat 64 (recNat h 184 8 + 1136)) 4096 with
    | some code, some tab =>
      some (memOf 0 code, (List.range 1024).filterMap fun n =>
        let v := BitVec.ofNat 32 (recNat tab (4 * n) 4)
        if v = 0 then none else some (n, v))
    | _, _ => none

/-- The entry word of a function in the images of a context: the first image that declares it (R361, R457). -/
def entryWord (s : State) (c : CtxId) (entry : BitVec 10) : Option (KitReg × W32) :=
  (s.kits.filter fun k => k.ctx = c && k.ready).findSome? fun k =>
    let w := tget 0 k.entries entry.toNat
    if w.getLsbD 31 then some (k, w) else none

end State

end Sys2Proof.Machine
end

