-- ==== Sys2Proof/WellFormed.lean ====
section
/-! DEFINITION.  Which instructions an encoding admits: the reserved field values of R71 that a field's width
alone does not shut out. -/

namespace Sys2Proof

/-- A condition code of `CMP` and `BC` (R75). -/
def ccOk (cc : BitVec 4) : Bool := cc.toNat ≤ 9
/-- A load size (R76). -/
def ldSizeOk (sz : BitVec 3) : Bool := sz != 7
/-- A store size (R76). -/
def stSizeOk (sz : BitVec 3) : Bool := sz == 0 || sz == 2 || sz == 4 || sz == 6
/-- The bytes of a size code (R76). -/
def sizeBytes (sz : BitVec 3) : Nat :=
  if sz.toNat < 2 then 1 else if sz.toNat < 4 then 2 else if sz.toNat < 6 then 4 else 8
/-- A scope code (R77). -/
def scopeOk (s : BitVec 3) : Bool := s.toNat ≤ 5
/-- A rounding code of an instruction field (R50). -/
def rmOk (rm : BitVec 3) : Bool := rm != 5 && rm != 6

/-- The system registers of R36: number and whether `CSRW` may name it. -/
def csrTable : List (Nat × Bool) :=
  [(0, true), (1, true), (2, true), (3, true), (4, true), (8, true), (9, true), (10, true), (11, true),
   (0x10, false), (0x20, true), (0x21, true), (0x30, false), (0x31, false), (0x32, false), (0x33, false),
   (0x34, false), (0x35, false), (0x36, false), (0x37, false), (0x40, false), (0x41, false), (0x42, false),
   (0x43, false), (0x44, false), (0x48, false), (0x49, false), (0x4A, false), (0x4B, false), (0x4C, false),
   (0x4D, false), (0x4E, false), (0x4F, false)]
/-- A number that `CSRR` may name (R36). -/
def csrReadable (n : BitVec 12) : Bool := csrTable.any fun e => e.1 == n.toNat
/-- A number that `CSRW` may name (R36). -/
def csrWritable (n : BitVec 12) : Bool := csrTable.any fun e => e.1 == n.toNat && e.2

/-- The width in bits of a format code (R43); 0 for a code that names none. -/
def fmtBits (f : Fmt) : Nat :=
  if f == 0 || f == 9 || f == 10 then 32
  else if f == 1 || f == 2 || f == 7 || f == 8 then 16
  else if f == 3 || f == 4 || f == 5 || f == 6 then 8
  else if f == 11 || f == 12 || f == 13 then 4 else 0
/-- FP32, FP16 or BF16. -/
def isFlt3 (f : Fmt) : Bool := f.toNat ≤ 2
/-- The six 8-, 16- and 32-bit integer types. -/
def isInt6 (f : Fmt) : Bool := 5 ≤ f.toNat && f.toNat ≤ 10
/-- Take the format from the format table (R43). -/
def isFt (f : Fmt) : Bool := f == 15
/-- FP32, INT32 or UINT32. -/
def isSum32 (f : Fmt) : Bool := f == 0 || f == 9 || f == 10
/-- The types of `VSORT` and `VUNIQ` (R182). -/
def isSortTy (f : Fmt) : Bool := isSum32 f || f == 1 || f == 2 || f == 7 || f == 8

/-- A group name of `n` registers (R162). -/
def groupOk (r : VReg) (n : Nat) : Bool := r.toNat % n == 0 && r.toNat + n ≤ 64

/-- The group size of a widening result (R168). -/
def widenGroup (f : Fmt) : Nat := if f == 3 || f == 4 then 4 else 2
/-- A widening source (R168). -/
def widenOk (f : Fmt) : Bool := 1 ≤ f.toNat && f.toNat ≤ 8
/-- `VCVT`: destination width ÷ source width is 1, 2 or 4, both codes 0x0 to 0xC (R169). -/
def cvtOk (dst src : Fmt) : Bool :=
  dst.toNat ≤ 12 && src.toNat ≤ 12 &&
    (fmtBits dst == fmtBits src || fmtBits dst == 2 * fmtBits src || fmtBits dst == 4 * fmtBits src)
/-- `VNRW`: source width ÷ destination width is 2 or 4 (R170). -/
def nrwOk (dst src : Fmt) : Bool :=
  dst.toNat ≤ 12 && src.toNat ≤ 12 &&
    (fmtBits src == 2 * fmtBits dst || fmtBits src == 4 * fmtBits dst)
/-- The number of 512-element source registers of `VQNT`, results of `VDQT` (R171, R172). -/
def quantGroup (f : Fmt) : Nat := if f == 0 then 4 else 2

/-- The W2 fields that the extended vector form's majors accept: PRED, RM, OVF, DAZ (R82 and the variant
tables of R167 to R193). -/
def vAccept (op : BitVec 6) (fmt : Fmt) : Bool × Bool × Bool × Bool :=
  let o := op.toNat
  let flt := isFlt3 fmt
  if o ≤ 7 then (true, flt, false, flt || isFt fmt)
  else if o ≤ 13 then (true, false, false, false)
  else if o == 14 then (true, false, false, true)
  else if o ≤ 17 then
    (true, 1 ≤ fmt.toNat && fmt.toNat ≤ 4, false, (1 ≤ fmt.toNat && fmt.toNat ≤ 4) || isFt fmt)
  else if o ≤ 19 then (true, true, true, true)
  else if o == 20 then (false, true, true, true)
  else if o == 21 then (true, true, true, false)
  else if o == 22 then (true, false, false, true)
  else if o == 23 then (true, false, false, false)
  else if o ≤ 26 then (false, false, false, false)
  else if o ≤ 29 then (true, false, false, false)
  else if o ≤ 31 then (false, false, false, false)
  else if o == 32 then (true, false, false, false)
  else if o ≤ 34 then (false, false, false, false)
  else if o ≤ 37 then (true, false, false, true)
  else if o ≤ 39 then (true, false, false, false)
  else if o == 40 then (true, false, false, true)
  else if o == 41 then (true, false, false, false)
  else if o == 42 then (true, true, false, true)
  else if o ≤ 50 then (true, false, false, false)
  else if o == 52 then (true, false, false, false)
  else (false, false, false, false)

/-- W2 of the extended vector form names a short form and sets no field that form does not accept; under the
format table RM and OVF are reserved (R82). -/
def vw2Ok (fmt : Fmt) (w : VW2) : Bool :=
  let acc := vAccept w.op fmt
  1 ≤ w.op.toNat && w.op.toNat ≤ 54 && rmOk w.rm &&
  (w.pred == 0 || acc.1) && (w.rm == 0 || (acc.2.1 && !isFt fmt)) &&
  (w.ovf == 0 || (acc.2.2.1 && !isFt fmt)) && (!w.daz || acc.2.2.2)

/-- W2 of `RCALL` (R360, R361). -/
def callW2Ok (w : CallW2) : Bool :=
  w.pn.toNat ≤ 8 && w.rn.toNat ≤ 4 && (w.pn != 0 || w.pb == 0) && (w.rn != 0 || w.rb == 0) &&
  (!w.nr || w.rn == 0) && w.pb.toNat + w.pn.toNat ≤ 64 && w.rb.toNat + w.rn.toNat ≤ 64

/-- A type code of `AMO` (R80): `.f32` is reserved in the bitwise operators. -/
def amoTyOk (bitwise : Bool) (ty : BitVec 2) : Bool := ty != 3 && !(bitwise && ty == 2)

/-- The A formats of `QLD` and of tiles in the operand queue (R318). -/
def isAFmt (f : Fmt) : Bool := 2 ≤ f.toNat && f.toNat ≤ 6

/-- An instruction whose operands an encoding admits (R71). -/
def Instr.wf : Instr → Bool
  | .cmp cc _ _ _ => ccOk cc
  | .bfx _ _ p l => p.toNat + l.toNat + 1 ≤ 64
  | .bfxS _ _ p l => p.toNat + l.toNat + 1 ≤ 64
  | .bfi _ _ p l => p.toNat + l.toNat + 1 ≤ 64
  | .bcz cc a _ => ccOk cc || (cc == 15 && a == 0)
  | .bc cc _ _ _ => ccOk cc
  | .loop _ _ b => b != 0
  | .loopi _ _ b => b != 0
  | .loopr _ _ b => b != 0
  | .ld _ _ _ sz => ldSizeOk sz
  | .st _ _ _ sz => stSizeOk sz
  | .ldHandle _ _ _ _ sz => ldSizeOk sz
  | .stHandle _ _ _ _ sz => stSizeOk sz
  | .spl _ sz off => ldSizeOk sz && off.toNat % sizeBytes sz == 0
  | .sps _ sz off => stSizeOk sz && off.toNat % sizeBytes sz == 0
  | .twait m => m != 0
  | .tsig m => m != 0
  | .fence s => scopeOk s
  | .xfence s p => scopeOk s && 2 ≤ popCount p
  | .csrr _ n => csrReadable n
  | .csrw n _ => csrWritable n
  | .ldAq _ _ _ sz sc _ hf h => ldSizeOk sz && scopeOk sc && (hf || h == 0)
  | .stRl _ _ _ sz sc _ hf h => stSizeOk sz && scopeOk sc && (hf || h == 0)
  | .region m => popCount m ≤ 16
  | .mqpush a _ => a.toNat % 4 == 0
  | .ftw _ _ e _ => e != 0
  | .rcall _ _ _ _ w => callW2Ok w
  | .qld f _ _ _ _ => isAFmt f
  | .gld s _ _ a _ => s.toNat ≤ 5 && a.toNat % 2 == 0
  | .gst s _ _ a _ => s.toNat ≤ 5 && a.toNat % 2 == 0
  | .amoAdd l h ty _ _ _ => amoTyOk false ty && (!l || h == 0)
  | .amoMin l h ty _ _ _ => amoTyOk false ty && (!l || h == 0)
  | .amoMax l h ty _ _ _ => amoTyOk false ty && (!l || h == 0)
  | .amoAnd l h ty _ _ _ => amoTyOk true ty && (!l || h == 0)
  | .amoOr l h ty _ _ _ => amoTyOk true ty && (!l || h == 0)
  | .amoXor l h ty _ _ _ => amoTyOk true ty && (!l || h == 0)
  | .amoSwap l h ty _ _ _ => amoTyOk false ty && (!l || h == 0)
  | .amoCas l h ty _ b _ => amoTyOk false ty && (!l || h == 0) && b.toNat % 2 == 0
  | .xlt n _ _ _ _ => n != 0
  | .xltw n _ _ _ _ => n != 0
  | .nred f _ _ _ _ => f == 0 || f == 2 || f == 9
  | .nadd f _ _ _ _ => f == 0 || f == 9
  | .namoAdd ty _ _ _ _ => ty != 3
  | .namoMax ty _ _ _ _ => ty != 3
  | .namoSwap ty _ _ _ _ => ty != 3
  | .namoCas ty _ _ b _ => ty != 3 && b.toNat % 2 == 0
  | .tld _ _ b f _ w => b.toNat % 2 == 0 && f != 14 && rmOk w.rm && (!isFt f || (w.rm == 0 && w.ovf == 0))
  | .tldt _ _ b f _ w => b.toNat % 2 == 0 && f != 14 && rmOk w.rm && (!isFt f || (w.rm == 0 && w.ovf == 0))
  | .tst _ _ b f _ _ _ rm ovf => b.toNat % 2 == 0 && f != 14 && rmOk rm && (!isFt f || (rm == 0 && ovf == 0))
  | .rcallAe _ _ _ _ w => callW2Ok w
  | .vadd _ _ _ f _ => isFlt3 f || isInt6 f || isFt f
  | .vsub _ _ _ f _ => isFlt3 f || isInt6 f || isFt f
  | .vmul _ _ _ f _ => isFlt3 f || isInt6 f || isFt f
  | .vfma _ _ _ f _ => isFlt3 f || isInt6 f || isFt f
  | .vfms _ _ _ f _ => isFlt3 f || isInt6 f || isFt f
  | .vmin _ _ _ f _ => isFlt3 f || isInt6 f || isFt f
  | .vmax _ _ _ f _ => isFlt3 f || isInt6 f || isFt f
  | .vand _ _ _ f _ => isInt6 f
  | .vor _ _ _ f _ => isInt6 f
  | .vxor _ _ _ f _ => isInt6 f
  | .vshl _ _ _ f _ => isInt6 f
  | .vshr _ _ _ f _ => isInt6 f
  | .vsha _ _ _ f _ => isInt6 f
  | .vabs _ _ f _ => isFlt3 f || f == 5 || f == 7 || f == 9
  | .vneg _ _ f _ => isFlt3 f || f == 5 || f == 7 || f == 9
  | .vwadd d _ _ f _ => (widenOk f && groupOk d (widenGroup f)) || (isFt f && groupOk d 2)
  | .vwmul d _ _ f _ => (widenOk f && groupOk d (widenGroup f)) || (isFt f && groupOk d 2)
  | .vwfma d _ _ f _ => (widenOk f && groupOk d (widenGroup f)) || (isFt f && groupOk d 2)
  | .vnrw _ a src f _ =>
      (nrwOk f src && groupOk a (fmtBits src / fmtBits f)) || (isFt f && src == 0 && groupOk a 2)
  | .vcvt d _ src f _ =>
      (cvtOk f src && groupOk d (fmtBits f / fmtBits src)) || (isFt f && src == 0)
  | .vqnt _ a _ f _ => (isFlt3 f && groupOk a (quantGroup f)) || (isFt f && groupOk a 2)
  | .vdqt d _ f _ => (isFlt3 f && groupOk d (quantGroup f)) || (isFt f && groupOk d 2)
  | .vcmp _ _ _ _ f _ => f.toNat ≤ 10
  | .vsel _ _ _ f _ => f.toNat ≤ 12
  | .pstage _ _ _ m _ => m.toNat ≤ 4
  | .vperm _ _ _ f _ => fmtBits f == 16 || fmtBits f == 32
  | .vbcast _ _ f _ => f.toNat ≤ 12
  | .vextr _ _ _ f _ => f.toNat ≤ 12
  | .vins _ _ _ f _ => f.toNat ≤ 12
  | .vslide _ _ _ f _ => f.toNat ≤ 12
  | .vzip d _ _ f _ => f.toNat ≤ 12 && groupOk d 2
  | .vuzp d a f _ => f.toNat ≤ 12 && groupOk d 2 && groupOk a 2
  | .vrsum _ _ f _ => isSum32 f
  | .vrmax _ _ f _ => isFlt3 f || isInt6 f
  | .vrmin _ _ f _ => isFlt3 f || isInt6 f
  | .vscan _ _ f _ => isSum32 f
  | .vsegr _ _ _ f _ => isSum32 f
  | .vsort d a f _ => isSortTy f && groupOk d 2 && groupOk a 2
  | .vsortDesc d a f _ => isSortTy f && groupOk d 2 && groupOk a 2
  | .vuniq _ _ f _ => isSortTy f
  | .vhash _ f _ => isInt6 f
  | .vdrop _ _ _ f _ => isFlt3 f || isFt f
  | .vld _ _ hf h f _ => f.toNat ≤ 13 && (hf || h == 0)
  | .vst _ _ hf h f _ => f.toNat ≤ 13 && (hf || h == 0)
  | .vlds _ _ _ f _ => f.toNat ≤ 10
  | .vsts _ _ _ f _ => f.toNat ≤ 10
  | .vgth _ _ _ f _ => fmtBits f == 16 || fmtBits f == 32
  | .vsct _ _ _ f _ => fmtBits f == 16 || fmtBits f == 32
  | .accrd d _ _ => groupOk d 2
  | .accwr d _ _ => groupOk d 2
  | .vdefer k a _ f _ => isSum32 f && a.toNat + k.toNat ≤ 63
  | .vdrain d _ f _ => isSum32 f && groupOk d 4
  | .extendedVectorForm o w => vw2Ok o.fmt w
  | .xltx n _ _ _ _ => n != 0
  | .freq _ _ _ d => d != 0
  | .old _ _ sz => ldSizeOk sz
  | .ost _ _ sz => stSizeOk sz
  | .oamoAdd ty _ _ => ty != 3
  | .oamoMax ty _ _ => ty != 3
  | .oamoSwap ty _ _ => ty != 3
  | .oamoCas ty _ b => ty != 3 && b.toNat % 2 == 0
  | .oreply n a => n.toNat ≤ 4 && a.toNat + n.toNat ≤ 64
  | _ => true

end Sys2Proof
end

