-- ==== Sys2Proof/Decode.lean ====
section
/-! DEFINITION.  The decoder, total on any words and rejecting by name (R71), and after it the encoder. -/

namespace Sys2Proof

/-- Which private half decodes a word (R72). -/
inductive Map where
  | eng (e : Eng)
  | outpost
  deriving DecidableEq, Repr

/-- Why a word is no instruction; each raises ILLEGAL_INSTR at run time (R71). -/
inductive Reject where
  /-- the major is unassigned in its half -/
  | unassignedMajor
  /-- the sub-operation field holds an unassigned value -/
  | unassignedSubop
  /-- a field holds a reserved value -/
  | reservedField
  /-- R72: the word is not decoded by an outpost -/
  | notInOutpost
  /-- the bytes end before the instruction does -/
  | truncated
  deriving DecidableEq, Repr

/-- Bit 31, H (R67). -/
def wH (w : W32) : Bool := w.getLsbD 31
/-- The major opcode (R67). -/
def wMajor (w : W32) : BitVec 6 := fld w 25 6
/-- Field d of formats A, I, P and PI (R68). -/
def wD (w : W32) : BitVec 6 := fld w 19 6
/-- Field a of formats A, I, P and PI (R68). -/
def wA (w : W32) : BitVec 6 := fld w 13 6
/-- Field b of formats A and P (R68). -/
def wB (w : W32) : BitVec 6 := fld w 7 6
/-- Field fn of format A (R68). -/
def wFn (w : W32) : BitVec 7 := fld w 0 7
/-- Field fmt of format P (R68). -/
def wFmt (w : W32) : BitVec 4 := fld w 3 4
/-- Field tk of formats P and PI (R68). -/
def wTk (w : W32) : BitVec 3 := fld w 0 3
/-- Field imm13 of format I (R68). -/
def wImm13 (w : W32) : BitVec 13 := fld w 0 13
/-- Field imm10 of format PI (R68). -/
def wImm10 (w : W32) : BitVec 10 := fld w 3 10
/-- Majors 56 to 63 are long forms (R67). -/
def wLong (w : W32) : Bool := 56 ≤ (wMajor w).toNat

/-- The instruction, if the reserved fields are 0 and the operands are ones the encoding admits. -/
def accept (resv : Bool) (i : Instr) : Except Reject Instr :=
  if resv && i.wf then .ok i else .error .reservedField

/-- The register arithmetic group: fn selects the operation (R74). -/
def decodeArith (w : W32) : Except Reject Instr :=
  let d := wD w; let a := wA w; let b := wB w
  match (wFn w).toNat with
  | 0 => .ok (.add d a b)
  | 1 => .ok (.sub d a b)
  | 2 => .ok (.mul d a b)
  | 3 => .ok (.mulh d a b)
  | 4 => .ok (.mulhu d a b)
  | 5 => .ok (.madd d a b)
  | 6 => .ok (.div d a b)
  | 7 => .ok (.divu d a b)
  | 8 => .ok (.rem d a b)
  | 9 => .ok (.remu d a b)
  | 10 => .ok (.and d a b)
  | 11 => .ok (.or d a b)
  | 12 => .ok (.xor d a b)
  | 13 => .ok (.shl d a b)
  | 14 => .ok (.shr d a b)
  | 15 => .ok (.sha d a b)
  | 16 => .ok (.min d a b)
  | 17 => .ok (.max d a b)
  | 18 => .ok (.minu d a b)
  | 19 => .ok (.maxu d a b)
  | 20 => accept (b == 0) (.clz d a)
  | 21 => accept (b == 0) (.popc d a)
  | _ => .error .unassignedSubop

/-- `KMOV`'s three forms (R122). -/
def decodeKmov (w : W32) : Except Reject Instr :=
  let kd := fld w 19 4; let ka := fld w 13 4
  let rd := fld w 23 2; let ra := fld w 17 2
  match (wFn w).toNat with
  | 0 => accept (wB w == 0 && rd == 0) (.kmovKFromG kd (wA w))
  | 1 => accept (wB w == 0 && ra == 0) (.kmovGFromK (wD w) ka)
  | 2 => accept (wB w == 0 && rd == 0 && ra == 0) (.kmovKFromK kd ka)
  | _ => .error .unassignedSubop

/-- The ordered accesses `LD.AQ` and `ST.RL` (R78). -/
def decodeOrdered (w w2 : W32) (store : Bool) : Except Reject Instr :=
  let sz := fld w2 0 3; let sc := fld w2 3 3; let ps := fld w2 6 6
  let hf := w2.getLsbD 12; let h := fld w2 13 5
  accept (fld w2 18 14 == 0)
    (if store then .stRl (wD w) (wA w) (wImm13 w) sz sc ps hf h
     else .ldAq (wD w) (wA w) (wImm13 w) sz sc ps hf h)

/-- The shared half (R73). -/
def decodeShared (w w2 : W32) : Except Reject Instr :=
  let d := wD w; let a := wA w; let b := wB w; let imm := wImm13 w
  match (wMajor w).toNat with
  | 1 => decodeArith w
  | 2 => accept (fld w 4 3 == 0) (.cmp (fld w 0 4) d a b)
  | 3 => accept (fld w 6 1 == 0) (.sel d a b (fld w 0 6))
  | 4 => .ok (.addi d a imm)
  | 5 => .ok (.andi d a imm)
  | 6 => .ok (.ori d a imm)
  | 7 => .ok (.xori d a imm)
  | 8 => accept (fld w 6 7 == 0) (.shli d a (fld w 0 6))
  | 9 => accept (fld w 6 7 == 0) (.shri d a (fld w 0 6))
  | 10 => accept (fld w 6 7 == 0) (.shai d a (fld w 0 6))
  | 11 => accept true (if w.getLsbD 12 then .bfxS d a (fld w 0 6) (fld w 6 6)
                       else .bfx d a (fld w 0 6) (fld w 6 6))
  | 12 => accept (fld w 12 1 == 0) (.bfi d a (fld w 0 6) (fld w 6 6))
  | 13 => .ok (.li d (fld w 0 19))
  | 14 => .ok (.lui d (fld w 0 19))
  | 15 => accept true (.bcz (fld w 21 4) (fld w 15 6) (fld w 0 15))
  | 16 => accept true (.bc (fld w 21 4) (fld w 15 6) (fld w 9 6) (fld w 0 9))
  | 17 => accept (b == 0 && wFn w == 0) (.jmp d a)
  | 18 => .ok (.call d (fld w 0 19))
  | 19 => accept (fld w 22 1 == 0 && fld w 18 4 == 0) (.loop (fld w 23 2) (fld w 12 6) (fld w 0 12))
  | 20 => accept (fld w 22 1 == 0) (.loopi (fld w 23 2) (fld w 12 10) (fld w 0 12))
  | 21 => accept (fld w 22 1 == 0 && fld w 18 4 == 0) (.loopr (fld w 23 2) (fld w 12 6) (fld w 0 12))
  | 22 => accept (fld w 0 23 == 0) (.leave (fld w 23 2))
  | 23 => accept true (.ld d a (fld w 3 10) (fld w 0 3))
  | 24 => accept true (.st d a (fld w 3 10) (fld w 0 3))
  | 25 => accept true (.ldHandle d a (fld w 8 5) (fld w 3 5) (fld w 0 3))
  | 26 => accept true (.stHandle d a (fld w 8 5) (fld w 3 5) (fld w 0 3))
  | 27 => accept (fld w 12 4 == 0) (.spl d (fld w 16 3) (fld w 0 12))
  | 28 => accept (fld w 12 4 == 0) (.sps d (fld w 16 3) (fld w 0 12))
  | 29 => decodeKmov w
  | 30 => accept (fld w 23 2 == 0 && fld w 17 2 == 0) (.kaddi (fld w 19 4) (fld w 13 4) imm)
  | 31 => accept (fld w 3 22 == 0) (.twait (fld w 0 3))
  | 32 => accept (fld w 3 22 == 0) (.tsig (fld w 0 3))
  | 33 => accept (fld w 3 22 == 0) (.fence (fld w 0 3))
  | 34 => accept (fld w 9 16 == 0) (.xfence (fld w 0 3) (fld w 3 6))
  | 35 => accept (d == 0 && b == 0 && wFn w == 0) (.waitc a)
  | 36 => accept (a == 0 && fld w 12 1 == 0) (.csrr d (fld w 0 12))
  | 37 => accept (d == 0 && fld w 12 1 == 0) (.csrw (fld w 0 12) a)
  | 38 => accept (d == 0 && a == 0) (.trap imm)
  | 39 =>
    match (wFn w).toNat with
    | 0 => accept (d == 0 && a == 0 && b == 0) .nop
    | 1 => accept (d == 0 && a == 0 && b == 0) .rdv
    | 2 => accept (d == 0 && a == 0 && b == 0) .tret
    | _ => .error .unassignedSubop
  | 56 => .ok (.lil d (fld w 0 19 ++ w2))
  | 57 => decodeOrdered w w2 false
  | 58 => decodeOrdered w w2 true
  | 59 => accept (fld w 0 25 == 0 && fld w2 0 1 == 0) (.region (fld w2 1 31))
  | _ => .error .unassignedMajor

/-- W2 of `RCALL` (R360). -/
def decodeCallW2 (w2 : W32) : CallW2 :=
  { entry := fld w2 0 10, pb := fld w2 10 6, pn := fld w2 16 4, rb := fld w2 20 6,
    rn := fld w2 26 3, nr := w2.getLsbD 29 }

/-- The CE private half (R79 and the chapters of its instructions). -/
def decodeCe (w w2 : W32) : Except Reject Instr :=
  let d := wD w; let a := wA w; let b := wB w; let f := wFmt w; let tk := wTk w; let i := wImm10 w
  match (wMajor w).toNat with
  | 1 => accept (d == 0 && b == 0 && f == 0) (.mqpush a tk)
  | 2 => accept (a == 0 && b == 0 && f == 0) (.mqdrop d tk)
  | 3 =>
    match f.toNat with
    | 0 => accept (a == 0 && b == 0) (.mqdepth d tk)
    | 1 => accept (a == 0 && b == 0) (.mqdepthClr d tk)
    | _ => .error .reservedField
  | 4 => accept (d == 0 && a == 0) (.semw (fld i 0 4) (fld i 4 6) tk)
  | 5 => accept (d == 0 && a == 0) (.sems (fld i 0 4) (fld i 4 6) tk)
  | 6 => accept (fld f 2 2 == 0) (.bsel (fld f 0 2) d a b tk)
  | 7 => accept (b == 0 && f == 0) (.launch d a tk)
  | 8 => accept (fld d 4 2 == 0 && fld i 6 4 == 0) (.ftw (fld i 0 6) a (fld d 0 4) tk)
  | 9 => .ok (.kitld d a b f tk)
  | 10 => accept (d == 0 && b == 0 && f == 0) (.rwait a tk)
  | 11 => accept (b == 0 && f == 0) (.rpoll d a tk)
  | 12 => accept (a == 0 && i == 0) (.yield d tk)
  | 13 =>
    match f.toNat with
    | 0 => accept (b == 0) (.gsfset d a tk)
    | 1 => accept (b == 0) (.gsfsetOr d a tk)
    | _ => .error .reservedField
  | 56 => accept (fld b 5 1 == 0 && f == 0 && fld w2 30 2 == 0)
            (.rcall d a (fld b 0 5) tk (decodeCallW2 w2))
  | _ => .error .unassignedMajor

/-- The eight `AMO` majors (R80, R321). -/
def decodeAmo (op : AtomOp) (w : W32) : Except Reject Instr :=
  let loc := w.getLsbD 24; let h := fld w 19 5; let ty := fld w 3 2
  let a := wA w; let b := wB w; let tk := wTk w
  accept (fld w 5 2 == 0)
    (match op with
     | .add => .amoAdd loc h ty a b tk
     | .min => .amoMin loc h ty a b tk
     | .max => .amoMax loc h ty a b tk
     | .and => .amoAnd loc h ty a b tk
     | .or => .amoOr loc h ty a b tk
     | .xor => .amoXor loc h ty a b tk
     | .swap => .amoSwap loc h ty a b tk
     | .cas => .amoCas loc h ty a b tk)

/-- W2 of `TLD` and `TLDT` (R312). -/
def decodeTldW2 (w2 : W32) : TldW2 :=
  { twm := fld w2 0 9, thm := fld w2 9 9, kreg := fld w2 18 4, q := w2.getLsbD 22,
    rm := fld w2 23 3, ovf := fld w2 26 2 }

/-- The AE private half (R80 and 13_access_engine). -/
def decodeAe (w w2 : W32) : Except Reject Instr :=
  let d := wD w; let a := wA w; let b := wB w; let f := wFmt w; let tk := wTk w; let i := wImm10 w
  let h := fld d 0 5; let hTop := fld d 5 1 == 0
  match (wMajor w).toNat with
  | 1 => accept true (.qld f d a b tk)
  | 2 => accept (d == 0 && f == 0) (.scq a b tk)
  | 3 => accept (fld b 5 1 == 0 && fld f 3 1 == 0) (.gld (fld f 0 3) d (fld b 0 5) a tk)
  | 4 => accept (fld b 5 1 == 0 && fld f 3 1 == 0) (.gst (fld f 0 3) d (fld b 0 5) a tk)
  | 5 => decodeAmo .add w
  | 6 => decodeAmo .min w
  | 7 => decodeAmo .max w
  | 8 => decodeAmo .and w
  | 9 => decodeAmo .or w
  | 10 => decodeAmo .xor w
  | 11 => decodeAmo .swap w
  | 12 => decodeAmo .cas w
  | 13 => accept (hTop && fld f 3 1 == 0) (.xlt (fld f 0 3) h a b tk)
  | 14 => accept (hTop && fld f 3 1 == 0) (.xltw (fld f 0 3) h a b tk)
  | 15 =>
    match f.toNat with
    | 0 => accept (d == 0 && a == 0 && b == 0) (.hinvAll tk)
    | 1 => accept (d == 0 && b == 0) (.hinvRid a tk)
    | 2 => accept (d == 0) (.hinvRange a b tk)
    | 3 => accept (d == 0) (.hinvRangeRem a b tk)
    | _ => .error .reservedField
  | 16 =>
    match f.toNat with
    | 0 => accept (fld a 5 1 == 0 && b == 0) (.hchk d (fld a 0 5) tk)
    | 1 => accept (fld a 5 1 == 0 && b == 0) (.hchkAddr d (fld a 0 5) tk)
    | _ => .error .reservedField
  | 17 => accept (hTop && fld a 5 1 == 0 && b == 0 && fld f 2 2 == 0) (.hmov (fld f 0 2) h (fld a 0 5) tk)
  | 18 => accept (fld d 4 2 == 0 && b == 0 && f == 0) (.kget (fld d 0 4) a tk)
  | 19 => accept (d == 0 && f == 0 && fld b 4 2 == 0) (.wrel a (fld b 0 4) tk)
  | 20 => accept (hTop && f == 0) (.tupd h a b tk)
  | 21 => accept (d == 0 && b == 0 && f == 0) (.tskip a tk)
  | 22 => accept true (.nred f d a b tk)
  | 23 => accept hTop (.nadd f h a b tk)
  | 24 =>
    accept hTop
      (let ty := fld f 0 2
       match (fld f 2 2).toNat with
       | 0 => .namoAdd ty h a b tk
       | 1 => .namoMax ty h a b tk
       | 2 => .namoSwap ty h a b tk
       | _ => .namoCas ty h a b tk)
  | 25 =>
    if fld i 0 1 == 0 then accept (i == 0 && d == 0 && a == 0) (.nfence tk)
    else accept (fld i 1 9 == 0 && a == 0) (.nfencePoll d tk)
  | 26 => accept (d == 0 && b == 0 && f == 0) (.nseq a tk)
  | 27 => accept (d == 0 && b == 0 && f == 0) (.rwaitAe a tk)
  | 28 =>
    match f.toNat with
    | 0 => accept (b == 0) (.tkq d a tk)
    | 1 => accept (a == 0 && b == 0) (.tkqCnt d tk)
    | _ => .error .reservedField
  | 29 => accept (hTop && f == 0) (.pft h a b tk)
  | 56 => accept (fld w2 28 4 == 0) (.tld d a b f tk (decodeTldW2 w2))
  | 57 => accept (fld w2 28 4 == 0) (.tldt d a b f tk (decodeTldW2 w2))
  | 58 => accept (fld w2 28 4 == 0 && fld w2 18 5 == 0)
            (.tst d a b f tk (fld w2 0 9) (fld w2 9 9) (fld w2 23 3) (fld w2 26 2))
  | 59 => accept (fld b 5 1 == 0 && f == 0 && fld w2 30 2 == 0)
            (.rcallAe d a (fld b 0 5) tk (decodeCallW2 w2))
  | _ => .error .unassignedMajor

/-- The short vector form of a major, from its five fields (R81). -/
def decodeVec (op : BitVec 6) (o : VOps) : Except Reject Instr :=
  let d := o.d; let a := o.a; let b := o.b; let f := o.fmt; let tk := o.tk
  let pd := fld d 0 4; let pdTop := fld d 4 2 == 0
  let i := b ++ f
  match op.toNat with
  | 1 => accept true (.vadd d a b f tk)
  | 2 => accept true (.vsub d a b f tk)
  | 3 => accept true (.vmul d a b f tk)
  | 4 => accept true (.vfma d a b f tk)
  | 5 => accept true (.vfms d a b f tk)
  | 6 => accept true (.vmin d a b f tk)
  | 7 => accept true (.vmax d a b f tk)
  | 8 => accept true (.vand d a b f tk)
  | 9 => accept true (.vor d a b f tk)
  | 10 => accept true (.vxor d a b f tk)
  | 11 => accept true (.vshl d a b f tk)
  | 12 => accept true (.vshr d a b f tk)
  | 13 => accept true (.vsha d a b f tk)
  | 14 =>
    match b.toNat with
    | 0 => accept true (.vabs d a f tk)
    | 1 => accept true (.vneg d a f tk)
    | _ => .error .unassignedSubop
  | 15 => accept true (.vwadd d a b f tk)
  | 16 => accept true (.vwmul d a b f tk)
  | 17 => accept true (.vwfma d a b f tk)
  | 18 => accept (fld b 4 2 == 0) (.vnrw d a (fld b 0 4) f tk)
  | 19 => accept (fld b 4 2 == 0) (.vcvt d a (fld b 0 4) f tk)
  | 20 => accept (fld b 2 4 == 0) (.vqnt d a (fld b 0 2) f tk)
  | 21 => accept (b == 0) (.vdqt d a f tk)
  | 22 => accept true (.vcmp (fld d 4 2) pd a b f tk)
  | 23 => accept true (.vsel d a b f tk)
  | 24 =>
    let pok := pdTop && fld a 4 2 == 0
    match f.toNat with
    | 0 => accept (pok && fld b 4 2 == 0) (.pand pd (fld a 0 4) (fld b 0 4) tk)
    | 1 => accept (pok && fld b 4 2 == 0) (.por pd (fld a 0 4) (fld b 0 4) tk)
    | 2 => accept (pok && fld b 4 2 == 0) (.pxor pd (fld a 0 4) (fld b 0 4) tk)
    | 3 => accept (pok && b == 0) (.pnot pd (fld a 0 4) tk)
    | _ => .error .unassignedSubop
  | 25 =>
    match f.toNat with
    | 0 => accept (fld a 4 2 == 0 && fld b 2 4 == 0) (.pcnt d (fld a 0 4) (fld b 0 2) tk)
    | 1 => accept (fld a 4 2 == 0 && fld b 2 4 == 0) (.pfirst d (fld a 0 4) (fld b 0 2) tk)
    | _ => .error .unassignedSubop
  | 26 => accept (pdTop && fld i 5 5 == 0) (.pstage pd a (fld i 3 2) (fld i 0 3) tk)
  | 27 => accept true (.vperm d a b f tk)
  | 28 => accept (f == 5) (.vshuf d a b tk)
  | 29 => accept (b == 0) (.vbcast d a f tk)
  | 30 => accept true (.vextr d a b f tk)
  | 31 => accept true (.vins d a b f tk)
  | 32 => accept true (.vslide d a b f tk)
  | 33 => accept true (.vzip d a b f tk)
  | 34 => accept (b == 0) (.vuzp d a f tk)
  | 35 =>
    match b.toNat with
    | 0 => accept true (.vrsum d a f tk)
    | 1 => accept true (.vrmax d a f tk)
    | 2 => accept true (.vrmin d a f tk)
    | _ => .error .unassignedSubop
  | 36 => accept (b == 0) (.vscan d a f tk)
  | 37 => accept (fld b 4 2 == 0) (.vsegr d a (fld b 0 4) f tk)
  | 38 =>
    match b.toNat with
    | 0 => accept true (.vsort d a f tk)
    | 1 => accept true (.vsortDesc d a f tk)
    | _ => .error .reservedField
  | 39 => accept (pdTop && b == 0) (.vuniq pd a f tk)
  | 40 =>
    match b.toNat with
    | 0 => accept (f == 0) (.vexp2 d a tk)
    | 1 => accept (f == 0) (.vlog2 d a tk)
    | 2 => accept (f == 0) (.vrcp d a tk)
    | 3 => accept (f == 0) (.vrsq d a tk)
    | 4 => accept (f == 0) (.vexp d a tk)
    | 5 => accept (f == 0) (.vtanh d a tk)
    | 6 => accept (f == 0) (.vsig d a tk)
    | 7 => accept (f == 0) (.vgelu d a tk)
    | _ => .error .unassignedSubop
  | 41 => accept (a == 0 && b == 0) (.vhash d f tk)
  | 42 => accept true (.vdrop d a b f tk)
  | 43 => accept true (.vld d a (b.getLsbD 5) (fld b 0 5) f tk)
  | 44 => accept true (.vst d a (b.getLsbD 5) (fld b 0 5) f tk)
  | 45 => accept true (.vlds d a b f tk)
  | 46 => accept true (.vsts d a b f tk)
  | 47 => accept true (.vgth d a b f tk)
  | 48 => accept true (.vsct d a b f tk)
  | 49 => accept (f == 0 && b == 0) (.accrd d a tk)
  | 50 => accept (f == 0 && b == 0) (.accwr d a tk)
  | 51 => accept (d == 0 && b == 0 && f == 0) (.vrotb a tk)
  | 52 => accept (fld d 2 4 == 0 && fld b 4 2 == 0) (.vdefer (fld d 0 2) a (fld b 0 4) f tk)
  | 53 => accept (b == 0) (.vdrain d a f tk)
  | 54 => accept (b == 0 && f == 0) (.vdqn d a tk)
  | _ => .error .unassignedMajor

/-- The five fields of a short vector form (R68). -/
def vOps (w : W32) : VOps := { d := wD w, a := wA w, b := wB w, fmt := wFmt w, tk := wTk w }

/-- W2 of the extended vector form (R82). -/
def decodeVW2 (w2 : W32) : VW2 :=
  { op := fld w2 0 6, pred := fld w2 6 4, rm := fld w2 10 3, ovf := fld w2 13 2, daz := w2.getLsbD 15 }

/-- The VE private half (R81): the extended form names a short form that the map decodes (R82). -/
def decodeVe (w w2 : W32) : Except Reject Instr :=
  if wMajor w == 56 then
    match decodeVec (fld w2 0 6) (vOps w) with
    | .ok _ => accept (fld w2 16 16 == 0) (.extendedVectorForm (vOps w) (decodeVW2 w2))
    | .error _ => .error .reservedField
  else decodeVec (wMajor w) (vOps w)

/-- The XE private half (R83, R341, R350, R354, R445). -/
def decodeXe (w w2 : W32) : Except Reject Instr :=
  let d := wD w; let a := wA w; let b := wB w; let f := wFmt w; let tk := wTk w
  match (wMajor w).toNat with
  | 1 => accept (f == 0) (.xcopy d a b tk)
  | 2 => accept true (.xmcast f d a b tk)
  | 3 => accept (f == 0) (.xrot d a b tk)
  | 4 => accept (f == 0) (.xfill d a b tk)
  | 5 =>
    match f.toNat with
    | 0 => accept (d == 0) (.binit a b tk)
    | 1 => accept (d == 0) (.binitClr a b tk)
    | _ => .error .reservedField
  | 6 => accept (d == 0 && f == 0) (.bwait a b tk)
  | 7 => accept (b == 0 && f == 0) (.bqry d a tk)
  | 8 => accept (d == 0 && a == 0 && b == 0 && f == 0) (.barr tk)
  | 9 => accept (d == 0 && f == 0) (.fsend a b tk)
  | 10 => accept (d == 0 && b == 0 && f == 0) (.frecv a tk)
  | 11 => accept (d == 0 && b == 0 && f == 0) (.fwiden a tk)
  | 12 => accept (fld d 5 1 == 0 && fld f 3 1 == 0) (.xltx (fld f 0 3) (fld d 0 5) a b tk)
  | 13 =>
    match f.toNat with
    | 0 => accept (a == 0) (.xstat d b tk)
    | 1 => accept true (.xstatWait d a b tk)
    | _ => .error .reservedField
  | 14 => accept (a == 0 && f == 0) (.xcancel d b tk)
  | 56 => accept (f == 0 && fld w2 12 20 == 0) (.xcopy2d d a b tk (fld w2 0 12))
  | 57 => accept (b == 0 && f == 0 && fld w2 24 8 == 0) (.freq d a tk (fld w2 0 24))
  | _ => .error .unassignedMajor

/-- The outpost private half (R84, R358); tk must be 0. -/
def decodeOutpost (w : W32) : Except Reject Instr :=
  let d := wD w; let a := wA w; let b := wB w; let f := wFmt w
  let tk0 := wTk w == 0
  let wOk := fld d 4 2 == 0 && fld a 4 2 == 0 && fld b 4 2 == 0 && f == 0 && tk0
  match (wMajor w).toNat with
  | 1 => accept (tk0 && b == 0 && fld f 3 1 == 0) (.old d a (fld f 0 3))
  | 2 => accept (tk0 && b == 0 && fld f 3 1 == 0) (.ost d a (fld f 0 3))
  | 3 =>
    accept (tk0 && d == 0)
      (let ty := fld f 0 2
       match (fld f 2 2).toNat with
       | 0 => .oamoAdd ty a b
       | 1 => .oamoMax ty a b
       | 2 => .oamoSwap ty a b
       | _ => .oamoCas ty a b)
  | 4 => accept wOk (.ovadd (fld d 0 4) (fld a 0 4) (fld b 0 4))
  | 5 => accept wOk (.ovmul (fld d 0 4) (fld a 0 4) (fld b 0 4))
  | 6 => accept wOk (.ovfma (fld d 0 4) (fld a 0 4) (fld b 0 4))
  | 7 => accept wOk (.ovmax (fld d 0 4) (fld a 0 4) (fld b 0 4))
  | 8 => accept (tk0 && fld d 4 2 == 0 && b == 0 && f == 0) (.ovld (fld d 0 4) a)
  | 9 => accept (tk0 && fld d 4 2 == 0 && b == 0 && f == 0) (.ovst (fld d 0 4) a)
  | 10 => accept (tk0 && d == 0 && b == 0 && fld f 3 1 == 0) (.oreply (fld f 0 3) a)
  | _ => .error .unassignedMajor

/-- The shared words that an outpost rejects (R72). -/
def outpostForbids : Instr → Bool
  | .loopr _ _ _ => true
  | .twait _ => true
  | .tsig _ => true
  | .tret => true
  | .ldHandle _ _ _ _ _ => true
  | .stHandle _ _ _ _ _ => true
  | .ldAq _ _ _ _ _ _ hf _ => hf
  | .stRl _ _ _ _ _ _ hf _ => hf
  | .kmovKFromG _ _ => true
  | .kmovGFromK _ _ => true
  | .kmovKFromK _ _ => true
  | .kaddi _ _ _ => true
  | .csrw _ _ => true
  | .csrr _ n => n != 0x040 && n != 0x042
  | _ => false

/-- The instruction that the words at PC name, under a map; W2 is read only by long forms (R67, R72). -/
def decode (m : Map) (w w2 : W32) : Except Reject Instr :=
  if wH w then
    match m with
    | .eng .ce => decodeCe w w2
    | .eng .ae => decodeAe w w2
    | .eng .ve => decodeVe w w2
    | .eng .xe => decodeXe w w2
    | .outpost => decodeOutpost w
  else
    match decodeShared w w2 with
    | .ok i => if m == .outpost && outpostForbids i then .error .notInOutpost else .ok i
    | .error r => .error r

/-- Four bytes, lowest address first, as a word (R1). -/
def wordOfBytes (b0 b1 b2 b3 : Byte) : W32 := b3 ++ b2 ++ b1 ++ b0

/-- The first instruction of a list of bytes and the bytes after it. -/
def decodeBytes (m : Map) : List Byte → Except Reject (Instr × List Byte)
  | b0 :: b1 :: b2 :: b3 :: rest =>
    let w := wordOfBytes b0 b1 b2 b3
    if wLong w then
      match rest with
      | c0 :: c1 :: c2 :: c3 :: rest' =>
        match decode m w (wordOfBytes c0 c1 c2 c3) with
        | .ok i => .ok (i, rest')
        | .error r => .error r
      | _ => .error .truncated
    else
      match decode m w 0 with
      | .ok i => .ok (i, rest)
      | .error r => .error r
  | _ => .error .truncated

/-- The private halves in the order in which a table word is tried: a row of the table does not say whose map
it belongs to (entry 5). -/
def tableMaps : List Map := [.eng .ce, .eng .ae, .eng .ve, .eng .xe, .outpost]

/-- The first map of `tableMaps` that decodes the word, and what it decodes. -/
def decodeAny (w w2 : W32) : Option (Map × Instr) :=
  tableMaps.findSome? fun m => match decode m w w2 with
    | .ok i => some (m, i)
    | .error _ => none

/-- The instruction the decoder reads from a table word: the first word is bits 31:0 and W2 bits 63:32. -/
def decodeTableWord (_nbits w : Nat) : Option Instr :=
  (decodeAny (BitVec.ofNat 32 w) (BitVec.ofNat 32 (w >>> 32))).map (·.2)

/-! ### Matrix command records (R200) -/

/-- The header fields (R200). -/
def mxHdr (r : BitVec 128) : MxHdr :=
  { swe := r.getLsbD 4, swi := fld r 5 4, sse := r.getLsbD 9, ssi := fld r 10 4 }
/-- The tile fields in word 1 bits 20:0 (R200). -/
def mxTile (r : BitVec 128) : MxTile :=
  { row0 := fld r 32 9, mrows := fld r 41 6, col0 := fld r 47 3, ncols := fld r 50 3 }
/-- The fields of `MMA`, `MMAZ` and `ABANK` (R203). -/
def mxMma (r : BitVec 128) : MmaRec :=
  { hdr := mxHdr r, af := fld r 16 4, aw := fld r 20 2, scl := fld r 22 2, oq := r.getLsbD 24,
    row0 := fld r 32 9, mrows := fld r 41 6, col0 := fld r 47 3, seq := fld r 50 8,
    aaddr := fld r 64 21, astride := fld r 96 20 }
/-- The fields of `BLOAD` (R207). -/
def mxBload (r : BitVec 128) : BloadRec :=
  { hdr := mxHdr r, bf := fld r 16 4, bw := fld r 20 2, slot := r.getLsbD 22, src := r.getLsbD 23,
    place := fld r 24 2, hreg := fld r 26 5, kb := fld r 32 4, nb := fld r 36 3, cstr := fld r 39 20,
    rh := fld r 59 4, baddr := fld r 64 32, saddr := fld r 96 32 }
/-- The fields of `DRAIN` and of the drain part of `PRJ` (R213). -/
def mxDrain (r : BitVec 128) : DrainRec :=
  { hdr := mxHdr r, outf := fld r 16 4, rm := fld r 20 3, ovf := fld r 23 2, clr := r.getLsbD 25,
    tile := mxTile r, act := fld r 53 3, sc := r.getLsbD 56, bi := r.getLsbD 57, rs := r.getLsbD 58,
    dropout := r.getLsbD 59, dst := fld r 64 15, pb := fld r 79 15, dstr := fld r 96 12 }
/-- The fields of `PRJADJ` (R239). -/
def mxAdj (r : BitVec 128) : AdjRec :=
  { hdr := mxHdr r, outf := fld r 16 4, rm := fld r 20 3, ovf := fld r 23 2, clr := r.getLsbD 25,
    tile := mxTile r, dst := fld r 64 15, pb := fld r 79 15, dstr := fld r 96 12,
    set := fld r 112 3, span := fld r 117 4 }

/-- The command of a record whose reserved bits are 0 (R200); none for a reserved kind or a reserved bit set.
The limits of shapes and formats are checked by `MQPUSH`. -/
def decodeMx (r : BitVec 128) : Option Instr :=
  let z (lo len : Nat) : Bool := fld r lo len == 0
  let hdrOk := z 14 2
  match (fld r 0 4).toNat with
  | 0 => if z 4 124 then some .mnop else none
  | 1 => if hdrOk && z 25 7 && z 58 6 && z 85 11 && z 116 12 then some (.mma (mxMma r)) else none
  | 2 => if hdrOk && z 25 7 && z 58 6 && z 85 11 && z 116 12 then some (.mmaz (mxMma r)) else none
  | 3 => if hdrOk && z 31 1 && z 63 1 then some (.bload (mxBload r)) else none
  | 4 => if hdrOk && z 18 110 then
           some (.bslot { hdr := mxHdr r, slot := r.getLsbD 16, rel := r.getLsbD 17 }) else none
  | 5 => if hdrOk && z 16 16 && z 53 75 then some (.accz { hdr := mxHdr r, tile := mxTile r }) else none
  | 6 => if hdrOk && z 26 6 && z 60 4 && z 94 2 && z 108 20 then some (.drain (mxDrain r)) else none
  | 7 => if hdrOk && z 26 6 && z 60 4 && z 94 2 && z 108 4 && z 122 6 then
           some (.prj { drain := mxDrain r, set := fld r 112 3, rsrc := fld r 115 2, span := fld r 117 4,
                        recs := r.getLsbD 121 }) else none
  | 8 => if hdrOk && z 26 6 && z 53 11 && z 94 2 && z 108 4 && z 115 2 && z 121 7 then
           some (.prjadj (mxAdj r)) else none
  | 9 => if hdrOk && z 16 112 then some (.semsig (mxHdr r)) else none
  | 10 => if hdrOk && z 25 7 && z 58 6 && z 85 11 && z 116 12 then some (.abank (mxMma r)) else none
  | _ => none

/-! ### The encoder -/

/-- Format A (R68). -/
def encA (h : BitVec 1) (maj : BitVec 6) (d a b : BitVec 6) (fn : BitVec 7) : W32 :=
  h ++ maj ++ d ++ a ++ b ++ fn
/-- Format I (R68). -/
def encI (h : BitVec 1) (maj : BitVec 6) (d a : BitVec 6) (imm : BitVec 13) : W32 := h ++ maj ++ d ++ a ++ imm
/-- Format P (R68). -/
def encP (maj : BitVec 6) (d a b : BitVec 6) (fmt : BitVec 4) (tk : BitVec 3) : W32 :=
  (1 : BitVec 1) ++ maj ++ d ++ a ++ b ++ fmt ++ tk
/-- Format PI (R68). -/
def encPI (maj : BitVec 6) (d a : BitVec 6) (imm : BitVec 10) (tk : BitVec 3) : W32 :=
  (1 : BitVec 1) ++ maj ++ d ++ a ++ imm ++ tk
/-- Format I with the wide immediate of `LI`, `LUI`, `CALL` and `LIL` (R73). -/
def encWide (maj : BitVec 6) (d : BitVec 6) (imm : BitVec 19) : W32 := (0 : BitVec 1) ++ maj ++ d ++ imm
/-- Format L (R68). -/
def encL (maj : BitVec 6) (lc : BitVec 2) (count : BitVec 10) (body : BitVec 12) : W32 :=
  (0 : BitVec 1) ++ maj ++ lc ++ (0 : BitVec 1) ++ count ++ body
/-- The wide `d` of a four-bit register (R69). -/
def up4 (k : BitVec 4) : BitVec 6 := (0 : BitVec 2) ++ k
/-- The wide field of an `h` register (R69). -/
def up5 (h : BitVec 5) : BitVec 6 := (0 : BitVec 1) ++ h
/-- W2 of `LD.AQ` and `ST.RL` (R78). -/
def encOrdered (sz sc : BitVec 3) (ps : BitVec 6) (hf : Bool) (h : HReg) : W32 :=
  (0 : BitVec 14) ++ h ++ bit1 hf ++ ps ++ sc ++ sz
/-- W2 of `RCALL` (R360). -/
def encCallW2 (w : CallW2) : W32 := (0 : BitVec 2) ++ bit1 w.nr ++ w.rn ++ w.rb ++ w.pn ++ w.pb ++ w.entry
/-- W2 of `TLD` and `TLDT` (R312). -/
def encTldW2 (w : TldW2) : W32 := (0 : BitVec 4) ++ w.ovf ++ w.rm ++ bit1 w.q ++ w.kreg ++ w.thm ++ w.twm
/-- W2 of the extended vector form (R82). -/
def encVW2 (w : VW2) : W32 := (0 : BitVec 16) ++ bit1 w.daz ++ w.ovf ++ w.rm ++ w.pred ++ w.op
/-- A word of the shared register arithmetic group (R74). -/
def encArith (fn : BitVec 7) (d a b : GReg) : List W32 := [encA 0 1 d a b fn]
/-- An `AMO` word (R321). -/
def encAmo (maj : BitVec 6) (loc : Bool) (h : HReg) (ty : BitVec 2) (a b : GReg) (tk : Tk) : List W32 :=
  [encP maj (bit1 loc ++ h) a b ((0 : BitVec 2) ++ ty) tk]

/-- The words of an instruction, in memory order; none for matrix commands and events, which have no words. -/
def encode : Instr → List W32
  | .add d a b => encArith 0 d a b
  | .sub d a b => encArith 1 d a b
  | .mul d a b => encArith 2 d a b
  | .mulh d a b => encArith 3 d a b
  | .mulhu d a b => encArith 4 d a b
  | .madd d a b => encArith 5 d a b
  | .div d a b => encArith 6 d a b
  | .divu d a b => encArith 7 d a b
  | .rem d a b => encArith 8 d a b
  | .remu d a b => encArith 9 d a b
  | .and d a b => encArith 10 d a b
  | .or d a b => encArith 11 d a b
  | .xor d a b => encArith 12 d a b
  | .shl d a b => encArith 13 d a b
  | .shr d a b => encArith 14 d a b
  | .sha d a b => encArith 15 d a b
  | .min d a b => encArith 16 d a b
  | .max d a b => encArith 17 d a b
  | .minu d a b => encArith 18 d a b
  | .maxu d a b => encArith 19 d a b
  | .clz d a => encArith 20 d a 0
  | .popc d a => encArith 21 d a 0
  | .cmp cc d a b => [encA 0 2 d a b ((0 : BitVec 3) ++ cc)]
  | .sel d a b c => [encA 0 3 d a b ((0 : BitVec 1) ++ c)]
  | .addi d a imm => [encI 0 4 d a imm]
  | .andi d a imm => [encI 0 5 d a imm]
  | .ori d a imm => [encI 0 6 d a imm]
  | .xori d a imm => [encI 0 7 d a imm]
  | .shli d a n => [encI 0 8 d a ((0 : BitVec 7) ++ n)]
  | .shri d a n => [encI 0 9 d a ((0 : BitVec 7) ++ n)]
  | .shai d a n => [encI 0 10 d a ((0 : BitVec 7) ++ n)]
  | .bfx d a p l => [encI 0 11 d a ((0 : BitVec 1) ++ l ++ p)]
  | .bfxS d a p l => [encI 0 11 d a ((1 : BitVec 1) ++ l ++ p)]
  | .bfi d a p l => [encI 0 12 d a ((0 : BitVec 1) ++ l ++ p)]
  | .li d imm => [encWide 13 d imm]
  | .lui d imm => [encWide 14 d imm]
  | .bcz cc a off => [(0 : BitVec 1) ++ (15 : BitVec 6) ++ cc ++ a ++ off]
  | .bc cc a b off => [(0 : BitVec 1) ++ (16 : BitVec 6) ++ cc ++ a ++ b ++ off]
  | .jmp l a => [encA 0 17 l a 0 0]
  | .call l off => [encWide 18 l off]
  | .loop lc c body => [encL 19 lc ((0 : BitVec 4) ++ c) body]
  | .loopi lc n body => [encL 20 lc n body]
  | .loopr lc c body => [encL 21 lc ((0 : BitVec 4) ++ c) body]
  | .leave lc => [encL 22 lc 0 0]
  | .ld d a imm sz => [encI 0 23 d a (imm ++ sz)]
  | .st d a imm sz => [encI 0 24 d a (imm ++ sz)]
  | .ldHandle d a h imm sz => [encI 0 25 d a (h ++ imm ++ sz)]
  | .stHandle d a h imm sz => [encI 0 26 d a (h ++ imm ++ sz)]
  | .spl d sz off => [(0 : BitVec 1) ++ (27 : BitVec 6) ++ d ++ sz ++ (0 : BitVec 4) ++ off]
  | .sps d sz off => [(0 : BitVec 1) ++ (28 : BitVec 6) ++ d ++ sz ++ (0 : BitVec 4) ++ off]
  | .kmovKFromG d a => [encA 0 29 (up4 d) a 0 0]
  | .kmovGFromK d a => [encA 0 29 d (up4 a) 0 1]
  | .kmovKFromK d a => [encA 0 29 (up4 d) (up4 a) 0 2]
  | .kaddi d a imm => [encI 0 30 (up4 d) (up4 a) imm]
  | .twait m => [encI 0 31 0 0 ((0 : BitVec 10) ++ m)]
  | .tsig m => [encI 0 32 0 0 ((0 : BitVec 10) ++ m)]
  | .fence s => [encI 0 33 0 0 ((0 : BitVec 10) ++ s)]
  | .xfence s p => [encI 0 34 0 0 ((0 : BitVec 4) ++ p ++ s)]
  | .waitc a => [encA 0 35 0 a 0 0]
  | .csrr d n => [encI 0 36 d 0 ((0 : BitVec 1) ++ n)]
  | .csrw n a => [encI 0 37 0 a ((0 : BitVec 1) ++ n)]
  | .trap n => [encI 0 38 0 0 n]
  | .nop => [encA 0 39 0 0 0 0]
  | .rdv => [encA 0 39 0 0 0 1]
  | .tret => [encA 0 39 0 0 0 2]
  | .lil d imm => [encWide 56 d (fld imm 32 19), fld imm 0 32]
  | .ldAq d a imm sz sc ps hf h => [encI 0 57 d a imm, encOrdered sz sc ps hf h]
  | .stRl d a imm sz sc ps hf h => [encI 0 58 d a imm, encOrdered sz sc ps hf h]
  | .region m => [encWide 59 0 0, m ++ (0 : BitVec 1)]
  | .mqpush a tk => [encP 1 0 a 0 0 tk]
  | .mqdrop d tk => [encP 2 d 0 0 0 tk]
  | .mqdepth d tk => [encP 3 d 0 0 0 tk]
  | .mqdepthClr d tk => [encP 3 d 0 0 1 tk]
  | .semw i n tk => [encPI 4 0 0 (n ++ i) tk]
  | .sems i n tk => [encPI 5 0 0 (n ++ i) tk]
  | .bsel k d a b tk => [encP 6 d a b ((0 : BitVec 2) ++ k) tk]
  | .launch d a tk => [encP 7 d a 0 0 tk]
  | .ftw n a e tk => [encPI 8 (up4 e) a ((0 : BitVec 4) ++ n) tk]
  | .kitld d a b f tk => [encP 9 d a b f tk]
  | .rwait a tk => [encP 10 0 a 0 0 tk]
  | .rpoll d a tk => [encP 11 d a 0 0 tk]
  | .yield d tk => [encPI 12 d 0 0 tk]
  | .gsfset d a tk => [encP 13 d a 0 0 tk]
  | .gsfsetOr d a tk => [encP 13 d a 0 1 tk]
  | .rcall d a h tk w => [encP 56 d a (up5 h) 0 tk, encCallW2 w]
  | .qld f d a b tk => [encP 1 d a b f tk]
  | .scq a b tk => [encP 2 0 a b 0 tk]
  | .gld s d h a tk => [encP 3 d a (up5 h) ((0 : BitVec 1) ++ s) tk]
  | .gst s d h a tk => [encP 4 d a (up5 h) ((0 : BitVec 1) ++ s) tk]
  | .amoAdd l h ty a b tk => encAmo 5 l h ty a b tk
  | .amoMin l h ty a b tk => encAmo 6 l h ty a b tk
  | .amoMax l h ty a b tk => encAmo 7 l h ty a b tk
  | .amoAnd l h ty a b tk => encAmo 8 l h ty a b tk
  | .amoOr l h ty a b tk => encAmo 9 l h ty a b tk
  | .amoXor l h ty a b tk => encAmo 10 l h ty a b tk
  | .amoSwap l h ty a b tk => encAmo 11 l h ty a b tk
  | .amoCas l h ty a b tk => encAmo 12 l h ty a b tk
  | .xlt n h a b tk => [encP 13 (up5 h) a b ((0 : BitVec 1) ++ n) tk]
  | .xltw n h a b tk => [encP 14 (up5 h) a b ((0 : BitVec 1) ++ n) tk]
  | .hinvAll tk => [encP 15 0 0 0 0 tk]
  | .hinvRid a tk => [encP 15 0 a 0 1 tk]
  | .hinvRange a b tk => [encP 15 0 a b 2 tk]
  | .hinvRangeRem a b tk => [encP 15 0 a b 3 tk]
  | .hchk d h tk => [encP 16 d (up5 h) 0 0 tk]
  | .hchkAddr d h tk => [encP 16 d (up5 h) 0 1 tk]
  | .hmov e d a tk => [encP 17 (up5 d) (up5 a) 0 ((0 : BitVec 2) ++ e) tk]
  | .kget k a tk => [encP 18 (up4 k) a 0 0 tk]
  | .wrel a k tk => [encP 19 0 a (up4 k) 0 tk]
  | .tupd h a b tk => [encP 20 (up5 h) a b 0 tk]
  | .tskip a tk => [encP 21 0 a 0 0 tk]
  | .nred f d a b tk => [encP 22 d a b f tk]
  | .nadd f h a b tk => [encP 23 (up5 h) a b f tk]
  | .namoAdd ty h a b tk => [encP 24 (up5 h) a b ((0 : BitVec 2) ++ ty) tk]
  | .namoMax ty h a b tk => [encP 24 (up5 h) a b ((1 : BitVec 2) ++ ty) tk]
  | .namoSwap ty h a b tk => [encP 24 (up5 h) a b ((2 : BitVec 2) ++ ty) tk]
  | .namoCas ty h a b tk => [encP 24 (up5 h) a b ((3 : BitVec 2) ++ ty) tk]
  | .nfence tk => [encPI 25 0 0 0 tk]
  | .nfencePoll d tk => [encPI 25 d 0 1 tk]
  | .nseq a tk => [encP 26 0 a 0 0 tk]
  | .rwaitAe a tk => [encP 27 0 a 0 0 tk]
  | .tkq d a tk => [encP 28 d a 0 0 tk]
  | .tkqCnt d tk => [encP 28 d 0 0 1 tk]
  | .pft h a b tk => [encP 29 (up5 h) a b 0 tk]
  | .tld d a b f tk w => [encP 56 d a b f tk, encTldW2 w]
  | .tldt d a b f tk w => [encP 57 d a b f tk, encTldW2 w]
  | .tst d a b f tk tw th rm ovf =>
      [encP 58 d a b f tk, (0 : BitVec 4) ++ ovf ++ rm ++ (0 : BitVec 5) ++ th ++ tw]
  | .rcallAe d a h tk w => [encP 59 d a (up5 h) 0 tk, encCallW2 w]
  | .vadd d a b f tk => [encP 1 d a b f tk]
  | .vsub d a b f tk => [encP 2 d a b f tk]
  | .vmul d a b f tk => [encP 3 d a b f tk]
  | .vfma d a b f tk => [encP 4 d a b f tk]
  | .vfms d a b f tk => [encP 5 d a b f tk]
  | .vmin d a b f tk => [encP 6 d a b f tk]
  | .vmax d a b f tk => [encP 7 d a b f tk]
  | .vand d a b f tk => [encP 8 d a b f tk]
  | .vor d a b f tk => [encP 9 d a b f tk]
  | .vxor d a b f tk => [encP 10 d a b f tk]
  | .vshl d a b f tk => [encP 11 d a b f tk]
  | .vshr d a b f tk => [encP 12 d a b f tk]
  | .vsha d a b f tk => [encP 13 d a b f tk]
  | .vabs d a f tk => [encP 14 d a 0 f tk]
  | .vneg d a f tk => [encP 14 d a 1 f tk]
  | .vwadd d a b f tk => [encP 15 d a b f tk]
  | .vwmul d a b f tk => [encP 16 d a b f tk]
  | .vwfma d a b f tk => [encP 17 d a b f tk]
  | .vnrw d a s f tk => [encP 18 d a (up4 s) f tk]
  | .vcvt d a s f tk => [encP 19 d a (up4 s) f tk]
  | .vqnt d a y f tk => [encP 20 d a ((0 : BitVec 4) ++ y) f tk]
  | .vdqt d a f tk => [encP 21 d a 0 f tk]
  | .vcmp c p a b f tk => [encP 22 (c ++ p) a b f tk]
  | .vsel d a b f tk => [encP 23 d a b f tk]
  | .pand d a b tk => [encP 24 (up4 d) (up4 a) (up4 b) 0 tk]
  | .por d a b tk => [encP 24 (up4 d) (up4 a) (up4 b) 1 tk]
  | .pxor d a b tk => [encP 24 (up4 d) (up4 a) (up4 b) 2 tk]
  | .pnot d a tk => [encP 24 (up4 d) (up4 a) 0 3 tk]
  | .pcnt d a s tk => [encP 25 d (up4 a) ((0 : BitVec 4) ++ s) 0 tk]
  | .pfirst d a s tk => [encP 25 d (up4 a) ((0 : BitVec 4) ++ s) 1 tk]
  | .pstage p a s m tk => [encPI 26 (up4 p) a ((0 : BitVec 5) ++ s ++ m) tk]
  | .vperm d a b f tk => [encP 27 d a b f tk]
  | .vshuf d a b tk => [encP 28 d a b 5 tk]
  | .vbcast d a f tk => [encP 29 d a 0 f tk]
  | .vextr d a b f tk => [encP 30 d a b f tk]
  | .vins d a b f tk => [encP 31 d a b f tk]
  | .vslide d a b f tk => [encP 32 d a b f tk]
  | .vzip d a b f tk => [encP 33 d a b f tk]
  | .vuzp d a f tk => [encP 34 d a 0 f tk]
  | .vrsum d a f tk => [encP 35 d a 0 f tk]
  | .vrmax d a f tk => [encP 35 d a 1 f tk]
  | .vrmin d a f tk => [encP 35 d a 2 f tk]
  | .vscan d a f tk => [encP 36 d a 0 f tk]
  | .vsegr d a p f tk => [encP 37 d a (up4 p) f tk]
  | .vsort d a f tk => [encP 38 d a 0 f tk]
  | .vsortDesc d a f tk => [encP 38 d a 1 f tk]
  | .vuniq p a f tk => [encP 39 (up4 p) a 0 f tk]
  | .vexp2 d a tk => [encP 40 d a 0 0 tk]
  | .vlog2 d a tk => [encP 40 d a 1 0 tk]
  | .vrcp d a tk => [encP 40 d a 2 0 tk]
  | .vrsq d a tk => [encP 40 d a 3 0 tk]
  | .vexp d a tk => [encP 40 d a 4 0 tk]
  | .vtanh d a tk => [encP 40 d a 5 0 tk]
  | .vsig d a tk => [encP 40 d a 6 0 tk]
  | .vgelu d a tk => [encP 40 d a 7 0 tk]
  | .vhash d f tk => [encP 41 d 0 0 f tk]
  | .vdrop d a b f tk => [encP 42 d a b f tk]
  | .vld d a hf h f tk => [encP 43 d a (bit1 hf ++ h) f tk]
  | .vst d a hf h f tk => [encP 44 d a (bit1 hf ++ h) f tk]
  | .vlds d a b f tk => [encP 45 d a b f tk]
  | .vsts d a b f tk => [encP 46 d a b f tk]
  | .vgth d a b f tk => [encP 47 d a b f tk]
  | .vsct d a b f tk => [encP 48 d a b f tk]
  | .accrd d a tk => [encP 49 d a 0 0 tk]
  | .accwr d a tk => [encP 50 d a 0 0 tk]
  | .vrotb a tk => [encP 51 0 a 0 0 tk]
  | .vdefer k a p f tk => [encP 52 ((0 : BitVec 4) ++ k) a (up4 p) f tk]
  | .vdrain d a f tk => [encP 53 d a 0 f tk]
  | .vdqn d a tk => [encP 54 d a 0 0 tk]
  | .extendedVectorForm o w => [encP 56 o.d o.a o.b o.fmt o.tk, encVW2 w]
  | .xcopy d a b tk => [encP 1 d a b 0 tk]
  | .xmcast m d a b tk => [encP 2 d a b m tk]
  | .xrot d a b tk => [encP 3 d a b 0 tk]
  | .xfill d a b tk => [encP 4 d a b 0 tk]
  | .binit a b tk => [encP 5 0 a b 0 tk]
  | .binitClr a b tk => [encP 5 0 a b 1 tk]
  | .bwait a b tk => [encP 6 0 a b 0 tk]
  | .bqry d a tk => [encP 7 d a 0 0 tk]
  | .barr tk => [encP 8 0 0 0 0 tk]
  | .fsend a b tk => [encP 9 0 a b 0 tk]
  | .frecv a tk => [encP 10 0 a 0 0 tk]
  | .fwiden a tk => [encP 11 0 a 0 0 tk]
  | .xltx n h a b tk => [encP 12 (up5 h) a b ((0 : BitVec 1) ++ n) tk]
  | .xstat d b tk => [encP 13 d 0 b 0 tk]
  | .xstatWait d a b tk => [encP 13 d a b 1 tk]
  | .xcancel d b tk => [encP 14 d 0 b 0 tk]
  | .xcopy2d d a b tk rows => [encP 56 d a b 0 tk, (0 : BitVec 20) ++ rows]
  | .freq d a tk dur => [encP 57 d a 0 0 tk, (0 : BitVec 8) ++ dur]
  | .old d a sz => [encP 1 d a 0 ((0 : BitVec 1) ++ sz) 0]
  | .ost d a sz => [encP 2 d a 0 ((0 : BitVec 1) ++ sz) 0]
  | .oamoAdd ty a b => [encP 3 0 a b ((0 : BitVec 2) ++ ty) 0]
  | .oamoMax ty a b => [encP 3 0 a b ((1 : BitVec 2) ++ ty) 0]
  | .oamoSwap ty a b => [encP 3 0 a b ((2 : BitVec 2) ++ ty) 0]
  | .oamoCas ty a b => [encP 3 0 a b ((3 : BitVec 2) ++ ty) 0]
  | .ovadd d a b => [encP 4 (up4 d) (up4 a) (up4 b) 0 0]
  | .ovmul d a b => [encP 5 (up4 d) (up4 a) (up4 b) 0 0]
  | .ovfma d a b => [encP 6 (up4 d) (up4 a) (up4 b) 0 0]
  | .ovmax d a b => [encP 7 (up4 d) (up4 a) (up4 b) 0 0]
  | .ovld d a => [encP 8 (up4 d) a 0 0 0]
  | .ovst d a => [encP 9 (up4 d) a 0 0 0]
  | .oreply n a => [encP 10 0 a 0 ((0 : BitVec 1) ++ n) 0]
  | _ => []

/-- The header with its KIND (R200). -/
def encHdr (kind : BitVec 4) (h : MxHdr) : BitVec 14 := h.ssi ++ bit1 h.sse ++ h.swi ++ bit1 h.swe ++ kind
/-- The tile fields (R200). -/
def encTile (t : MxTile) : BitVec 21 := t.ncols ++ t.col0 ++ t.mrows ++ t.row0
/-- An `MMA`, `MMAZ` or `ABANK` record (R203). -/
def encMma (kind : BitVec 4) (r : MmaRec) : BitVec 128 :=
  ((0 : BitVec 12) ++ r.astride) ++ ((0 : BitVec 11) ++ r.aaddr) ++
  ((0 : BitVec 6) ++ r.seq ++ r.col0 ++ r.mrows ++ r.row0) ++
  ((0 : BitVec 7) ++ bit1 r.oq ++ r.scl ++ r.aw ++ r.af ++ (0 : BitVec 2) ++ encHdr kind r.hdr)
/-- A `DRAIN` record, or the drain part of a `PRJ` record with its projection fields (R213, R226). -/
def encDrain (kind : BitVec 4) (proj : BitVec 16) (r : DrainRec) : BitVec 128 :=
  (proj ++ (0 : BitVec 4) ++ r.dstr) ++ ((0 : BitVec 2) ++ r.pb ++ r.dst) ++
  ((0 : BitVec 4) ++ bit1 r.dropout ++ bit1 r.rs ++ bit1 r.bi ++ bit1 r.sc ++ r.act ++ encTile r.tile) ++
  ((0 : BitVec 6) ++ bit1 r.clr ++ r.ovf ++ r.rm ++ r.outf ++ (0 : BitVec 2) ++ encHdr kind r.hdr)

/-- The 128-bit record of a matrix command (R200); none for every other instruction. -/
def encodeMx : Instr → Option (BitVec 128)
  | .mnop => some 0
  | .mma r => some (encMma 1 r)
  | .mmaz r => some (encMma 2 r)
  | .abank r => some (encMma 10 r)
  | .bload r => some (r.saddr ++ r.baddr ++ ((0 : BitVec 1) ++ r.rh ++ r.cstr ++ r.nb ++ r.kb) ++
      ((0 : BitVec 1) ++ r.hreg ++ r.place ++ bit1 r.src ++ bit1 r.slot ++ r.bw ++ r.bf ++ (0 : BitVec 2) ++
        encHdr 3 r.hdr))
  | .bslot r => some ((0 : BitVec 96) ++
      ((0 : BitVec 14) ++ bit1 r.rel ++ bit1 r.slot ++ (0 : BitVec 2) ++ encHdr 4 r.hdr))
  | .accz r => some ((0 : BitVec 64) ++ ((0 : BitVec 11) ++ encTile r.tile) ++ ((0 : BitVec 18) ++ encHdr 5 r.hdr))
  | .drain r => some (encDrain 6 0 r)
  | .prj r => some (encDrain 7 ((0 : BitVec 6) ++ bit1 r.recs ++ r.span ++ r.rsrc ++ r.set) r.drain)
  | .prjadj r => some (((0 : BitVec 7) ++ r.span ++ (0 : BitVec 2) ++ r.set ++ (0 : BitVec 4) ++ r.dstr) ++
      ((0 : BitVec 2) ++ r.pb ++ r.dst) ++ ((0 : BitVec 11) ++ encTile r.tile) ++
      ((0 : BitVec 6) ++ bit1 r.clr ++ r.ovf ++ r.rm ++ r.outf ++ (0 : BitVec 2) ++ encHdr 8 r.hdr))
  | .semsig h => some ((0 : BitVec 114) ++ encHdr 9 h)
  | _ => none

end Sys2Proof
end

