-- ==== Sys2Proof/Machine/Sched.lean ====
section
/-! DEFINITION.  What the scheduler looks at: walk records (R253), the pending pool and the spill queue (R256), which
gangs are placeable, eligible or wait for cores (R257), and requests of pre-emption (R416). -/

namespace Sys2Proof.Machine

/-! ### Walk records (R253) -/

/-- The walk record in 64 bytes; none for WALK_BAD. -/
def parseWalk (b : List Byte) : Option WalkRec :=
  let ndim := recNat b 16 1
  let order := recNat b 20 4
  let levels := (List.range 6).map fun i => order / 2 ^ (3 * i) % 8
  let w : WalkRec :=
    { kit := BitVec.ofNat 64 (recNat b 0 8)
      arg := BitVec.ofNat 64 (recNat b 8 8)
      ndim := ndim
      gang := recNat b 17 1
      prio := recNat b 18 1
      ecls := recNat b 19 1
      order := levels
      ext := (List.range 6).map fun d => recNat b (24 + 4 * d) 4
      str := (List.range 6).map fun d => recNat b (48 + 2 * d) 2 }
  if 1 ≤ ndim && ndim ≤ 6 && 1 ≤ w.gang && w.gang ≤ 4 && w.prio < 16 && w.ecls < 8 && order < 2 ^ 18 &&
      recZero b 60 4 &&
      ((List.range 6).all fun d =>
        if d < ndim then 1 ≤ w.ext.getD d 0 && 1 ≤ w.str.getD d 0 && (levels.take ndim).contains d
        else w.ext.getD d 0 = 0 && w.str.getD d 0 = 0 && levels.getD d 0 = 0) then
    some w
  else none

/-! ### The health word (R461) -/

/-- The number of fenced cores. -/
def Health.count (h : Health) : Nat := (h.fenced.filter fun e => e.2).length
/-- Word 0. -/
def Health.word0 (h : Health) : Word :=
  zext h.ver ||| (boolWord h.rr <<< 32) ||| (boolWord h.hold <<< 33) ||| (boolWord h.tbl <<< 34) |||
    (zext h.trip <<< 35) ||| (BitVec.ofNat 64 h.count <<< 48)
/-- A word of the fenced-core mask. -/
def Health.mask (h : Health) (w : Nat) : Word :=
  (List.range 64).foldl (fun x i => if tget false h.fenced (64 * w + i) then x ||| (1 <<< i) else x) 0
/-- The eight words. -/
def Health.words (h : Health) : List Word := h.word0 :: ((List.range 6).map h.mask ++ [zext h.op])

namespace State

/-! ### The pending pool and the spill queue (R256) -/

/-- The free entries of the pending pool. -/
def poolFree (s : State) : Nat := 4096 - (s.cands.filter fun c => c.place = .pool).length
/-- Whether a gang is resident, by its candidate and its SEQ: from its start until it ends or is pre-empted. -/
def resident (s : State) (gang : Nat × Nat) : Bool := s.gangs.any fun g => g.cand = gang.1 && g.seq = gang.2
/-- The gang of a job, by its candidate and its SEQ. -/
def gangOf (s : State) (j : Job) : Nat × Nat :=
  match s.gang j.gang with
  | some g => (g.cand, g.seq)
  | none => (0, 0)

/-- The place of a ready node among those that have become ready: the number at which it did, and its graph. -/
def readyNo (s : State) (x : Nat × Nat) : Nat × Nat :=
  match s.graph x.1 with
  | some g => (tget 0 g.readyNo x.2, x.1)
  | none => (0, x.1)
/-- Whether no other ready walk node, of those that wait for a pool entry, became ready before a node (R256). -/
def firstReady (s : State) (x : Nat × Nat) : Bool :=
  let r := s.readyNo x
  s.graphs.all fun g => g.nodes.zipIdx.all fun (y, n) =>
    !(y.ty = 0 && g.abandoned.isNone && g.ready n) ||
      (let q := s.readyNo (g.id, n)
       !(q.1 < r.1 || (q.1 = r.1 && (g.id < x.1 || (g.id = x.1 && n < x.2)))))

/-- A record becomes a candidate of a context and queue, or waits where it is placed. -/
def addCand (s : State) (c : CtxId) (q : BitVec 4) (w : WalkRec) (place : Place) (parent : Option (Nat × Nat))
    (node : Option (Nat × Nat)) : State :=
  { s with
    nextId := s.nextId + 1
    cands := s.cands ++
      [{ id := s.nextId, ctx := c, sq := q, walk := w, place := place, parent := parent, node := node
         entry := s.nextId, eff := w.prio, ready := s.cyc, since := s.cyc }] }

/-- The record of a launched child is appended to its context's spill queue; none where the queue cannot take it,
with the state that holds the error-log entry. -/
def spill (s : State) (c : CtxId) (q : BitVec 4) (w : WalkRec) (bytes : List Byte) (parent : Nat × Nat) :
    Bool × State :=
  let x := s.ctx c
  let slot := x.spqbase + BitVec.ofNat 64 (64 * (x.spqtail % 2 ^ x.spqlog2n.toNat))
  let held := (s.cands.filter fun y => y.place = .spilled && y.ctx = c).length
  if x.spqbase = 0 then (false, s.depositKind 3 2 slot)
  else if 2 ^ x.spqlog2n.toNat ≤ held then (false, s)
  else
    match s.ctxStore c slot bytes with
    | none => (false, s.depositKind 3 2 slot)
    | some t => (true, (t.modCtx c fun y => { y with spqtail := y.spqtail + 1 }).addCand c q w .spilled (some parent) none)

/-- The four steps of R256 for a `LAUNCH` of a gang's job: 0 the pool, 1 the reserve, 2 the spill queue, or none for
LAUNCH_FULL. -/
def placeLaunch (s : State) (j : Job) (w : WalkRec) (bytes : List Byte) : Option Nat × State :=
  let g := s.gangOf j
  if 256 < s.poolFree then (some 0, s.addCand j.ctx j.sq w .pool (some g) none)
  else if 0 < s.poolFree && s.resident g then (some 1, s.addCand j.ctx j.sq w .pool (some g) none)
  else
    let r := s.spill j.ctx j.sq w bytes g
    (if r.1 then some 2 else none, r.2)

/-! ### Placeability (R257, R412, R422) -/

/-- A whole health word as the snapshot of R38. -/
def healthSnapshot (s : State) : Tab Word := s.mgmt.health.words.zipIdx.map fun (w, i) => (i, w)
/-- Whether a core is fenced in the published health word. -/
def fenced (s : State) (c : Nat) : Bool := tget false s.mgmt.health.fenced c
/-- Whether two kit partitions are disjoint (R422). -/
def partsDisjoint (a b : Nat) : Bool := (a = 1 && b = 2) || (a = 2 && b = 1)
/-- A free core: both banks EMPTY; or, for a gang of one job of a disjoint partition, a half-free one.  The cores of a gang with
a failed job are free once its last job is over (entry 90). -/
def coreFree (s : State) (gang part c : Nat) : Bool :=
  let k := s.core c
  let a := k.a.st
  let b := k.b.st
  k.a.startedCmd.isNone && k.b.startedCmd.isNone && (s.gangs.all fun g => !(g.failing && g.cores.contains c)) &&
  ((a = .empty && b = .empty) ||
    (gang = 1 && ((a = .wait && b = .empty && partsDisjoint k.a.job.part part) ||
      (b = .wait && a = .empty && partsDisjoint k.b.job.part part))))
/-- The cores of a cluster that are not fenced. -/
def usableCores (s : State) (cluster : Nat) : List Nat :=
  ((List.range 4).map fun i => 4 * cluster + i).filter fun c => !s.fenced c
/-- Those of them that are free for a gang. -/
def freeCores (s : State) (gang part cluster : Nat) : List Nat :=
  (s.usableCores cluster).filter fun c => s.coreFree gang part c
/-- A cluster that takes placements at all: its die is under no thermal trip. -/
def clusterOpen (s : State) (cluster : Nat) : Bool := !s.tripped (dieOf (4 * cluster))

/-- The partition of a candidate's kit; `all` where the kit cannot be read. -/
def candPart (s : State) (c : Cand) : Nat :=
  match c.kit with
  | some k => k.part
  | none =>
    match s.kitHeader c.ctx c.walk.kit with
    | some h => recNat h 6 1
    | none => 0
/-- The sequence number that a walk offers: a pre-empted gang first (R254). -/
def candSeq (c : Cand) : Option Nat :=
  match c.again with
  | q :: _ => some q
  | [] => if c.next < c.walk.total then some c.next else none
/-- The record is a candidate now. -/
def isCand (c : Cand) : Bool := c.place = .pool && !c.closed && (candSeq c).isSome
/-- The checkpoint slots that a candidate's gang still needs can be taken (R412). -/
def slotsLeft (s : State) (c : Cand) : Bool :=
  match candSeq c with
  | none => false
  | some q =>
    let held := (s.slots.filter fun x => x.cand = c.id && x.seq = q).length
    let used := (s.slots.filter fun x => x.ctx = c.ctx && !x.ended).length
    c.walk.gang - held + used ≤ (s.ctx c.ctx).ckcnt.toNat
/-- No reset of the context and no hold stands against the candidate (R257, R428, R458). -/
def notHeld (s : State) (c : Cand) : Bool := (s.ctx c.ctx).reset.isNone && !s.mgmt.hold && s.mgmt.ready
/-- The clusters on which a candidate's gang is placeable. -/
def placeOn (s : State) (c : Cand) : List Nat :=
  if s.notHeld c && s.slotsLeft c then
    (List.range 96).filter fun n =>
      s.clusterOpen n && c.walk.gang ≤ (s.freeCores c.walk.gang (s.candPart c) n).length
  else []
/-- Placeable. -/
def placeable (s : State) (c : Cand) : Bool := isCand c && !(s.placeOn c).isEmpty
/-- The energy condition (R257, R259). -/
def energyOk (s : State) (c : Cand) : Bool :=
  c.walk.ecls = 0 || decide (((tget (BitVec.ofNat 32 (100000 * c.walk.ecls)) s.mgmt.ebcls c.walk.ecls).toNat : Int) ≤
    s.mgmt.ebbal)
/-- Eligible. -/
def eligible (s : State) (c : Cand) : Bool := s.placeable c && s.energyOk c
/-- It waits for cores: only free cores are missing (R257). -/
def waitsForCores (s : State) (c : Cand) : Bool :=
  isCand c && s.energyOk c && (s.placeOn c).isEmpty && s.notHeld c && s.slotsLeft c &&
    (List.range 96).any fun n => s.clusterOpen n && c.walk.gang ≤ (s.usableCores n).length

/-- `n` ticks pass; a candidate that waits for cores has waited for them longer (R260), and old writes are visible
(R400). -/
def pass (s : State) (n : Nat) : State :=
  State.ageWrites { s.tick n with
    cands := s.cands.map fun c => if s.waitsForCores c then { c with waited := c.waited + n } else c }

/-! ### Requests of pre-emption (R416, R419) -/

/-- A pre-emption of a gang is requested; two requests are one, and a failure absorbs it. -/
def requestPreempt (s : State) (gang : Nat) : State :=
  s.modGang gang fun g => if g.failing then g else { g with preempt := some (g.preempt.getD s.cyc) }
/-- Whether a pre-emption of the gang of a core's job is pending (R416). -/
def preemptPending (s : State) (c : Nat) : Bool :=
  match s.gang (s.bank c).job.gang with
  | some g => g.preempt.isSome
  | none => false

end State

end Sys2Proof.Machine
end

