-- ==== Sys2Proof/Machine/Ops.lean ====
section
/-! DEFINITION.  The shared operations of every instruction: taking an exception (R39, R359) and returning from one,
imprecise reports (R310), the page-fault bank switch (R423), the advance of the program counter with the loops'
end checks (R113), transfers (R110), waits, and token patterns (R148). -/

namespace Sys2Proof.Machine

namespace State

/-! ### Fetching (R30, R31) -/

/-- The size of the instruction memory of the agent that executes (R30, R357). -/
def imemSize (s : State) : Nat :=
  match s.cur with
  | .eng _ .ce => 0x10000
  | .frame _ _ => 0x4000
  | _ => 0x8000
/-- The word at an address of the instruction memory, when it lies inside. -/
def imemWord (s : State) (pc : Word) : Option W32 :=
  if pc.toNat + 4 ≤ s.imemSize then some (BitVec.ofNat 32 (leNat (s.me.imem.readN pc.toNat 4))) else none
/-- Whether a first word has a second: major opcode 56 to 63 (R30). -/
def isLong (w : W32) : Bool := 56 ≤ (fld w 25 6).toNat
/-- The instruction word or words at an address as TRAPREC holds them: low word low, 0 where unreadable (R39,
R110).  DESIGN CHOICE (entry 74): the word at a misaligned target is the four bytes that stand there, with four more
where they look like a long form. -/
def reportedWords (s : State) (pc : Word) : Word :=
  match s.imemWord pc with
  | none => 0
  | some w =>
    if isLong w then
      match s.imemWord (pc + 4) with
      | some w2 => zext w ||| (zext w2 <<< 32)
      | none => zext w
    else zext w

end State

/-! ### TRAPCODE (R40) -/

/-- TRAPCODE of an entry: CODE, H, REC, WD and CLASS. -/
def trapCodeWord (code cls : Nat) (h recov wd : Bool) : Word :=
  BitVec.ofNat 64 (code % 65536) ||| (boolWord h <<< 16) ||| (boolWord recov <<< 17) ||| (boolWord wd <<< 18) |||
    (BitVec.ofNat 64 (cls % 256) <<< 24)
/-- TRAPCODE.WD. -/
def Stream.wd (t : Stream) : Bool := t.trapcode.getLsbD 18
/-- TRAPREC from its eight words. -/
def trapRec (ws : List Word) : Tab Word :=
  (List.range 8).foldl (fun t i => if ws.getD i 0 = 0 then t else tset t i (ws.getD i 0)) []

/-- The pause of an instruction is over: it has completed or it traps. -/
def Stream.settled (t : Stream) : Stream :=
  { t with
    waited := false, waitId := 0, stuck := false, blocked := false, waitsOn := none, held := [], took := {}, undo := none }

/-- The entry steps of R39 as far as they touch the stream, with the words that TRAPREC receives: the registers
are written, and the PC is the handler's when the fault is recoverable, no handler runs, and the kit declares one.
Answers the code, whether the handler is entered, and the stream. -/
def Stream.enter (t : Stream) (code cls : Nat) (recov : Bool) (pc : Word) (ws : List Word) (wd : Bool) : Nat × Bool × Stream :=
  let code' := if t.inTrap then 0x0C else code
  let recov := recov && !t.inTrap
  match t.trapEntry with
  | some e =>
    if recov then
      (code', true,
        { t.settled with
          trappc := pc, trapcode := trapCodeWord code' cls true true wd, traprec := trapRec ws, pc := e })
    else
      (code', false,
        { t.settled with
          trappc := pc, trapcode := trapCodeWord code' cls t.inTrap false t.wd, traprec := trapRec ws, pc := pc })
  | none =>
    (code', false,
      { t.settled with
        trappc := pc, trapcode := trapCodeWord code' cls t.inTrap recov t.wd, traprec := trapRec ws, pc := pc })

namespace State

/-! ### Replies of outpost calls (R359, R363, R441) -/

/-- A reply leaves for its caller: to a tag of this package, or to a peer. -/
def sendReply (s : State) (who : Caller) (st : CallState) : State :=
  match who with
  | .tag core bankB eng tag gen =>
    { s with replies := s.replies ++ [{ core := core, bankB := bankB, eng := eng, tag := tag, gen := gen, st := st }] }
  | .peer p tag =>
    match st with
    | .ready regs => s.toPeer p (.reply p tag ((regs.map fun r => natBytes 8 r.toNat).flatten))
    | .fault code addr pc word => s.toPeer p (.faultReply p tag code addr pc word)
    | _ => s
  | .none => s
/-- A call frame is free again. -/
def endFrame (s : State) (o f : Nat) : State :=
  s.setFrame o f { s.frame o f with busy := false, call := none, st := { (s.frame o f).st with life := .done } }
/-- A fault ends a call with a fault reply; the fault of an untracked call is logged (R359, R361). -/
def frameFault (s : State) (o f : Nat) (code : Nat) (addr pc word : Word) : State :=
  let s' := match (s.frame o f).call with
    | none => s
    | some c =>
      match c.caller with
      | .none => s.depositKind 1 8 addr
      | who => s.sendReply who (.fault code addr pc word)
  s'.endFrame o f

/-! ### Taking an exception -/

/-- What follows the entry steps of a stream: the handler runs, or the job fails with the record (R39, R405). -/
def entered (s : State) (c : Nat) (e : Eng) (me : Bool) (cls : Nat) (recov : Bool) (r : Nat × Bool × Stream) :
    State :=
  let s' := s.setMe r.2.2
  if r.2.1 then s'
  else
    s'.jobFail c (s.core c).runB
      { code := r.1, cls := cls, flags := { recov := recov }
        src := srcField c (if me then 4 else e.num)
        pc := r.2.2.trappc, words := (List.range 5).map fun i => tget 0 r.2.2.traprec i }

/-- A precise trap of the agent that executes, with a reported PC and a faulting address (R39); in an outpost it
ends the call (R359). -/
def trapAt (s : State) (pc : Word) (code : Nat) (addr : Word) : State :=
  match s.cur with
  | .eng c e =>
    let t := s.me
    s.entered c e false 0 (recoverable code && !t.inTrap)
      (t.enter code 0 (recoverable code) pc [pc, addr, s.reportedWords pc] t.waited)
  | .frame o f => s.frameFault o f code addr pc (s.reportedWords pc)
  | .me _ => s
/-- A precise trap at the instruction that executes. -/
def trap (s : State) (code : Nat) (addr : Word) : State := s.trapAt s.me.pc code addr
/-- ILLEGAL_INSTR (R71). -/
def illegal (s : State) : State := s.trap 0x01 0

/-- A trap of another class at the instruction that executes, with all of TRAPREC given: a remote fault reply, or
an imprecise or ticketed report (R310, R363, R410).  WD is 0 (R148), and no fault of the matrix engine is recoverable
(R222, R404). -/
def trapWords (s : State) (code cls : Nat) (ws : List Word) (me : Bool) : State :=
  match s.cur with
  | .eng c e =>
    let t := s.me
    let recov := recoverable code && !me
    s.entered c e me cls (recov && !t.inTrap) (t.enter code cls recov t.pc ws false)
  | .frame o f => s.frameFault o f code 0 s.me.pc 0
  | .me _ => s

end State

/-! ### Guy lines, semaphores and patterns (R145 to R149) -/

/-- The engine that an engine's line index names (R145). -/
def lineOf (e : Eng) (i : Nat) : Eng := (engines.filter fun x => x ≠ e).getD i .ce
/-- The key of the line from a pusher to a popper. -/
def lineKey (pusher popper : Eng) : Nat := 4 * pusher.num + popper.num
/-- The tokens on a line. -/
def Bank.line (b : Bank) (pusher popper : Eng) : Nat := tget 0 b.lines (lineKey pusher popper)
/-- Sets the tokens on a line; the count of R151 begins again. -/
def Bank.setLine (b : Bank) (pusher popper : Eng) (n : Nat) : Bank :=
  { b with lines := tset b.lines (lineKey pusher popper) n, stuckSince := none, stuckFor := 0 }
/-- The lines that a mask names. -/
def maskLines (e : Eng) (m : BitVec 3) : List Eng := ((List.range 3).filter fun i => m.getLsbD i).map (lineOf e)
/-- Every named incoming line holds a token. -/
def Bank.canPop (b : Bank) (e : Eng) (m : BitVec 3) : Bool := (maskLines e m).all fun x => 1 ≤ b.line x e
/-- One token is popped from each; a chain passes to the popper (R369). -/
def Bank.pop (b : Bank) (e : Eng) (m : BitVec 3) : Bank :=
  (maskLines e m).foldl (fun b x =>
    let q := tget [] b.lineClk (lineKey x e)
    { b.setLine x e (b.line x e - 1) with lineClk := tset b.lineClk (lineKey x e) q.tail }.mod e fun t =>
      { t with clk := joinClk t.clk (q.headD []) }) b
/-- Every named outgoing line has room (R145). -/
def Bank.canPush (b : Bank) (e : Eng) (m : BitVec 3) : Bool := (maskLines e m).all fun x => b.line e x < 16
/-- One token is pushed to each, when accesses below `now` have been issued; it carries the pusher's chain (R369). -/
def Bank.push (b : Bank) (e : Eng) (m : BitVec 3) (now : Nat) : Bank :=
  (maskLines e m).foldl (fun b x =>
    { b.setLine e x (b.line e x + 1) with
      lineClk := tset b.lineClk (lineKey e x) (tget [] b.lineClk (lineKey e x) ++ [(b.get e).chain e now]) }) b

/-- What a semaphore holds for an engine's wait, once the waits that come before it in the order ME, CE, AE, VE, XE have
taken what they wait for (R149). -/
def Bank.semFor (b : Bank) (e : Eng) (i : BitVec 4) : Nat :=
  (engines.takeWhile (· ≠ e)).foldl (fun n x =>
    match (b.get x).waitsOn with
    | some (lines, j, k) => if j = i ∧ k ≤ n ∧ b.canPop x lines then n - k else n
    | none => n) (if b.mq.head?.any fun m => m.waitedSem && (mxHdr m.record).swi = i then b.sem i - 1 else b.sem i)
/-- A wait of an engine takes `k` from a semaphore; the chains of its increments pass to the engine (R150, R369). -/
def Bank.semTake (b : Bank) (e : Eng) (i : BitVec 4) (k : Nat) : Bank :=
  let n := b.sem i - k
  { b.setSem i n with semClk := if n = 0 then tdel b.semClk i.toNat else b.semClk }.mod e fun t =>
    { t with clk := joinClk t.clk (tget [] b.semClk i.toNat) }
/-- An increment of a semaphore by `k`, with the chain that it carries. -/
def Bank.semGive (b : Bank) (i : BitVec 4) (k : Nat) (clk : Tab Nat) : Bank :=
  { b.setSem i (b.sem i + k) with semClk := tset b.semClk i.toNat (joinClk (tget [] b.semClk i.toNat) clk) }

/-- The count of R151 pauses while something is not stuck. -/
def Bank.pauseStuck (b : Bank) (now : Nat) : Bank :=
  match b.stuckSince with
  | some n => { b with stuckSince := none, stuckFor := b.stuckFor + (now - n) }
  | none => b

/-- What a wait step takes: the lines of a mask, and a semaphore (R148). -/
def Bank.toTake (b : Bank) (e : Eng) (m : BitVec 3) (sem : Option (BitVec 4)) : Took :=
  { lines := (maskLines e m).map fun x => (lineKey x e, (tget [] b.lineClk (lineKey x e)).headD [])
    sem := sem.map fun i => (i, tget [] b.semClk i.toNat) }
/-- What an instruction's wait step took goes back, since the instruction takes no effect (R148, R310).  DESIGN CHOICE (entry
92): no further than a line or semaphore has room. -/
def Bank.giveBack (b : Bank) (e : Eng) : Bank :=
  let k := (b.get e).took
  let b := k.lines.foldl (fun b x =>
    if tget 0 b.lines x.1 < 16 then
      { b with
        lines := tset b.lines x.1 (tget 0 b.lines x.1 + 1), lineClk := tset b.lineClk x.1 (x.2 :: tget [] b.lineClk x.1)
        stuckSince := none, stuckFor := 0 }
    else b) b
  let b := match k.sem with
    | some (i, clk) => if b.sem i ≤ 254 then b.semGive i 1 clk else b
    | none => b
  b.mod e fun t =>
    { t with
      took := {}
      h := match t.undo with
        | some x => tset t.h x.1.toNat x.2.1
        | none => t.h
      horig := match t.undo with
        | some x => tset t.horig x.1.toNat x.2.2
        | none => t.horig
      xlates := if t.undo.isSome then t.xlates.filter fun x => x.id ≠ t.waitId else t.xlates
      undo := none }

/-! ### Owed faults and their reporting points (R222, R310, R348, R437) -/

/-- The fault that a stream reports first: the one of the request issued first. -/
def firstOwed : List Owed → Option Owed
  | [] => none
  | o :: os =>
    match firstOwed os with
    | some p => if p.seq < o.seq then some p else some o
    | none => some o

namespace State

/-- The report of the first owed fault at the instruction that executes, which takes no effect: what its wait step took goes
back, and a translation that it waits for is abandoned (R310). -/
def report (s : State) (o : Owed) : State :=
  let s := match s.cur with
    | .eng c e => s.modBank c fun b => b.giveBack e
    | _ => s
  (s.modMe fun t => { t with owed := t.owed.filter fun x => x != o }).trapWords o.code o.cls o.words o.me
/-- A fault becomes owed to a stream of a bank. -/
def owe (s : State) (c : Nat) (bankB : Bool) (e : Eng) (o : Owed) : State :=
  s.modCore c fun k => k.set bankB ((k.get bankB).mod e fun t => { t with owed := t.owed ++ [o] })

/-! ### Waiting and completing -/

/-- The count of R151 pauses in the bank of the stream that executes. -/
def pause (s : State) : State :=
  match s.cur with
  | .eng c _ => s.modBank c fun b => b.pauseStuck (s.coreCycles c)
  | _ => s
/-- The instruction waits: it takes no effect and one tick passes; the count of R151 pauses unless it is stuck. -/
def stall (s : State) (stuck : Bool) : State :=
  ((if stuck then s else s.pause).modMe fun t => { t with blocked := true, stuck := stuck }).pass 1

end State

/-! ### Loops (R113, R153) -/

/-- The stage predicates and, in the VE, the rotation base advance (R153).  DESIGN CHOICE (entry 75): a stream other
than the VE has no `VRB`, and its stage count is 0. -/
def Stream.rotate (t : Stream) (ve start : Bool) (c : Nat) : Stream :=
  let ps := if start then (List.range 7).foldl (fun p i => tdel p (9 + i)) t.p
    else (List.range 7).foldl (fun p i => tset p (15 - i) (tget 0 p (14 - i))) t.p
  let stg := (fld t.vrb 8 3).toNat
  { t with
    p := tset ps 8 (if stg < c then BitVec.allOnes 1024 else 0)
    vrb := if ve then setFld t.vrb 0 5 (fld t.vrb 0 5 - 1) else t.vrb }

/-- The end check of the loops that end before an address, most recently started first: the stream, and whether
the back edge is taken (R113). -/
def Stream.endCheck (t : Stream) (ve : Bool) (next : Word) : List Nat → Stream
  | [] => { t with pc := next }
  | n :: ns =>
    let l := t.loop n
    if l.active && decide (l.le + 4 = next) then
      let c := l.count - 1
      if c ≠ 0 then
        let t' := { t.setLoop n { l with count := c } with pc := l.ls }
        if l.rot then t'.rotate ve false c.toNat else t'
      else (t.setLoop n { l with count := 0, active := false }).endCheck ve next ns
    else t.endCheck ve next ns

namespace State

/-- Whether the VE stream executes. -/
def isVe (s : State) : Bool :=
  match s.cur with
  | .eng _ .ve => true
  | _ => false

/-- An instruction of `n` bytes completes without a transfer: PC advances, with the end checks of R113, and an
instruction of a sealed region is counted (R414). -/
def advance (s : State) (n : Nat) : State :=
  s.modMe fun t =>
    let t := t.settled
    let t := if t.sealed then { t with sealCount := t.sealCount + 1 } else t
    t.endCheck s.isVe (t.pc + BitVec.ofNat 64 n) t.order

/-- A taken transfer (R110): PC becomes the target.  A target with bits 1:0 not zero faults at once: FETCH_RANGE where
it lies outside the instruction memory, else PC_ALIGN (R31, R41); any other fault of the target is met by the next
fetch.  DESIGN CHOICE (entry 74): a fetch fault has no faulting byte address, so TRAPREC[1] is 0. -/
def transfer (s : State) (target : Word) : State :=
  let s' := s.modMe fun t =>
    let t := t.settled
    { (if t.sealed then { t with sealCount := t.sealCount + 1 } else t) with pc := target }
  if target.toNat % 4 ≠ 0 then
    s'.trapAt target (if s.imemSize ≤ target.toNat then 0x02 else 0x03) 0
  else s'

end State

/-! ### How a meaning ends -/

/-- How the effect of an instruction ends. -/
inductive End where
  /-- it completes -/
  | done (s : State)
  /-- it completes its issue; the request it issued carries the pattern's signals (R311) -/
  | issued (s : State)
  /-- it completes with a transfer -/
  | goto (s : State) (target : Word)
  /-- it waits; R151 may count it as stuck -/
  | wait (s : State) (stuck : Bool)
  /-- it has trapped -/
  | trapped (s : State)

namespace State

/-- The end of a shared instruction of `n` bytes. -/
def ends (n : Nat) : End → State
  | .done s => s.advance n
  | .issued s => s.advance n
  | .goto s target => s.transfer target
  | .wait s stuck => s.stall stuck
  | .trapped s => s
/-- A shared instruction of `n` bytes that writes one register and does nothing else. -/
def put (s : State) (n : Nat) (d : GReg) (v : Word) : Answer := .next (State.ends n (.done (s.setG d v)))

end State

/-- The value of a token pattern (R147); pattern 0 names none. -/
def Stream.pattern (t : Stream) (tk : Tk) : W32 := if tk = 0 then 0 else tget 0 t.tk tk.toNat
/-- The lines a pattern pops. -/
def patWait (p : W32) : BitVec 3 := fld p 0 3
/-- Whether it waits on a semaphore. -/
def patSwe (p : W32) : Bool := p.getLsbD 8
/-- That semaphore. -/
def patSwi (p : W32) : BitVec 4 := fld p 12 4
/-- What it signals. -/
def patSig (p : W32) : Sig := { lines := fld p 4 3, sse := p.getLsbD 16, ssi := fld p 20 4 }

/-- The wait step of a pattern can be taken (R148). -/
def Bank.canWait (b : Bank) (e : Eng) (p : W32) : Bool :=
  b.canPop e (patWait p) && (!patSwe p || 1 ≤ b.semFor e (patSwi p))
/-- The wait step (R148). -/
def Bank.takeWait (b : Bank) (e : Eng) (p : W32) : Bank :=
  let b := b.pop e (patWait p)
  if patSwe p then b.semTake e (patSwi p) 1 else b
/-- The signal step can be taken (R148). -/
def Bank.canSignal (b : Bank) (e : Eng) (g : Sig) : Bool :=
  b.canPush e g.lines && (!g.sse || b.sem g.ssi ≤ 254)
/-- The signal step (R148). -/
def Bank.signal (b : Bank) (e : Eng) (g : Sig) (now : Nat) : Bank :=
  let b := b.push e g.lines now
  if g.sse then b.semGive g.ssi 1 ((b.get e).chain e now) else b
/-- Whether there is anything to signal. -/
def Sig.isEmpty (g : Sig) : Bool := g.lines = 0 && !g.sse

namespace State

/-- An instruction or request of a stream finishes: its signal step is taken, or waits for room (R148, entry
11). -/
def finish (s : State) (c : Nat) (bankB : Bool) (e : Eng) (g : Sig) : State :=
  if g.isEmpty then s
  else
    s.modCore c fun k =>
      let b := k.get bankB
      k.set bankB (if b.canSignal e g then b.signal e g s.nextId else b.mod e fun t => { t with sigs := t.sigs ++ [g] })
/-- Work that a stream of a bank handed off has finished: a chain that starts now carries it (R369). -/
def workDone (s : State) (c : Nat) (bankB : Bool) (e : Eng) : State :=
  s.modCore c fun k => k.set bankB ((k.get bankB).mod e fun t => { t with doneAt := s.nextId })
/-- The signals of the stream that executes. -/
def finishMe (s : State) (g : Sig) : State :=
  match s.cur with
  | .eng c e => s.finish c (s.core c).runB e g
  | _ => s
/-- A signal that waited for room is delivered: the oldest whose lines and semaphore have room. -/
def signalTurn (s : State) (c : Nat) (e : Eng) : State :=
  let b := s.bank c
  match (b.get e).sigs.find? fun g => b.canSignal e g with
  | none => s
  | some g => s.setBank c ((b.signal e g s.nextId).mod e fun t => { t with sigs := t.sigs.erase g })

/-- The first instruction issued after a handler cleared TRAPCODE.H: at the noted address with WD set its wait step
is omitted, and WD is cleared (R148). -/
def noteIssue (s : State) : State :=
  match s.me.wdNote with
  | none => s
  | some a =>
    s.modMe fun t =>
      { t with
        waited := t.wd && decide (t.pc = a)
        trapcode := t.trapcode &&& ~~~(1#64 <<< 18)
        wdNote := none }

/-- The stream that executes waits for lines and, when `sem` says so, for `k` of a semaphore. -/
def noteWait (s : State) (lines : BitVec 3) (sem : Bool) (i : BitVec 4) (k : Nat) : State :=
  s.modMe fun t => { t with waitsOn := if sem then some (lines, i, k) else none }

/-- What the wait step of a pattern takes, to be given back should the instruction be reported late (R310). -/
def taking (s : State) (c : Nat) (e : Eng) (p : W32) : Took :=
  (s.bank c).toTake e (patWait p) (if patSwe p then some (patSwi p) else none)
/-- A private instruction of `n` bytes under a token pattern (R148): its wait step, its effect, its signals.  The
effect is given the signals, for a request to carry. -/
def withPattern (s : State) (tk : Tk) (n : Nat) (body : Sig → State → End) : State :=
  match s.cur with
  | .eng c e =>
    let p := s.me.pattern tk
    let g := patSig p
    let waits := (decide (patWait p ≠ 0) || patSwe p) && !s.me.waited
    let run := fun (s : State) =>
      match body g s with
      | .done t => (t.advance n).finishMe g
      | .issued t => t.advance n
      | .goto t target => (t.finishMe g).transfer target
      | .wait t stuck => t.stall stuck
      | .trapped t => t
    if waits then
      match firstOwed s.me.owed with
      | some o => s.report o
      | none =>
        if (s.bank c).canWait e p then
          run ((s.modBank c fun b => b.takeWait e p).modMe fun t =>
            { t with waited := true, waitsOn := none, took := s.taking c e p })
        else (s.noteWait (patWait p) (patSwe p) (patSwi p) 1).stall true
    else run s
  | _ => s.illegal

/-! ### The page-fault bank switch (R423) -/

/-- Whether the engines of a bank have drained into their architectural state (R423). -/
def drained (b : Bank) : Bool :=
  (b.mq.head?.all fun m => !m.started) && (b.copies.all fun x => !x.2.busy) &&
    engines.all fun e => (b.get e).reqs.isEmpty && (b.get e).loads.isEmpty && ((b.get e).near.all fun o => o.performed)

/-- Whether a started matrix command may still wait for a feed, which the access engine brings. -/
def meFed (b : Bank) : Bool := !b.oq.isEmpty && !b.fifo.isEmpty
/-- The engine whose drain is under way in a bank that drains for a page fault, in the order ME, XE, VE, AE, CE (R423): 0 to 4;
5 once all have drained, and in a bank that does not drain.  A matrix command that may wait for a feed holds no engine back
(entry 93). -/
def drainStage (b : Bank) : Nat :=
  let busy := fun (e : Eng) =>
    let t := b.get e
    !t.reqs.isEmpty || !t.loads.isEmpty || t.near.any fun o => !o.performed
  if !b.pf.any fun p => p.draining then 5
  else if (b.mq.head?.any fun m => m.started) && meFed b then 0
  else if (b.copies.any fun x => x.2.busy) || busy .xe then 1
  else if busy .ve then 2
  else if busy .ae then 3
  else if busy .ce then 4
  else 5
/-- The place of an engine in that order. -/
def drainPlace : Eng → Nat
  | .xe => 1 | .ve => 2 | .ae => 3 | .ce => 4
/-- Whether the drain of an engine must wait for that of one before it; the ME is 0, the XE 1, the VE 2, the AE 3, the CE 4. -/
def drainHeld (b : Bank) (n : Nat) : Bool := decide (drainStage b < n)
/-- The record of a bank's page fault (R407, R423). -/
def pfRecord (c : Nat) (b : Bank) (p : PfWait) : FaultRec :=
  { code := 9, cls := 0, flags := { recov := true, bank := true }, src := srcField c p.eng.num
    job := jobId c b.job, pc := p.pc
    words := [p.pc, 0, p.word, Config.reasonWord (tget {} (b.get p.eng).horig p.hreg.toNat : HOrigin).reason] }
/-- A bank enters WAIT: its record is posted, and a READY partner resumes (R423, R424). -/
def postPf (s : State) (c : Nat) (bankB : Bool) (p : PfWait) : State :=
  let b := (s.core c).get bankB
  let r := s.post b.job.ctx (pfRecord c b p)
  let s' := r.2.modCore c fun k =>
    k.set bankB { k.get bankB with
      st := .wait
      pf := some { p with draining := false, posted := r.1, offered := s.cyc, seq := fld (s.ctx b.job.ctx).fqtail 0 16 } }
  s'.resumeReady c

/-- A further turn of the stream that holds at its page fault: nothing but the drain is looked at (R423). -/
def drainTurn (s : State) (c : Nat) (p : PfWait) : State :=
  if drained (s.bank c) then s.postPf c (s.core c).runB p else s.stall false
/-- A use of a FAULTED handle: the faulting instruction takes no effect and its stream holds at it; the other
streams stop issuing; when every engine has drained, which later turns of the stream look at, the record is posted, the bank
enters WAIT, and a READY partner resumes. -/
def pageFault (s : State) (r : HReg) : State :=
  match s.cur with
  | .eng c e =>
    let t := s.me
    let w := s.reportedWords t.pc
    let pf : PfWait := { eng := e, hreg := r, handle := t.rh r, seq := 0, posted := false, offered := s.cyc
                         draining := true, pc := t.pc, word := w }
    (s.modBank c fun b => { b with pf := some pf }).drainTurn c pf
  | _ => s

/-! ### Trap return (R137, R148) -/

/-- TRAPCODE.H is cleared, and the value of TRAPPC at that moment is noted. -/
def clearH (s : State) : State :=
  s.modMe fun t => { t with trapcode := t.trapcode &&& ~~~(1#64 <<< 16), wdNote := some t.trappc }
/-- `TRET`: H is cleared and PC becomes TRAPPC, in one step. -/
def trapReturn (s : State) : State :=
  if s.me.inTrap then s.clearH.transfer s.me.trappc else s.illegal

end State

end Sys2Proof.Machine
end

