-- ==== Sys2Proof/Machine/Flags.lean ====
section
/-! DEFINITION.  Conditions (R75), the sticky flags and rounding mode of `FCW` (R56 to R58), and `AMAX`. -/

namespace Sys2Proof.Machine

/-- A condition code between two registers (R75); code 15 always holds. -/
def condHolds (cc : BitVec 4) (a b : Word) : Bool :=
  match cc.toNat with
  | 0 => a == b
  | 1 => a != b
  | 2 => a.slt b
  | 3 => !a.slt b
  | 4 => a.ult b
  | 5 => !a.ult b
  | 6 => b.slt a
  | 7 => !b.slt a
  | 8 => b.ult a
  | 9 => !b.ult a
  | 15 => true
  | _ => false

/-- FCW.RM (R56). -/
def fcwRm (f : W32) : BitVec 3 := fld f 0 3
/-- FCW.DAZ. -/
def fcwDaz (f : W32) : Bool := f.getLsbD 3
/-- FCW.FTZ. -/
def fcwFtz (f : W32) : Bool := f.getLsbD 4
/-- FCW.NVE. -/
def fcwNve (f : W32) : Bool := f.getLsbD 5
/-- FCW.DZE. -/
def fcwDze (f : W32) : Bool := f.getLsbD 6
/-- FCW.OFE. -/
def fcwOfe (f : W32) : Bool := f.getLsbD 7
/-- The flags of an instruction OR into FCW bits 12:8 (R58). -/
def fcwOr (f : W32) (x : Num.Flags) : W32 := f ||| (x.setWidth 32 <<< 8)
/-- The rounding mode of a rounding field, code 7 taking the captured FCW.RM (R50, R57). -/
def modeOf (rm : BitVec 3) (fcw : W32) : Num.RMode := Num.RMode.ofCode (if rm = 7 then fcwRm fcw else rm)

/-- FP_INVALID before FP_DIVZERO before FP_OVERFLOW among the enabled conditions of one instruction, and the traps
of policy 3 (R55, R164); an instruction that carries a policy ignores OFE. -/
def fpTrap (fcw : W32) (policy : Bool) (x : Num.Flags) (polTrap : Option Nat) : Option Nat :=
  let inv := fcwNve fcw && x.getLsbD 0
  let dz := fcwDze fcw && x.getLsbD 1
  let ovf := fcwOfe fcw && x.getLsbD 2 && !policy
  if inv || polTrap = some Num.fpInvalid then some Num.fpInvalid
  else if dz then some Num.fpDivZero
  else if ovf || polTrap = some Num.fpOverflow then some Num.fpOverflow
  else none

end Sys2Proof.Machine
end

