-- ==== Sys2Proof/Machine/Operands.lean ====
section
/-! DEFINITION.  Operand forms: the checks of core scratch and of handles (R32, R33, R41, R268, R422), loads and
stores of the agent that executes, remote accesses as they leave (R434, R436, R438), and what fences wait for. -/

namespace Sys2Proof.Machine

/-! ### Checks -/

/-- The outcome of a check. -/
inductive Chk where
  | ok
  /-- the handle is PENDING, or its translation has not been looked up yet -/
  | stall
  | fault (code : Nat) (addr : Word)
  | page (r : HReg)
  deriving DecidableEq, Repr

/-- The next check, when this one passes. -/
def Chk.and (a : Chk) (b : Unit → Chk) : Chk :=
  match a with
  | .ok => b ()
  | x => x

/-- The checks of a list, in order. -/
def Chk.all {α : Type} (f : α → Chk) : List α → Chk
  | [] => .ok
  | x :: xs => (f x).and fun _ => Chk.all f xs

/-- A condition that must hold. -/
def need (b : Bool) (code : Nat) : Chk := if b then .ok else .fault code 0

/-- The half of core scratch that a kit partition may use (R422): the lowest address and the first beyond. -/
def partRange (part : Nat) : Nat × Nat :=
  if part = 1 then (0, 0x100000) else if part = 2 then (0x100000, 0x200000) else (0, 0x200000)
/-- The half of the accumulator rows (R422). -/
def partRows (part : Nat) : Nat × Nat :=
  if part = 1 then (0, 256) else if part = 2 then (256, 512) else (0, 512)

namespace State

/-- The partition of the job that executes. -/
def part (s : State) : Nat := s.curBank.job.part

/-- A core-scratch range (R32, R41): alignment before range; an outpost's data memory ends at 0x2000 (R357). -/
def chkScratch (s : State) (a n align : Nat) : Chk :=
  let w := BitVec.ofNat 64 a
  if a % align ≠ 0 then .fault 0x04 w
  else
    match s.cur with
    | .frame _ _ => if 0x2000 < a + n then .fault 0x05 w else .ok
    | _ =>
      if 0x200000 < a + n then .fault 0x05 w
      else if a < (partRange s.part).1 ∨ (partRange s.part).2 < a + n then .fault 0x05 w
      else .ok

/-- A core-scratch range that the instruction reads at its issue, on a path: once no older access on the path has still to be
made there (R375). -/
def chkRead (s : State) (q : Path) (a n align : Nat) : Chk :=
  (s.chkScratch a n align).and fun _ =>
    if s.awayOpen s.party q s.nextId [(windowBase s.curCore + a, n)] then .stall else .ok

/-- Whether the handle register waits for the lookup of a translation (R272). -/
def handleLocked (s : State) (r : HReg) : Bool := s.me.xlates.any fun x => x.live && !x.walking && x.hreg = r

/-- The checks of R33 on a handle's contents, with R268 and the partition of R422 after them. -/
def chkHandleBits (s : State) (r : HReg) (h : Handle) (off : Int) (n align : Nat) (perm : BitVec 3) : Chk :=
  let target : Int := (Handle.addr h).toNat + off
  let w := BitVec.ofInt 64 target
  let inWin := !Handle.remote h && decide (0x110000000000 ≤ target) && decide (target < 0x110030000000)
  let own := decide ((windowBase s.curCore : Int) ≤ target) && decide (target + n ≤ windowBase s.curCore + 0x200000)
  let lo : Int := windowBase s.curCore + (partRange s.part).1
  let hi : Int := windowBase s.curCore + (partRange s.part).2
  if !Handle.v h then .fault 0x06 0
  else if Handle.st h = 1 then .stall
  else if Handle.st h = 2 then .page r
  else if off < 0 ∨ (Handle.bytes h : Int) < off + n then .fault 0x07 w
  else if off % (align : Int) ≠ 0 then .fault 0x04 w
  else if inWin && !own then .fault 0x39 w
  else if perm &&& ~~~Handle.perm h ≠ 0 then .fault 0x08 w
  else if inWin && (decide (target < lo) || decide (hi < target + n)) then .fault 0x05 w
  else .ok

/-- The checks of R33 on a handle register of the stream that executes. -/
def chkHandle (s : State) (r : HReg) (off : Int) (n align : Nat) (perm : BitVec 3) : Chk :=
  if s.handleLocked r then .stall else s.chkHandleBits r (s.h r) off n align perm

/-- What follows a check. -/
def afterChk (s : State) (c : Chk) (k : Unit → End) : End :=
  match c with
  | .ok => k ()
  | .stall => .wait s false
  | .fault code addr => .trapped (s.trap code addr)
  | .page r => .trapped (s.pageFault r)

/-! ### Addresses -/

/-- The address of the local-scratch form: a 64-bit sum, carries discarded (R32). -/
def scratchAddr (s : State) (a : GReg) (imm : Word) : Nat := (s.g a + imm).toNat
/-- The offset of the handle form: the signed sum (R33, entry 21). -/
def handleOff (s : State) (a : GReg) (imm : Word) : Int := (s.g a).toInt + imm.toInt
/-- The physical address of core scratch of the core that executes (R34, R267). -/
def scratchPhys (s : State) (a : Nat) : Nat := windowBase s.curCore + a

/-- Bytes of core scratch read on a path by the party that executes. -/
def scratchBytes (s : State) (q : Path) (a n : Nat) : List Byte := s.loadBytes s.party q (s.scratchPhys a) n
/-- A number read so. -/
def scratchNat (s : State) (q : Path) (a n : Nat) : Nat := leNat (s.scratchBytes q a n)

end State

/-! ### Scalar loads and stores (R76, R119) -/

/-- A loaded value extended as the size code says (R76). -/
def extendLoad (sz : BitVec 3) (bs : List Byte) : Word :=
  let v := leNat bs
  if sz = 0 then sext (BitVec.ofNat 8 v)
  else if sz = 2 then sext (BitVec.ofNat 16 v)
  else if sz = 4 then sext (BitVec.ofNat 32 v)
  else BitVec.ofNat 64 v

/-- The bytes that a stream has read ahead for a range (R381). -/
def Stream.ahead (t : Stream) (a n : Nat) : Option (List Byte) :=
  (t.pre.find? fun u => u.1 ≤ a && a + n ≤ u.1 + u.2.length).map fun u => (u.2.drop (a - u.1)).take n

namespace State

/-- MEM_UNCORR at a load: the error is logged and the load traps (R283). -/
def memUncorr (s : State) (a : Nat) : State :=
  (s.depositSev 0 4 1 (BitVec.ofNat 64 a)).trap 0x3D (BitVec.ofNat 64 a)

/-- What the stream that executes has read ahead of a range is given up once it accesses the range (R375, R381). -/
def forget (s : State) (a n : Nat) : State :=
  if s.me.pre.isEmpty then s
  else s.modMe fun t => { t with pre := t.pre.filter fun u => !overlap u.1 u.2.length a n }
/-- Whether an older access of the stream that shares a byte with a range has still to be made: a load or atomic that has not
read yet, a landing, or a remote access to this package (R375). -/
def readFirst (s : State) (a n : Nat) : Bool :=
  (s.me.loads.any fun l => l.got.isNone && overlap l.addr l.n a n) || s.awayOpen s.party s.ownPath s.nextId [(a, n)]
/-- A load or atomic is issued into the path buffer (R371). -/
def deferLoad (s : State) (l : PLoad) : State :=
  let (id, s) := s.fresh
  (s.forget l.addr l.n).modMe fun t => { t with lazy := false, loads := t.loads ++ [{ l with id := id, pc := t.pc }] }

/-- A load of physical memory into `g[d]` that takes its read step at once; a load into `g0` discards the value. -/
def loadNow (s : State) (d : GReg) (sz : BitVec 3) (a : Nat) : End :=
  let n := sizeBytes sz
  if s.readFirst a n then .wait s false
  else if s.eccHit a n then .trapped (s.memUncorr a)
  else .done (((s.forget a n).ask [(a, n)]).setG d (extendLoad sz (s.loadBytes s.party s.ownPath a n)))
/-- A load of physical memory: it takes its read step at once, or has taken it before its turn (R381), or is issued into
the path buffer (R371); `via` is the handle through which it goes. -/
def loadPhys (s : State) (d : GReg) (sz : BitVec 3) (a : Nat) (via : Option Handle := none) : End :=
  let n := sizeBytes sz
  if s.me.lazy then .done (s.deferLoad { id := 0, pc := 0, addr := a, n := n, dest := .greg d sz, via := via })
  else
    match s.me.ahead a n with
    | some bs => if s.readFirst a n then .wait s false else .done ((s.forget a n).setG d (extendLoad sz bs))
    | none => s.loadNow d sz a
/-- A store of the low bytes of `g[d]` to physical memory (R119). -/
def storePhys (s : State) (d : GReg) (sz : BitVec 3) (a : Nat) (via : Option Handle := none) : End :=
  .done ((s.forget a (sizeBytes sz)).storeBytes s.party s.ownPath a (natBytes (sizeBytes sz) (s.g d).toNat) via)

/-- The data memory of the call frame that executes. -/
def frameData (s : State) : Memory :=
  match s.cur with
  | .frame o f => (s.frame o f).data
  | _ => []
/-- Replaces it. -/
def setFrameData (s : State) (m : Memory) : State :=
  match s.cur with
  | .frame o f => s.setFrame o f { s.frame o f with data := m }
  | _ => s

/-- The local form of a load: core scratch, or an outpost's data memory (R32, R139); an acquire reads at once. -/
def loadLocal (s : State) (d : GReg) (sz : BitVec 3) (a : Nat) (acq : Bool := false) : End :=
  s.afterChk (s.chkScratch a (sizeBytes sz) (sizeBytes sz)) fun _ =>
    if s.inOutpost then .done (s.setG d (extendLoad sz (s.frameData.readN a (sizeBytes sz))))
    else if acq then s.loadNow d sz (s.scratchPhys a)
    else s.loadPhys d sz (s.scratchPhys a)
/-- The local form of a store. -/
def storeLocal (s : State) (d : GReg) (sz : BitVec 3) (a : Nat) : End :=
  s.afterChk (s.chkScratch a (sizeBytes sz) (sizeBytes sz)) fun _ =>
    if s.inOutpost then
      .done (s.setFrameData (s.frameData.writeN a (natBytes (sizeBytes sz) (s.g d).toNat)))
    else s.storePhys d sz (s.scratchPhys a)

/-! ### Remote accesses as they leave (R389, R390, R434, R436, R438) -/

/-- A remote access goes to its owner: onto the fabric, or, where the owner is this package, into its own gateway; while
`PEERID.V` is 0 the gateway keeps it, to answer it itself (R434, R442). -/
def send (s : State) (c : Nat) (bankB : Bool) (e : Eng) (r : RemAcc) : State :=
  if !s.mgmt.peerid.getLsbD 12 then s
  else s.toPeer (fabPeer r.addr) (.request (fabPeer r.addr) r.id (strmNo c bankB e) r.path r.addr r.op)

/-- The entry of a core's ticket table that a stream's access to a page shares, or a free one (R438). -/
def ticketFor (k : Core) (bankB : Bool) (e : Eng) (peer : BitVec 12) (page : BitVec 33) : Option Nat :=
  match (List.range 32).find? fun n =>
      let t := k.ticket n
      (t.v || t.reserved) && t.bankB = bankB && t.eng = e && t.peer = peer && t.page = page with
  | some n => some n
  | none => (List.range 32).find? fun n => !(k.ticket n).v && !(k.ticket n).reserved

/-- A remote access of a stream leaves on its fabric channel, or is held behind a ticket of its page; none when no
ticket entry is free.  `grp` is the place in issue order that the parts of one command share, `via` the handle through
which it goes, and `sig` what its instruction signals when it has been answered. -/
def remoteSend (s : State) (c : Nat) (bankB : Bool) (e : Eng) (pc words : Word) (path : Path)
    (addr : BitVec 57) (op : RemOp) (dest : RemDest) (grp : Option Nat := none) (via : Option Handle := none)
    (sig : Sig := {}) : Option State :=
  let k := s.core c
  match ticketFor k bankB e (fabPeer addr) (fabPage addr) with
  | none => none
  | some n =>
    let t := k.ticket n
    let t' : Ticket := if t.v || t.reserved then t
      else { reserved := true, bankB := bankB, eng := e, peer := fabPeer addr, page := fabPage addr }
    let (id, s) := s.fresh
    let r : RemAcc := { id := id, seq := grp.getD id, pc := pc, words := words, path := path, addr := addr, op := op, dest := dest
                        held := t.v, entry := n, issued := s.cyc, via := via, sig := sig }
    let k' := { k.set bankB ((k.get bankB).mod e fun t => { t with rems := t.rems ++ [r] }) with
      tickets := tset k.tickets n t' }
    let s := s.setCore c k'
    some (if t.v then s else s.send c bankB e r)

/-- A remote access of the instruction that executes: PEER_UNREACH while `PEERID.V` is 0, a wait while no ticket
entry is free (R434, R438).  An instruction that finishes with the reply hands over its signals. -/
def remoteIssue (s : State) (via : Handle) (addr : BitVec 57) (path : Path) (op : RemOp) (dest : RemDest)
    (sig : Option Sig := none) : End :=
  match s.cur with
  | .eng c e =>
    if !s.mgmt.peerid.getLsbD 12 then .trapped (s.trap 0x6A (zext addr))
    else if s.copyWaits s.party path s.nextId addr (opBytes op) then .wait s false
    else
      match s.remoteSend c (s.core c).runB e s.me.pc (s.reportedWords s.me.pc) path addr op dest none (some via)
          (sig.getD {}) with
      | some t => if sig.isSome then .issued t else .done t
      | none => .wait s false
  | _ => .done s

/-- The fabric address that a remote handle and an offset name. -/
def fabAddr (h : Handle) (off : Int) : BitVec 57 := Handle.addr h + BitVec.ofInt 57 off

/-- A load through a handle register (R33, R118); a remote acquire holds what follows (R379). -/
def loadHandle (s : State) (d : GReg) (r : HReg) (sz : BitVec 3) (off : Int) (acq : Bool := false) : End :=
  s.afterChk (s.chkHandle r off (sizeBytes sz) (sizeBytes sz) 1) fun _ =>
    if Handle.remote (s.h r) then
      s.remoteIssue (s.h r) (fabAddr (s.h r) off) s.ownPath (.load (sizeBytes sz)) (if acq then .acq d sz else .greg d sz)
    else if acq then s.loadNow d sz (handlePhys (s.h r) off)
    else s.loadPhys d sz (handlePhys (s.h r) off) (some (s.h r))
/-- A store through a handle register. -/
def storeHandle (s : State) (d : GReg) (r : HReg) (sz : BitVec 3) (off : Int) : End :=
  s.afterChk (s.chkHandle r off (sizeBytes sz) (sizeBytes sz) 2) fun _ =>
    if Handle.remote (s.h r) then
      s.remoteIssue (s.h r) (fabAddr (s.h r) off) s.ownPath (.store (natBytes (sizeBytes sz) (s.g d).toNat)) .none
    else s.storePhys d sz (handlePhys (s.h r) off) (some (s.h r))

/-! ### The format table (R154, R155) -/

/-- Whether an entry holds a reserved value in some field (R154). -/
def ftReserved (e : W32) : Bool :=
  14 ≤ (fld e 0 4).toNat || 14 ≤ (fld e 4 4).toNat || 14 ≤ (fld e 8 4).toNat || fld e 12 2 = 3 || fld e 14 2 = 3 ||
    5 ≤ (fld e 16 3).toNat || fld e 21 10 ≠ 0
/-- The entry that an instruction with fmt 0xF reads at its issue, or FT_RANGE or FT_INVALID (R155); the bits of the fields that
it ignores are named by `skip` (R165). -/
def ftRead (t : Stream) (skip : W32 := 0) : Except Nat W32 :=
  let l := t.loop (fld t.ftsel 0 2).toNat
  let i := (fld t.ftb 0 6).toNat + (if l.active then l.count.toNat else 0)
  if 63 < i then .error 0x1B
  else
    let e := tget 0 t.ft i
    if !e.getLsbD 31 || ftReserved (e &&& ~~~skip) then .error 0x1C else .ok e

/-! ### What fences, releases and `RDV` wait for (R311, R376 to R378, R389, R390, R399) -/

end State

/-- The path of a request (R367). -/
def ReqKind.path : ReqKind → Path
  | .wrel .. => .near
  | .update .. => .near
  | _ => .sc
/-- Whether a stream's fence over some paths must still wait for a request, a near-memory operation or a remote access of
its own (R311, R369, R399). -/
def Stream.fenceOpen (t : Stream) (paths : BitVec 6) : Bool :=
  (t.reqs.any fun r => paths.getLsbD r.kind.path.bit) ||
    (paths.getLsbD Path.near.bit && t.near.any fun o => !o.performed) ||
    (t.rems.any fun r => r.direct && paths.getLsbD r.path.bit)

namespace State

/-- Whether a remote access, or a near-memory operation that is not performed yet, is still on its way that a chain orders
before the stream that executes (R311, R369). -/
def chainOpen (s : State) (paths : BitVec 6) : Bool :=
  !s.inOutpost && engines.any fun e =>
    let t := s.curBank.get e
    let below := fun (n : Nat) => decide (n < tget 0 s.me.clk (clkKey e 0))
    (t.rems.any fun r => r.direct && paths.getLsbD r.path.bit && below r.id) ||
      (paths.getLsbD Path.near.bit && t.near.any fun o => !o.performed && below o.seq)
/-- Whether an access of the stream that executes stands behind a ticket (R390). -/
def ticketOpen (s : State) : Bool := s.me.rems.any fun r => r.held || ((s.core s.curCore).ticket r.entry).v
/-- Whether a fence or release of the stream that executes over these paths may step (R376 to R378, R390). -/
def fenceReady (s : State) (paths : BitVec 6) : Bool :=
  !s.me.fenceOpen paths && !s.chainOpen paths && !s.ticketOpen && !s.forceHeld (s.earlierOn paths)

/-- The stream's own path as a mask. -/
def ownMask (s : State) : BitVec 6 := 1 <<< s.ownPath.bit

/-- The points at which a stream reports, by engine (R222, R310, R348, R437). -/
inductive Point where
  | twait | fence | xfence | rdv
  | ldAq | stRl
  | semw | nfence | stepstat
  | bwait | xstatWait
  deriving DecidableEq, Repr

/-- Whether an instruction is a reporting point of an engine. -/
def isPoint (e : Eng) : Point → Bool
  | .twait => true | .fence => true | .xfence => true | .rdv => true
  | .ldAq => e = .ae || e = .ve
  | .stRl => e = .ae || e = .ve
  | .semw => e = .ce
  | .nfence => e = .ae
  | .stepstat => e = .ae
  | .bwait => e = .xe
  | .xstatWait => e = .xe

/-- An instruction that reports an owed fault first, where it is a reporting point. -/
def atPoint (s : State) (p : Point) (k : Unit → End) : End :=
  match s.cur with
  | .eng _ e =>
    if isPoint e p then
      match firstOwed s.me.owed with
      | some o => .trapped (s.report o)
      | none => k ()
    else k ()
  | _ => k ()

end State

end Sys2Proof.Machine
end

