-- ==== Sys2Proof/Machine/Tile.lean ====
section
/-! DEFINITION.  Tensor descriptors and tiles (R277 to R280, R312 to R316): the shape a request names, the checks of its
issue, and what a memory unit reads, converts and writes for it. -/

namespace Sys2Proof.Machine

/-! ### Descriptors (R277) -/

/-- A tensor descriptor in 64 bytes; none for TILE_BAD. -/
def parseDesc (b : List Byte) : Option Desc :=
  let ndim := recNat b 1 1
  let d : Desc :=
    { fmt := BitVec.ofNat 4 (recNat b 0 1), ndim := ndim
      dh := BitVec.ofNat 5 (recNat b 2 1), sh := BitVec.ofNat 5 (recNat b 3 1), sv := decide (128 ≤ recNat b 3 1)
      ph := BitVec.ofNat 5 (recNat b 4 1), hv := decide (128 ≤ recNat b 4 1), tid := BitVec.ofNat 16 (recNat b 6 2)
      ext := (List.range 4).map fun i => recNat b (8 + 4 * i) 4
      str := (List.range 3).map fun i => recNat b (24 + 8 * i) 8
      doff := recNat b 48 8, soff := recNat b 56 8 }
  if recNat b 0 1 ≤ 13 && 2 ≤ ndim && ndim ≤ 4 && recNat b 2 1 < 32 && recNat b 3 1 / 32 % 4 = 0 &&
      recNat b 4 1 / 32 % 4 = 0 && recNat b 5 1 = 0 &&
      ((List.range 4).all fun i => i < ndim || d.ext.getD i 0 = 1) &&
      ((List.range 3).all fun i => d.str.getD i 0 % 16 = 0 && (i + 1 < ndim || d.str.getD i 0 = 0)) &&
      d.doff % 16 = 0 && (d.sv == decide (d.fmt = 13)) && (!d.sv || d.ext.getD 0 0 % 32 = 0) &&
      (d.hv || d.ph = 0) && (d.sv || d.sh = 0) then
    some d
  else none

/-! ### Elements -/

/-- Elements as bytes (R47). -/
def packCodes (w : Nat) (cs : List Nat) : List Byte := if w = 4 then pairs cs else (cs.map fun c => natBytes (w / 8) c).flatten
where
  /-- Two codes a byte. -/
  pairs : List Nat → List Byte
    | [] => []
    | [a] => [BitVec.ofNat 8 (a % 16)]
    | a :: b :: rest => BitVec.ofNat 8 (a % 16 + 16 * (b % 16)) :: pairs rest
/-- The element at a bit of some bytes. -/
def bitsAt (bs : List Byte) (bit w : Nat) : Nat :=
  if w = 4 then (bs.getD (bit / 8) 0).toNat / (if bit % 8 = 0 then 1 else 16) % 16
  else leNat ((bs.drop (bit / 8)).take (w / 8))

/-! ### Issue (R308, R312, R313, R315, R316) -/

namespace State

/-- A request of the stream that executes is issued, or waits for one of 32 places (R309); `q` reserves its place in the
order of the operand queue (R317). -/
def issueReq (s : State) (kind : ReqKind) (sig : Sig) (q : Bool := false) : End :=
  if 32 ≤ s.me.reqs.length then .wait s false
  else
    let words := s.reportedWords s.me.pc
    let (id, s) := s.fresh
    let r : Req := { id := id, seq := id, pc := s.me.pc, w1 := fld words 0 32, w2 := fld words 32 32, kind := kind, sig := sig }
    let s := s.modMe fun t => { t with reqs := t.reqs ++ [r] }
    .issued (if q then s.modCurBank fun b => { b with oqOrder := b.oqOrder ++ [id] } else s)

/-- The descriptor whose address a register holds, read on the path of the instruction and checked under R277 (R308, R367). -/
def withDesc (s : State) (q : Path) (a : GReg) (k : Desc → End) : End :=
  let at0 := (s.g a).toNat
  s.afterChk (s.chkRead q at0 64 64) fun _ =>
    match parseDesc (s.scratchBytes q at0 64) with
    | none => .trapped (s.trap 0x3A 0)
    | some d => k d

/-- Format, rounding code and policy of a tile request: its own, or the entry's (R312). -/
def tileFmt (s : State) (d : Desc) (fmt : Fmt) (rm : BitVec 3) (ovf : BitVec 2) : Except Nat (Fmt × BitVec 3 × BitVec 2) :=
  if fmt = 15 then
    match ftRead s.me with
    | .error code => .error code
    | .ok e => if fld e 0 4 ≠ d.fmt then .error 0x1C else .ok (fld e 8 4, fld e 16 3, fld e 19 2)
  else .ok (fmt, rm, ovf)

/-- The handles that a descriptor names. -/
def descHandles (d : Desc) : List HReg := d.dh :: ((if d.sv then [d.sh] else []) ++ if d.hv then [d.ph] else [])
/-- What follows once no handle of a list waits for the lookup of a translation (R29, R272). -/
def unlocked (s : State) (rs : List HReg) (k : Unit → End) : End := if rs.any s.handleLocked then .wait s false else k ()

/-- The handle checks of a tile request (R278, R313): every row's bytes, its scale bytes, and the parameter block; none
where the tile lies wholly outside the tensor. -/
def tileHandles (s : State) (b : TileBox) (perm : BitVec 3) : Chk :=
  (Chk.all (fun y => s.chkHandle b.d.dh (b.span y).1 (b.span y).2 1 perm) b.rows).and fun _ =>
  (if b.d.sv then Chk.all (fun y => s.chkHandle b.d.sh (b.scaleSpan y).1 (b.scaleSpan y).2 1 perm) b.rows else .ok).and fun _ =>
  if b.d.hv && !b.rows.isEmpty then s.chkHandle b.d.ph 0 256 1 1 else .ok

/-- Whether a handle that the request uses is remote (R436). -/
def tileRemote (s : State) (b : TileBox) : Bool :=
  (descHandles b.d).any fun r => Handle.remote (s.h r)

/-- The values that raise TILE_BAD once the delivered format is known (R280, R313, R315, R316, R436). -/
def tileBad (s : State) (b : TileBox) (outf : Fmt) (gd : Word) (q store trans : Bool) : Bool :=
  let dh := s.h b.d.dh
  let qm := if trans then b.tw else b.th
  let qk := if trans then b.th else b.tw
  (!store && fld gd 21 27 ≠ 0) || (outf = 13 && b.d.fmt ≠ 13) || 1048576 < b.tw * b.th * Num.width outf ||
    (store && (b.d.hv || (b.d.fmt = 13 && outf ≠ 13))) ||
    (q && (!(2 ≤ outf.toNat && outf.toNat ≤ 6) || qm % 8 ≠ 0 || qk % 32 ≠ 0)) ||
    s.tileRemote b ||
    (trans && Handle.v dh && Handle.st dh = 0 && !inHbm (Handle.addr dh).toNat)

/-- The issue of `TLD`, `TLDT` and `TST`. -/
def issueTile (s : State) (d a b : GReg) (fmt : Fmt) (w : TldW2) (store trans : Bool) (sig : Sig) : End :=
  s.withDesc .sc a fun desc => s.unlocked (descHandles desc) fun _ =>
    let c := [(fld (s.g b) 0 32).toInt, (fld (s.g b) 32 32).toInt, (fld (s.g (b + 1)) 0 32).toInt, (fld (s.g (b + 1)) 32 32).toInt]
    let box : TileBox := { d := desc, c := c, tw := w.twm.toNat + 1, th := w.thm.toNat + 1 }
    if !box.ok then .trapped (s.trap 0x3A 0)
    else
      match s.tileFmt desc fmt w.rm w.ovf with
      | .error code => .trapped (s.trap code 0)
      | .ok (outf, rm, ovf) =>
        if s.tileBad box outf (s.g d) w.q store trans then .trapped (s.trap 0x3A 0)
        else if trans && Num.width desc.fmt < 8 then .trapped (s.trap 0x3B 0)
        else if trans && (desc.s 1 % 64 ≠ 0 || 0x1000000 < desc.s 1) then .trapped (s.trap 0x3C 0)
        else
          s.afterChk (s.tileHandles box (if store then 2 else 1)) fun _ =>
            let dst := (fld (s.g d) 0 21).toNat
            s.afterChk (if w.q then .ok else s.chkScratch dst (tileBytes outf box.tw box.th) 64) fun _ =>
              s.issueReq (.tile
                { desc := desc, dh := s.h desc.dh, sh := s.h desc.sh, ph := s.h desc.ph, c := c, tw := box.tw, th := box.th
                  outf := outf, rm := if rm = 7 then fcwRm s.me.fcw else rm, ovf := ovf, dst := dst, pad := fld (s.g d) 48 16
                  q := w.q, transposed := trans, step := s.k w.kreg, seed := s.g 56, stepTid := s.g 57, rowCol := s.g 58
                  store := store }) sig w.q

end State

/-! ### Conversion (R314) -/

/-- One element converted between two formats: its code, and the trap of policy 3. -/
def TileReq.convert (t : TileReq) (from_ to_ : Fmt) (x y code scale : Nat) : Nat × Option Nat :=
  if to_ = from_ then (code, none)
  else
    let h := Num.hash t.seed (fld t.stepTid 0 32) (fld t.stepTid 32 16) (fld t.rowCol 0 32 + BitVec.ofNat 32 y)
      (fld t.rowCol 32 32 + BitVec.ofNat 32 x)
    let v := if from_ = 13 then Num.f4Val scale code else Num.decodeVal from_ code
    let r := Num.cvt to_ (Num.RMode.ofCode t.rm) t.ovf false (h.toNat % 65536) v
    (r.bits, r.trap)
/-- The pad as an element's code (R278). -/
def padCode (w : Nat) (pad : BitVec 16) : Nat := if w = 32 then pad.toNat * 65536 else pad.toNat % 2 ^ w
/-- FP_INVALID before FP_OVERFLOW over a tile. -/
def tileTrap (xs : List (Nat × Option Nat)) : Option Nat := xs.foldl (fun t x => Num.worse t x.2) none

/-- The coordinates of a tile's elements in the order of delivery (R313, R315). -/
def TileReq.order (t : TileReq) : List (Nat × Nat) :=
  if t.transposed then (List.range t.tw).flatMap fun x => (List.range t.th).map fun y => (x, y)
  else (List.range t.th).flatMap fun y => (List.range t.tw).map fun x => (x, y)

namespace State

/-! ### Service of a load (R278, R279, R313) -/

/-- The bytes of the rows of the tensor of a request of place `no`, by row: read from memory, or out of resolved granules
(R296). -/
def tileRows (s : State) (p : Party) (no : Nat) (t : TileReq) (grans : Option (Nat → List Byte)) : Tab (List Byte) :=
  let b := t.box
  b.rows.map fun y =>
    let (lo, n) := b.span y
    (y, match grans with
      | none => s.loadAsOf p .sc no ((Handle.addr t.dh).toNat + lo) n
      | some g => (List.range n).map fun i =>
          let o := lo + i - t.desc.doff
          (g (o / 4096)).getD (o % 4096) 0)
/-- The scale bytes of its rows. -/
def tileScales (s : State) (p : Party) (no : Nat) (t : TileReq) : Tab (List Byte) :=
  let b := t.box
  if t.desc.sv then
    b.rows.map fun y => (y, s.loadAsOf p .sc no ((Handle.addr t.sh).toNat + (b.scaleSpan y).1) (b.scaleSpan y).2)
  else []
/-- The first address of what it reads at which an uncorrectable error stands (R283). -/
def tileEcc (s : State) (t : TileReq) : Option Nat :=
  let b := t.box
  b.rows.findSome? fun y =>
    let a := (Handle.addr t.dh).toNat + (b.span y).1
    let z := (Handle.addr t.sh).toNat + (b.scaleSpan y).1
    if s.eccHit a (b.span y).2 then some a
    else if t.desc.sv && s.eccHit z (b.scaleSpan y).2 then some z
    else none

/-- The tile as delivered: its codes' bytes and its scale bytes, or the trap of policy 3. -/
def tileOut (s : State) (p : Party) (no : Nat) (t : TileReq) (grans : Option (Nat → List Byte)) : Except Nat (List Byte × List Byte) :=
  let b := t.box
  let rows := s.tileRows p no t grans
  let scls := s.tileScales p no t
  let w := Num.width t.desc.fmt
  let scale := fun (x y : Nat) =>
    if b.holds x y then ((tget [] scls y).getD (x / 32 - b.xs.1 / 32) 0).toNat else t.pad.toNat / 256
  let code := fun (x y : Nat) =>
    if b.holds x y then bitsAt (tget [] rows y) (b.bitAt x y - 8 * (b.span y).1) w else padCode w t.pad
  let out := t.order.map fun (x, y) => t.convert t.desc.fmt t.outf x y (code x y) (scale x y)
  match tileTrap out with
  | some e => .error e
  | none =>
    .ok (packCodes (Num.width t.outf) (out.map (·.1)),
      if t.outf = 13 then
        (List.range t.th).flatMap fun y => (List.range (t.tw / 32)).map fun j => BitVec.ofNat 8 (scale (32 * j) y)
      else [])

/-- Bytes written with the high nibble of the last one kept, when a tile ends in the middle of a byte. -/
def keepNibble (s : State) (odd : Bool) (a : Nat) (bs : List Byte) : List Byte :=
  if odd then bs.zipIdx.map fun (b, i) => if i + 1 = bs.length then (b &&& 0x0F) ||| (s.lastByte (a + i) &&& 0xF0) else b
  else bs
/-- The delivered tile is written into core scratch on the scalar path (R311). -/
def tileStore (s : State) (c : Nat) (p : Party) (t : TileReq) (out : List Byte × List Byte) : State :=
  let a := windowBase c + t.dst
  let odd := decide (t.tw * t.th * Num.width t.outf % 8 ≠ 0)
  s.performUnits p .sc a (s.keepNibble odd a out.1 ++ out.2)

/-! ### Service of `TST` (R316) -/

/-- One row of converted elements as pieces of the tensor: whole bytes, or nibbles. -/
def rowPieces (t : TileReq) (y : Nat) (codes : List Nat) : List (Nat × Byte × Byte) :=
  let b := t.box
  let base := (Handle.addr t.dh).toNat
  let bit := b.bitAt b.xs.1 y
  if Num.width t.desc.fmt = 4 then
    codes.zipIdx.map fun x =>
      let at0 := bit + 4 * x.2
      let hi := decide (at0 % 8 ≠ 0)
      (base + at0 / 8, if hi then 0xF0#8 else 0x0F#8, BitVec.ofNat 8 (if hi then 16 * (x.1 % 16) else x.1 % 16))
  else wholePieces (cellsAt (base + bit / 8) (packCodes (Num.width t.desc.fmt) codes))

/-- The tile of a `TST` read from core scratch and converted: code by element index, or the trap of policy 3. -/
def tileIn (s : State) (c : Nat) (p : Party) (no : Nat) (t : TileReq) : Except Nat (List Nat × List Byte) :=
  let bytes := s.loadAsOf p .sc no (windowBase c + t.dst) (tileBytes t.outf t.tw t.th)
  let w := Num.width t.outf
  let out := t.order.zipIdx.map fun ((x, y), i) => t.convert t.outf t.desc.fmt x y (bitsAt bytes (w * i) w) 0
  match tileTrap out with
  | some e => .error e
  | none => .ok (out.map (·.1), bytes.drop (packedBytes t.outf (t.tw * t.th)))
/-- The tile written to its tensor position, each aligned 64-byte unit in one step (R384); elements outside the tensor are not
written. -/
def tilePut (s : State) (p : Party) (t : TileReq) (codes : List Nat) (scales : List Byte) : State :=
  let b := t.box
  s.performPieces p .sc (b.rows.flatMap fun y =>
    rowPieces t y ((codes.drop (y * t.tw + b.xs.1)).take (b.xs.2 - b.xs.1)) ++
      (if t.desc.sv then
        wholePieces (cellsAt ((Handle.addr t.sh).toNat + (b.scaleSpan y).1)
          ((scales.drop (y * (t.tw / 32) + b.xs.1 / 32)).take (b.scaleSpan y).2))
      else []))

end State

end Sys2Proof.Machine
end

