-- ==== Sys2Proof/Machine/Hall.lean ====
section
/-! DEFINITION.  Hallmarked tensors (R287 to R303): the parameter block, filings, the resolution of a named step, and
what a temper unit writes. -/

namespace Sys2Proof.Machine

/-! ### The tensor parameter block (R287, R288) -/

/-- The checks of R288 on a block's bytes, under a descriptor and the address of its data page. -/
def tpbOk (t : Tpb) (b : List Byte) (d : Desc) (dataPage : Nat) : Bool :=
  tpbForm t b && d.fmt = 0 && dataPage + d.doff = t.mbase && d.tid.toNat = t.tid

/-- A fault that a version or temper unit meets: its code and address. -/
abbrev UnitFault := Nat × Word
/-- TRAPREC[5] of a fault of R307 (R310). -/
def hallWord (d : Desc) (step : W32) : Word := zext d.tid ||| (zext step <<< 32)

namespace State

/-- A range that a version or temper unit reads for an access of a party, of place `no`, on a path (R366, R368), or
MEM_UNCORR (R283). -/
def unitRead (s : State) (p : Party) (no : Nat) (q : Path) (a n : Nat) : Except UnitFault (List Byte) :=
  if s.eccHit a n then .error (0x3D, BitVec.ofNat 64 a) else .ok (s.loadAsOf p q no a n)
/-- The fields of the parameter block that a handle names. -/
def tpbFields (s : State) (p : Party) (no : Nat) (q : Path) (ph : Handle) : Except UnitFault (Tpb × List Byte) :=
  let at0 := (Handle.addr ph).toNat
  match s.unitRead p no q at0 256 with
  | .error e => .error e
  | .ok b => .ok (parseTpb at0 b, b)
/-- The parameter block that two handles and a descriptor name, or TPB_BAD (R288) or MEM_UNCORR. -/
def readTpb (s : State) (p : Party) (no : Nat) (q : Path) (d : Desc) (ph dh : Handle) : Except UnitFault Tpb :=
  match s.tpbFields p no q ph with
  | .error e => .error e
  | .ok (t, b) => if tpbOk t b d (Handle.addr dh).toNat then .ok t else .error (0x40, 0)

end State

/-! ### Filings (R298) -/

/-- `n` bytes from bit `j` of a mask on: the next of the given bytes where the bit is 1, else 0. -/
def spread (mask : Nat) : Nat → Nat → List Byte → List Byte
  | 0, _, _ => []
  | n + 1, j, bs =>
    if mask / 2 ^ j % 2 = 1 then bs.headD 0 :: spread mask n (j + 1) bs.tail else 0 :: spread mask n (j + 1) bs
/-- The number of one bits among the 64 low bits of a number. -/
def ones64 (m : Nat) : Nat := popCount (BitVec.ofNat 64 m)
/-- The chunks of a filing from chunk `i` on, out of its records; none where the records do not fit LEN. -/
def unfile (cmask : Nat) : Nat → Nat → List Byte → Option (List Byte)
  | 0, _, rest => if rest.isEmpty then some [] else none
  | n + 1, i, rest =>
    if cmask / 2 ^ i % 2 = 1 then
      let mask := leNat (rest.take 8)
      let body := rest.drop 8
      if rest.length < 8 ∨ body.length < ones64 mask then none
      else (unfile cmask n (i + 1) (body.drop (ones64 mask))).map fun x => spread mask 64 0 body ++ x
    else (unfile cmask n (i + 1) rest).map fun x => List.replicate 64 0 ++ x
/-- The mask of a chunk's nonzero bytes. -/
def chunkMask : List Byte → Nat
  | [] => 0
  | b :: bs => (if b = 0 then 0 else 1) + 2 * chunkMask bs
/-- The 64 chunks of a granule, from chunk `i` on. -/
def chunks64 : Nat → List Byte → List (List Byte)
  | 0, _ => []
  | n + 1, bs => bs.take 64 :: chunks64 n (bs.drop 64)
/-- The bytes of the filing of a step for a granule. -/
def filing (step g : Nat) (delta : List Byte) : List Byte :=
  let cs := chunks64 64 delta
  let records := (cs.filter fun c => chunkMask c ≠ 0).flatMap fun c => natBytes 8 (chunkMask c) ++ c.filter (· ≠ 0)
  let cmask := cs.zipIdx.foldl (fun m (c, i) => if chunkMask c = 0 then m else m + 2 ^ i) 0
  natBytes 4 step ++ natBytes 4 g ++ natBytes 4 records.length ++ natBytes 4 0 ++ natBytes 8 cmask ++
    List.replicate 40 0 ++ records
/-- The XOR of two granules. -/
def xorBytes (a b : List Byte) : List Byte := List.zipWith (· ^^^ ·) a b
/-- 32-bit words of bytes. -/
def words32 : Nat → List Byte → List W32
  | 0, _ => []
  | n + 1, bs => BitVec.ofNat 32 (leNat (bs.take 4)) :: words32 n (bs.drop 4)
/-- Bytes of 32-bit words. -/
def bytes32 (ws : List W32) : List Byte := ws.flatMap fun w => natBytes 4 w.toNat

namespace State

/-- The decompressed filing of a step for a granule, or FILING_BAD. -/
def readFiling (s : State) (p : Party) (no : Nat) (t : Tpb) (step g : Nat) : Except UnitFault (List Byte) :=
  let a := t.slot step g
  match s.unitRead p no .sc a 64 with
  | .error e => .error e
  | .ok h =>
    let len := recNat h 8 4
    let bad : UnitFault := (0x44, BitVec.ofNat 64 a)
    if recNat h 0 4 ≠ step ∨ recNat h 4 4 ≠ g ∨ 4608 < len ∨ !recZero h 12 4 ∨ !recZero h 24 40 then .error bad
    else
      match (if len = 0 then .ok [] else s.unitRead p no .sc (a + 64) len) with
      | .error e => .error e
      | .ok body =>
        match unfile (recNat h 16 8) 64 0 body with
        | none => .error bad
        | some x => .ok x

/-! ### Resolving a named step (R291 to R294) -/

/-- `Rebuild`: `n` filings above a step are taken off, the latest first (R293). -/
def rebuild (s : State) (p : Party) (no : Nat) (t : Tpb) (g step : Nat) : Nat → List Byte → Except UnitFault (List Byte)
  | 0, x => .ok x
  | n + 1, x =>
    match s.readFiling p no t (step + n + 1) g with
    | .error e => .error e
    | .ok f => rebuild s p no t g step n (xorBytes x f)

end State

/-- `Extrapolate` of one element (R294). -/
def extrapolate (t : Tpb) (k : Nat) (w m v : W32) : W32 :=
  let a := Num.rne32 (Num.mulV (.ofInt k) (Num.val32 t.lr)).1
  let q := if t.adaptive then Num.div32 m (Num.add32 (Num.sqrt32 v) t.eps) else m
  Num.sub32 w (Num.mul32 a q)

/-- What a granule resolves to: its bytes, whether it was rebuilt, and its k. -/
structure Resolved where
  data : List Byte
  rebuilt : Bool
  k : Nat
  deriving DecidableEq, Repr

namespace State

/-- One granule at a named step (R291, R292). -/
def resolveGran (s : State) (p : Party) (no : Nat) (t : Tpb) (step g : Nat) : Except UnitFault Resolved :=
  match s.unitRead p no .sc (t.hbase + 4 * g) 4, s.unitRead p no .sc (t.mbase + 4096 * g) 4096 with
  | .error e, _ => .error e
  | _, .error e => .error e
  | .ok hw, .ok data =>
    let h := leNat hw
    if step = h then .ok { data := data, rebuilt := false, k := 0 }
    else if step < h then
      match s.rebuild p no t g step (h - step) data with
      | .error e => .error e
      | .ok x => .ok { data := x, rebuilt := true, k := 0 }
    else
      let sec := if t.adaptive then s.unitRead p no .sc (t.secb + 4096 * g) 4096 else .ok []
      match s.unitRead p no .sc (t.momb + 4096 * g) 4096, sec with
      | .error e, _ => .error e
      | _, .error e => .error e
      | .ok mom, .ok sec =>
        let ms := words32 1024 mom
        let vs := words32 1024 sec
        let xs := (words32 1024 data).zipIdx.map fun (w, i) => extrapolate t (step - h) w (ms.getD i 0) (vs.getD i 0)
        .ok { data := bytes32 xs, rebuilt := false, k := step - h }
/-- The granules of a list. -/
def resolveGrans (s : State) (p : Party) (no : Nat) (t : Tpb) (step : Nat) : List Nat → Except UnitFault (Tab Resolved)
  | [] => .ok []
  | g :: gs =>
    match s.resolveGran p no t step g, resolveGrans s p no t step gs with
    | .error e, _ => .error e
    | _, .error e => .error e
    | .ok r, .ok rs => .ok ((g, r) :: rs)

end State

/-- `STEPSTAT` of a resolution (R297); KMAX holds the three low bits of k (entry 94). -/
def stepStat (waited : Bool) (rs : Tab Resolved) : W32 :=
  let k := rs.foldl (fun m r => max m r.2.k) 0
  let cls := if k ≠ 0 then 2 else if waited then 1 else 0
  BitVec.ofNat 32 (cls + (if rs.any fun r => r.2.rebuilt then 4 else 0) + 256 * (k % 8))
/-- The granules that a request's tile touches. -/
def TileReq.grans (t : TileReq) : List Nat :=
  let b := t.box
  (b.rows.flatMap fun y =>
    let (lo, n) := b.span y
    let g0 := (lo - t.desc.doff) / 4096
    (List.range ((lo + n - 1 - t.desc.doff) / 4096 + 1 - g0)).map fun i => g0 + i).eraseDups

/-! ### Temper updates (R301) -/

/-- The gradient of a block after clipping. -/
def clipBlock (clip : W32) (gs : List W32) : List W32 :=
  let n := Num.sqrt32 (gs.foldl (fun a g => Num.fma32 g g a) 0)
  if Num.lt32 clip n then
    let f := Num.div32 clip n
    gs.map fun g => Num.mul32 g f
  else gs
/-- Blocks of 256 elements. -/
def clipAll (clip : W32) : Nat → List W32 → List W32
  | 0, _ => []
  | n + 1, gs => clipBlock clip (gs.take 256) ++ clipAll clip n (gs.drop 256)
/-- One element's new weight, momentum and second moment. -/
def temper (t : Tpb) (g w m v : W32) : W32 × W32 × W32 :=
  let m' := Num.fma32 t.b1 m (Num.mul32 t.c1 g)
  let v' := if t.adaptive then Num.fma32 t.b2 v (Num.mul32 t.c2 (Num.mul32 g g)) else 0
  let q := if t.adaptive then Num.div32 m' (Num.add32 (Num.sqrt32 v') t.eps) else m'
  (Num.sub32 w (Num.mul32 t.lr q), m', v')

namespace State

/-- The cells that a temper unit writes for one granule at a new step, in one step (R301). -/
def temperCells (s : State) (p : Party) (no : Nat) (t : Tpb) (skip : Bool) (grad step g : Nat) :
    Except UnitFault (List (Nat × Byte)) :=
  let mark := cellsAt (t.hbase + 4 * g) (natBytes 4 step)
  let at0 := t.slot step g
  if skip then .ok (mark ++ cellsAt at0 (filing step g (List.replicate 4096 0)))
  else
    let a := grad + 4096 * g
    let sec := if t.adaptive then s.unitRead p no .near (t.secb + 4096 * g) 4096 else .ok []
    if s.eccHit a 4096 then .error (0x3D, BitVec.ofNat 64 a)
    else
      match s.unitRead p no .near (t.mbase + 4096 * g) 4096, s.unitRead p no .near (t.momb + 4096 * g) 4096, sec with
      | .ok old, .ok mom, .ok sec =>
        let gs := clipAll t.clip 4 (words32 1024 (s.loadAsOf p .near no a 4096))
        let ms := words32 1024 mom
        let vs := words32 1024 sec
        let out := ((words32 1024 old).zip gs).zipIdx.map fun ((w, g), i) => temper t g w (ms.getD i 0) (vs.getD i 0)
        let new := bytes32 (out.map (·.1))
        .ok (cellsAt (t.mbase + 4096 * g) new ++ cellsAt (t.momb + 4096 * g) (bytes32 (out.map (·.2.1))) ++
          (if t.adaptive then cellsAt (t.secb + 4096 * g) (bytes32 (out.map (·.2.2))) else []) ++
          mark ++ cellsAt at0 (filing step g (xorBytes new old)))
      | .error e, _, _ => .error e
      | _, .error e, _ => .error e
      | _, _, .error e => .error e

/-- The granules from one on, each still at the step before: the state, how many were written, and a fault (R301). -/
def temperGrans (s : State) (p : Party) (no : Nat) (t : Tpb) (skip : Bool) (grad step : Nat) : List Nat → Nat → State × Nat × Option UnitFault
  | [], k => (s, k, none)
  | g :: gs, k =>
    match s.unitRead p no .near (t.hbase + 4 * g) 4 with
    | .error e => (s, k, some e)
    | .ok mark =>
      if leNat mark = step then temperGrans s p no t skip grad step gs k
      else
        match s.temperCells p no t skip grad step g with
        | .error e => (s, k, some e)
        | .ok cells => temperGrans (s.appendWrite p .near cells fullVis) p no t skip grad step gs (k + 1)

end State

end Sys2Proof.Machine
end

