-- ==== Sys2Proof/Machine/Matrix.lean ====
section
/-! DEFINITION.  The matrix engine (R196 to R222): the checks of a push, the sequencing of commands, and the meaning of
every command but the projections. -/

namespace Sys2Proof.Machine

/-! ### Checks of a push (R198, R200) -/

/-- An A format with its width and scale source (R203). -/
def aFmtOk (af : Fmt) (aw scl : BitVec 2) : Bool :=
  2 ≤ af.toNat && af.toNat ≤ 6 && aw ≠ 3 && scl ≠ 3 && !((af = 5 || af = 6) && aw ≠ 0) && !(af = 2 && scl ≠ 0)
/-- A B format with its width (R207). -/
def bFmtOk (bf : Fmt) (bw : BitVec 2) : Bool :=
  ((2 ≤ bf.toNat && bf.toNat ≤ 6) || bf = 13) && bw ≠ 3 && !((bf = 5 || bf = 6 || bf = 13) && bw ≠ 0)
/-- A result format of a drain (R213). -/
def outFmtOk (f : Fmt) : Bool := f.toNat ≤ 7 || f = 9

/-- M of a tile (R200). -/
def tileM (mrows : BitVec 6) : Nat := (mrows.toNat + 1) * 8
/-- N of a tile. -/
def tileN (ncols : BitVec 3) : Nat := (ncols.toNat + 1) * 32
/-- The rows lie in the accumulator rows of the job's partition (R200, R422). -/
def rowsOk (part : Nat) (row0 : BitVec 9) (mrows : BitVec 6) : Bool :=
  (partRows part).1 ≤ row0.toNat && row0.toNat + tileM mrows ≤ (partRows part).2
/-- The rows and columns of a tile. -/
def tileOk (part : Nat) (t : MxTile) : Bool :=
  rowsOk part t.row0 t.mrows && t.col0.toNat * 32 + tileN t.ncols ≤ 256
/-- The rows per logical row, and the tile they need (R227). -/
def spanOk (t : MxTile) (span : BitVec 4) : Bool :=
  span = 0 || (t.col0 = 0 && t.ncols = 7 && tileM t.mrows % (span.toNat + 1) = 0)

/-- The largest K of a B format (R196). -/
def maxK (bf : Fmt) : Nat := if bf = 13 then 1024 else if bf = 2 then 256 else 512
/-- The bytes of a column of K elements. -/
def colBytes (bf : Fmt) (k : Nat) : Nat := k * Num.width bf / 8

/-- What the fields of a record fix, apart from an entry of the format table (R200, R203, R207, R213, R226, R239). -/
def mxRecordOk (part : Nat) : Instr → Bool
  | .mma r => mmaOk r
  | .mmaz r => mmaOk r
  | .abank r => mmaOk r
  | .bload r =>
    (if r.bf = 15 then r.bw = 0 else bFmtOk r.bf r.bw) && r.place ≠ 3 &&
      (r.src || (r.place = 0 && r.hreg = 0 && fld r.baddr 21 11 = 0))
  | .accz r => tileOk part r.tile
  | .drain r => drainOk r
  | .prj r =>
    drainOk r.drain && r.set.toNat ≤ 4 && r.rsrc ≠ 3 && (r.set.toNat < 3 || r.rsrc = 0) && spanOk r.drain.tile r.span
  | .prjadj r =>
    (if r.outf = 15 then r.rm = 0 && r.ovf = 0 else outFmtOk r.outf && rmOk r.rm) && tileOk part r.tile &&
      r.set.toNat ≤ 4 && spanOk r.tile r.span
  | _ => true
where
  /-- The fields of `MMA`. -/
  mmaOk (r : MmaRec) : Bool :=
    (if r.af = 15 then r.aw = 0 && r.scl = 0 else aFmtOk r.af r.aw r.scl) && !(r.scl = 2 && !r.oq) &&
      !(r.oq && (r.aaddr ≠ 0 || r.astride ≠ 0)) && r.astride.toNat % 16 = 0 && rowsOk part r.row0 r.mrows
  /-- The fields of `DRAIN`. -/
  drainOk (r : DrainRec) : Bool :=
    (if r.outf = 15 then r.rm = 0 && r.ovf = 0 else outFmtOk r.outf && rmOk r.rm) && r.act.toNat ≤ 5 &&
      tileOk part r.tile

/-- Whether a record takes its formats from the format table. -/
def mxUsesFt : Instr → Bool
  | .mma r => r.af = 15
  | .mmaz r => r.af = 15
  | .abank r => r.af = 15
  | .bload r => r.bf = 15
  | .drain r => r.outf = 15
  | .prj r => r.drain.outf = 15
  | .prjadj r => r.outf = 15
  | _ => false

/-- A, width and scale source of an `MMA`, from its record or the entry. -/
def mmaFmt (r : MmaRec) (e : W32) : Fmt × BitVec 2 × BitVec 2 :=
  if r.af = 15 then (fld e 0 4, fld e 12 2, fld e 14 2) else (r.af, r.aw, r.scl)
/-- B and width of a `BLOAD`. -/
def bloadFmt (r : BloadRec) (e : W32) : Fmt × BitVec 2 :=
  if r.bf = 15 then (fld e 4 4, fld e 12 2) else (r.bf, r.bw)
/-- Result format, rounding code and policy of a drain. -/
def outFmt (f : Fmt) (rm : BitVec 3) (ovf : BitVec 2) (e : W32) : Fmt × BitVec 3 × BitVec 2 :=
  if f = 15 then (fld e 8 4, fld e 16 3, fld e 19 2) else (f, rm, ovf)

/-- Whether an entry supplies formats that the command accepts (R200).  DESIGN CHOICE (entry 80): an `MMA` has no B
field, so only the entry's A is checked at the push; a pair outside R62 is met when the command executes (MX_SLOT). -/
def mxEntryOk (e : W32) : Instr → Bool
  | .mma r => mmaOk r
  | .mmaz r => mmaOk r
  | .abank r => mmaOk r
  | .bload _ => bFmtOk (fld e 4 4) (if fld e 4 4 = 2 || fld e 4 4 = 3 || fld e 4 4 = 4 then fld e 12 2 else 0)
  | _ => outFmtOk (fld e 8 4)
where
  /-- The entry of an `MMA`; the width of an integer operand is not used. -/
  mmaOk (r : MmaRec) : Bool :=
    aFmtOk (fld e 0 4) (if fld e 0 4 = 5 || fld e 0 4 = 6 then 0 else fld e 12 2) (fld e 14 2) &&
      !(fld e 14 2 = 2 && !r.oq)

/-- The shape of a `BLOAD` with its formats known (R196, R207). -/
def bloadShapeOk (r : BloadRec) (bf : Fmt) : Bool :=
  let k := (r.kb.toNat + 1) * 64
  k ≤ maxK bf && colBytes bf k ≤ r.cstr.toNat * 16 && (bf = 13 || r.saddr = 0)
/-- The bytes from the first to the last that a `BLOAD` reads of B. -/
def bloadBytes (r : BloadRec) (bf : Fmt) : Nat :=
  r.nb.toNat * 32 * (r.cstr.toNat * 16) + 31 * (r.cstr.toNat * 16) + colBytes bf ((r.kb.toNat + 1) * 64)
/-- The scale bytes of an F4 operand. -/
def bloadScales (r : BloadRec) : Nat := tileN r.nb * ((r.kb.toNat + 1) * 64) / 32
/-- The destination row stride must hold a row (R213). -/
def dstrOk (f : Fmt) (ncols : BitVec 3) (dstr : BitVec 12) : Bool := tileN ncols * fmtSize f ≤ dstr.toNat * 16
/-- The bytes of a drain's destination. -/
def drainBytes (f : Fmt) (t : MxTile) (dstr : BitVec 12) : Nat :=
  (tileM t.mrows - 1) * (dstr.toNat * 16) + tileN t.ncols * fmtSize f

namespace State

/-- The checks of a record that depend on its formats: shape, handle and source, and core-scratch footprints. -/
def mxFootprint (s : State) (e : W32) : Instr → Chk
  | .mma r => mma r
  | .mmaz r => mma r
  | .abank r => mma r
  | .bload r =>
    let bf := (bloadFmt r e).1
    let n := bloadBytes r bf
    (need (bloadShapeOk r bf) 0x28).and fun _ =>
      if r.src then
        (s.chkHandle r.hreg r.baddr.toNat n 16 1).and fun _ =>
        (if bf = 13 then s.chkHandle r.hreg r.saddr.toNat (bloadScales r) 16 1 else .ok).and fun _ =>
        need (!Handle.remote (s.h r.hreg) && (r.place ≠ 1 || inHbm (Handle.addr (s.h r.hreg)).toNat)) 0x29
      else
        (s.chkScratch r.baddr.toNat n 16).and fun _ =>
        if bf = 13 then s.chkScratch r.saddr.toNat (bloadScales r) 16 else .ok
  | .drain r => drain r 64
  | .prj r => drain r.drain 128
  | .prjadj r =>
    let f := (outFmt r.outf r.rm r.ovf e).1
    (s.chkScratch (r.dst.toNat * 64) (drainBytes f r.tile r.dstr) 64).and fun _ =>
    s.chkScratch (r.pb.toNat * 64) 64 64
  | _ => .ok
where
  /-- The A operand of `MMA`; K is not known yet (R203). -/
  mma (r : MmaRec) : Chk :=
    if r.oq then .ok
    else
      s.chkScratch r.aaddr.toNat ((tileM r.mrows - 1) * r.astride.toNat + 512 * fmtSize (mmaFmt r e).1) 16
  /-- The destination and parameter block of a drain. -/
  drain (r : DrainRec) (pbLen : Nat) : Chk :=
    let f := (outFmt r.outf r.rm r.ovf e).1
    (need (dstrOk f r.tile.ncols r.dstr) 0x28).and fun _ =>
    (s.chkScratch (r.dst.toNat * 64) (drainBytes f r.tile r.dstr) 64).and fun _ =>
    s.chkScratch (r.pb.toNat * 64) pbLen 64

/-- The checks of a push, in order, with the format-table entry captured (R198). -/
def mxCheck (s : State) (rec : BitVec 128) : Chk × W32 :=
  match decodeMx rec with
  | none => (.fault 0x28 0, 0)
  | some i =>
    if !mxRecordOk s.part i then (.fault 0x28 0, 0)
    else if mxUsesFt i then
      match ftRead s.me with
      | .error code => (.fault code 0, 0)
      | .ok e => if mxEntryOk e i then (s.mxFootprint e i, e) else (.fault 0x1C 0, 0)
    else (s.mxFootprint 0 i, 0)

/-- The handle a record names. -/
def mxHandle (s : State) (rec : BitVec 128) : Handle :=
  match decodeMx rec with
  | some (.bload r) => if r.src then s.h r.hreg else 0
  | _ => 0

end State

/-! ### How a command ends (R201, R202, R222) -/

/-- How the execution of a started command ends. -/
inductive MeEnd where
  | done (s : State)
  /-- it waits on the scale FIFO or the operand queue (R206) -/
  | wait (s : State)
  /-- it faults with a code, an address and a progress count -/
  | fault (s : State) (code : Nat) (addr : Word) (progress : Nat)

/-- Signals of dropped commands (R220): an increment past 255 is not applied. -/
def Bank.dropSignals (b : Bank) : Bank :=
  b.dropSig.foldl (fun b x => if b.sem x.1 ≤ 254 then b.semGive x.1 1 x.2 else b) { b with dropSig := [] }
/-- The wait of a command on a semaphore; the chains of its increments pass to the ME (R202, R369). -/
def Bank.meWait (b : Bank) (i : BitVec 4) : Bank :=
  { b.semTake .ce i 1 with ce := b.ce, meClk := joinClk b.meClk (tget [] b.semClk i.toNat) }

namespace State

/-- A fault of the ME (R222): it stops, the queue is discarded without signals, and the fault is owed to the CE; where
the job is over, the command is just over (R417). -/
def meFault (s : State) (c : Nat) (m : MqEntry) (code : Nat) (addr : Word) (progress : Nat) : State :=
  let o : Owed :=
    { seq := 0, code := code, cls := 1
      words := [m.pc, addr, fld m.record 0 64, fld m.record 64 64, BitVec.ofNat 64 progress]
      since := s.coreCycles c, me := true }
  if (s.bank c).st = .empty then s.afterStop c
  else s.modBank c fun b =>
    { b.mod .ce (fun t => { t with owed := t.owed ++ [o] }) with mq := [], meStopped := true, dropSig := [] }

/-- What a command that completed has done, as TRAPREC[4] counts it: A rows, columns loaded or rows stored
(R222). -/
def meProgress (m : MqEntry) (b : Bank) : Nat :=
  match decodeMx m.record with
  | some (.mma r) => tileM r.mrows
  | some (.mmaz r) => tileM r.mrows
  | some (.abank r) => tileM r.mrows
  | some (.bload r) =>
    match b.wslot r.slot with
    | .anvil .. => tileN r.nb
    | _ => 0
  | some (.drain r) => tileM r.tile.mrows
  | some (.prj r) => tileM r.drain.tile.mrows
  | some (.prjadj r) => tileM r.tile.mrows
  | _ => 0

/-- A command completes: it leaves the queue, and its signal is delivered (R201, R202); it carries the chain of its push,
those of the ME's waits, and the ME's work so far (R369).  Where the job is over, nothing is signalled (R417). -/
def meDone (s : State) (c : Nat) (m : MqEntry) : State :=
  let h := mxHdr m.record
  let b := s.bank c
  let b := { b with mq := b.mq.tail, stuckSince := none, stuckFor := 0 }
  if b.st = .empty then s.afterStop c
  else if h.sse then
    if b.sem h.ssi ≤ 254 then
      s.setBank c (b.semGive h.ssi 1 (joinClk m.clk (raiseClk b.meClk .ce 1 s.nextId))).dropSignals
    else s.meFault c m 0x19 0 (meProgress m (s.bank c))
  else s.setBank c b.dropSignals

/-- The ME executes the started command at the head of its queue. -/
def meRun (s : State) (body : Nat → MqEntry → State → MeEnd) : State :=
  match s.cur with
  | .me c =>
    match (s.bank c).mq with
    | [] => s.pass 1
    | m :: _ =>
      if m.started then
        match body c m s with
        | .done t => t.meDone c m
        | .wait t => t.pass 1
        | .fault t code addr progress => t.meFault c m code addr progress
      else s.pass 1
  | _ => s.illegal

/-- The AE stream has ended or has no image (R206). -/
def aeOver (s : State) (c : Nat) : Bool := (s.bank c).ae.life ≠ .running

/-! ### Accumulator memory (R14) -/

/-- An accumulator value of a core. -/
def accGet (s : State) (c row col : Nat) : W32 := tget 0 (s.core c).acc (256 * row + col)
/-- Writes one. -/
def accPut (s : State) (c row col : Nat) (v : W32) : State :=
  s.modCore c fun k =>
    { k with acc := if v = 0 then tdel k.acc (256 * row + col) else tset k.acc (256 * row + col) v }
/-- Writes columns of a row from a first one on. -/
def accPutRow (s : State) (c row col : Nat) : List W32 → State
  | [] => s
  | v :: vs => (s.accPut c row col v).accPutRow c row (col + 1) vs
/-- Columns of a row. -/
def accGetRow (s : State) (c row col n : Nat) : List W32 := (List.range n).map fun i => s.accGet c row (col + i)

end State

/-! ### Operands of `MMA` -/

/-- A column of B as blocks (R208). -/
def bBlocks (bf : Fmt) (w k : Nat) (bs : List Byte) (scales : List Byte) : List Num.Block :=
  let cs := chunks32 (k / 32) (codesOf bf bs)
  if bf = 13 then List.zipWith (fun c (t : Byte) => Num.f4AlignBlock t.toNat c) cs scales
  else cs.map (Num.alignBlock bf w)

/-- K, N, B format and width of a slot that holds an operand (R197). -/
def WSlot.shape : WSlot → Option (Nat × Nat × Fmt × BitVec 2)
  | .anvil k n bf bw _ _ => some (k, n, bf, bw)
  | .bank k n bf bw _ _ _ _ => some (k, n, bf, bw)
  | _ => none
/-- The state code of a slot (R197). -/
def WSlot.code : WSlot → Nat
  | .empty => 0
  | .loading => 1
  | .anvil .. => 2
  | .bank .. => 3

namespace State

/-- The blocks of column `j` of a slot: from the macros, or read from HBM now (R208, R209).  DESIGN CHOICE (entry 81):
an operand at the banks is read when the command executes, so a store since its `BLOAD` is seen. -/
def slotCol (s : State) (j : Nat) : WSlot → List Num.Block
  | .anvil k _ bf bw cells scales =>
    bBlocks bf (Num.alignWidth bw) k (cells.readN (j * colBytes bf k) (colBytes bf k)) (scales.readN (j * (k / 32)) (k / 32))
  | .bank k _ bf bw h baddr cstr saddr =>
    bBlocks bf (Num.alignWidth bw) k
      (s.loadBytes s.party s.ownPath ((Handle.addr h).toNat + baddr + j * cstr) (colBytes bf k))
      (if bf = 13 then s.loadBytes s.party s.ownPath ((Handle.addr h).toNat + saddr + j * (k / 32)) (k / 32) else [])
  | _ => []

/-- Whether an uncorrectable error stands in what a bank slot reads (R283). -/
def slotBad (s : State) : WSlot → Option Nat
  | .bank k n bf _ h baddr cstr saddr =>
    let base := (Handle.addr h).toNat
    let cols := (List.range n).filterMap fun j =>
      if s.eccHit (base + baddr + j * cstr) (colBytes bf k) then some (base + baddr + j * cstr)
      else if bf = 13 && s.eccHit (base + saddr + j * (k / 32)) (k / 32) then some (base + saddr + j * (k / 32))
      else none
    cols.head?
  | _ => none

/-- Pops packets of the scale FIFO for a command (R205): what it has, the rest of the FIFO, and whether a packet did
not match. -/
def takePackets (seq : Byte) (total : Nat) : List Byte → List Packet → List Byte × List Packet × Bool
  | got, [] => (got, [], false)
  | got, p :: ps =>
    if total ≤ got.length then (got, p :: ps, false)
    else if p.tag ≠ seq ∨ total < got.length + p.bytes.length then (got, ps, true)
    else takePackets seq total (got ++ p.bytes) ps

/-- Rows of an `MMA` from the first on (R204). -/
def mmaRows (s : State) (c : Nat) (r : MmaRec) (cols : List (List Num.Block)) (zero : Bool)
    (row : Nat → List Num.Block) : Nat → Nat → State
  | _, 0 => s
  | i, n + 1 =>
    let as := row i
    let acc := r.row0.toNat + i
    let base := r.col0.toNat * 32
    let out := cols.zipIdx.map fun (bs, j) => Num.dot as bs (if zero then none else some (s.accGet c acc (base + j)))
    (s.accPutRow c acc base out).mmaRows c r cols zero row (i + 1) n

/-- `MMA`, `MMAZ` and `ABANK` (R204, R205, R210). -/
def mmaBody (r : MmaRec) (zero onlyBank : Bool) (c : Nat) (m : MqEntry) (s : State) : MeEnd :=
  let b := s.bank c
  let w := b.wslot (if onlyBank then !b.active else b.active)
  let (af, aw, scl) := mmaFmt r m.fte
  let mm := tileM r.mrows
  match w.shape with
  | none => .fault s 0x2A 0 0
  | some (k, n, bf, _) =>
    let rowB := k * fmtSize af
    let isBank := decide (w.code = 3)
    let stale := match w with
      | .bank _ _ _ _ h _ _ _ => !Handle.v h
      | _ => false
    if onlyBank && !isBank then .fault s 0x2A 0 0
    else if !Num.pairOk af bf || decide (256 < r.col0.toNat * 32 + n) || (r.af = 15 && fld m.fte 4 4 ≠ bf) ||
        (!r.oq && decide (r.astride.toNat < rowB)) then .fault s 0x2A 0 0
    else if stale then .fault s 0x06 0 0
    else
      let range := if r.oq then Chk.ok
        else s.chkScratch r.aaddr.toNat ((mm - 1) * r.astride.toNat + rowB) 16
      match range with
      | .fault code addr => .fault s code addr 0
      | _ =>
        match s.slotBad w with
        | some a => .fault (s.depositSev 0 4 1 (BitVec.ofNat 64 a)) 0x3D (BitVec.ofNat 64 a) 0
        | none =>
          let tile := b.oq.head?
          if r.oq && tile.isNone then (if s.aeOver c then .fault s 0x2C 0 0 else .wait s)
          else
            let q := tile.getD { m := 0, k := 0, fmt := 0, bytes := [], scales := [] }
            let popOq := fun (s : State) => if r.oq then s.modBank c fun b => { b with oq := b.oq.tail } else s
            let nb := k / 32
            if r.oq && (q.m ≠ mm || q.k ≠ k || q.fmt ≠ af || q.scales.length ≠ (if scl = 2 then mm * nb else 0)) then
              .fault (popOq s) 0x2B 0 0
            else
              let cols := (List.range n).map fun j => s.slotCol j w
              let bytes := fun (i : Nat) => if r.oq then (q.bytes.drop (i * rowB)).take rowB
                else s.scratchBytes s.ownPath (r.aaddr.toNat + i * r.astride.toNat) rowB
              if scl = 1 then
                let (got, rest, bad) := takePackets r.seq (mm * nb) m.got b.fifo
                let row := fun (i : Nat) => aBlocks af (Num.alignWidth aw) k (bytes i) ((got.drop (i * nb)).take nb)
                let s := s.modBank c fun b => { b with fifo := rest }
                let part := got.length / nb
                if bad then .fault ((popOq s).mmaRows c r cols zero row 0 part) 0x2B 0 part
                else if got.length < mm * nb then
                  if s.aeOver c then .fault ((popOq s).mmaRows c r cols zero row 0 part) 0x2C 0 part
                  else .wait (s.modBank c fun b => { b with mq := { m with got := got } :: b.mq.tail })
                else .done ((popOq s).mmaRows c r cols zero row 0 mm)
              else
                let row := fun (i : Nat) => aBlocks af (Num.alignWidth aw) k (bytes i)
                  (if scl = 2 then (q.scales.drop (i * nb)).take nb else [])
                .done ((popOq s).mmaRows c r cols zero row 0 mm)

/-! ### `BLOAD` (R207 to R209) -/

/-- The placement decided at the start of a `BLOAD` (R209, entry 18): whether the operand stays at the banks. -/
def bloadAtBank (s : State) (r : BloadRec) (h : Handle) : Bool :=
  r.place = 1 || (r.place = 2 && inHbm (Handle.addr h).toNat && (r.rh.toNat ≤ 4 || Config.autoBusy s.freeCtr))

/-- `BLOAD` (R208, R209): a fault while reading leaves the slot EMPTY. -/
def bloadBody (r : BloadRec) (c : Nat) (m : MqEntry) (s : State) : MeEnd :=
  let (bf, bw) := bloadFmt r m.fte
  let k := (r.kb.toNat + 1) * 64
  let n := tileN r.nb
  let cstr := r.cstr.toNat * 16
  let base := if r.src then (Handle.addr m.h).toNat else windowBase c
  let colAt := fun (j : Nat) => base + r.baddr.toNat + j * cstr
  let sclAt := fun (j : Nat) => base + r.saddr.toNat + j * (k / 32)
  let atBank := r.src && s.bloadAtBank r m.h
  let s := if r.place = 2 then s.takeFree else s
  let bad := (List.range n).find? fun j =>
    s.eccHit (colAt j) (colBytes bf k) || (bf = 13 && s.eccHit (sclAt j) (k / 32))
  if r.src && !Handle.v m.h then .fault (s.modBank c fun b => b.setWslot r.slot .empty) 0x06 0 0
  else if atBank then
    .done (s.modBank c fun b => b.setWslot r.slot (.bank k n bf bw m.h r.baddr.toNat cstr r.saddr.toNat))
  else
    match bad with
    | some j =>
      let a := BitVec.ofNat 64 (if s.eccHit (colAt j) (colBytes bf k) then colAt j else sclAt j)
      .fault ((s.modBank c fun b => b.setWslot r.slot .empty).depositSev 0 4 1 a) 0x3D a j
    | none =>
      let cells := (List.range n).foldl (fun (mem : Memory) j =>
        mem.writeN (j * colBytes bf k) (s.loadBytes s.party s.ownPath (colAt j) (colBytes bf k))) []
      let scales := if bf = 13 then (List.range n).foldl (fun (mem : Memory) j =>
        mem.writeN (j * (k / 32)) (s.loadBytes s.party s.ownPath (sclAt j) (k / 32))) [] else []
      let s := s.ask ((List.range n).flatMap fun j => [(colAt j, colBytes bf k), (sclAt j, if bf = 13 then k / 32 else 0)])
      .done (s.modBank c fun b => b.setWslot r.slot (.anvil k n bf bw cells scales))

/-- `ACCZ` (R212). -/
def acczRows (s : State) (c : Nat) (t : MxTile) : State :=
  (List.range (tileM t.mrows)).foldl (fun s i =>
    s.accPutRow c (t.row0.toNat + i) (t.col0.toNat * 32) (List.replicate (tileN t.ncols) 0)) s

end State

/-! ### The drain pipeline (R213 to R217) -/

/-- The drain parameter block (R214). -/
structure DrainParam where
  scale : W32
  bias : Nat
  res : Nat
  rstr : Nat
  rfmt : Nat
  t : Nat
  dscl : W32
  seed : Word
  step : W32
  tid : BitVec 16
  rowb : W32
  colb : W32
  deriving DecidableEq, Repr

/-- A little-endian field of a block of bytes. -/
def fieldAt (bs : List Byte) (off n : Nat) : Nat := leNat ((bs.drop off).take n)
/-- The block's fields. -/
def drainParam (bs : List Byte) : DrainParam :=
  { scale := BitVec.ofNat 32 (fieldAt bs 0 4), bias := fieldAt bs 4 4, res := fieldAt bs 8 4, rstr := fieldAt bs 12 4
    rfmt := fieldAt bs 16 1, t := fieldAt bs 20 2, dscl := BitVec.ofNat 32 (fieldAt bs 24 4)
    seed := BitVec.ofNat 64 (fieldAt bs 32 8), step := BitVec.ofNat 32 (fieldAt bs 40 4)
    tid := BitVec.ofNat 16 (fieldAt bs 44 2), rowb := BitVec.ofNat 32 (fieldAt bs 48 4)
    colb := BitVec.ofNat 32 (fieldAt bs 52 4) }

/-- The activations (R216). -/
def activate (act : BitVec 3) (a : W32) : W32 :=
  match act.toNat with
  | 1 => if Num.isNan32 a then a else if a.getLsbD 31 then 0 else a
  | 2 => Num.gelu32 a
  | 3 => Num.mul32 a (Num.sig32 a)
  | 4 => Num.tanh32 a
  | 5 => Num.sig32 a
  | _ => a

/-- The conversion to the result format (R215): its code, and the trap of policy 3.  FP32 is stored as it is but for a
NaN, which becomes the canonical one and under policy 3 traps (R54, R235, entry 38). -/
def drainCvt (f : Fmt) (mode : Num.RMode) (ovf : BitVec 2) (h : Nat) (a : W32) : Nat × Option Nat :=
  if f = 0 then
    if Num.isNan32 a then (Num.nan32.toNat, if ovf = 3 then some Num.fpInvalid else none) else (a.toNat, none)
  else
    let r := Num.cvt f mode ovf false h (Num.val32 a)
    (r.bits, r.trap)

/-- DO, ACT and the conversion of one element at a hash row and column (R215). -/
def drainPost (r : DrainRec) (fmt : Fmt × BitVec 3 × BitVec 2) (fcwRm : BitVec 3) (p : DrainParam) (row col : Nat) (a : W32) :
    Nat × Option Nat :=
  let mode := Num.RMode.ofCode (if fmt.2.1 = 7 then fcwRm else fmt.2.1)
  let h := Num.hash p.seed p.step p.tid (p.rowb + BitVec.ofNat 32 row) (p.colb + BitVec.ofNat 32 col)
  let a := if r.dropout then (if p.t ≤ (fld h 32 16).toNat then Num.mul32 a p.dscl else 0) else a
  drainCvt fmt.1 mode fmt.2.2 (fld h 0 16).toNat (activate r.act a)

/-- The worst trap of a row: FP_INVALID before FP_OVERFLOW (R217). -/
def rowTrap (xs : List (Nat × Option Nat)) : Option Nat := xs.foldl (fun t x => Num.worse t x.2) none

namespace State

/-- SC, BI and RS of tile row `i` (R215); the biases start at an index (R229).  An error is a fault and its address. -/
def drainPre (s : State) (c : Nat) (r : DrainRec) (p : DrainParam) (i biasFrom : Nat) : Except (Nat × Word) (List W32) :=
  let n := tileN r.tile.ncols
  let xs := s.accGetRow c (r.tile.row0.toNat + i) (r.tile.col0.toNat * 32) n
  let xs := if r.sc then xs.map fun a => Num.mul32 a p.scale else xs
  let bAt := p.bias + 4 * biasFrom
  let bChk := if r.bi then s.chkScratch bAt (4 * n) 4 else .ok
  match bChk with
  | .fault code addr => .error (code, addr)
  | _ =>
    let xs := if r.bi then
        xs.zipIdx.map fun (a, j) => Num.add32 a (BitVec.ofNat 32 (s.scratchNat s.ownPath (bAt + 4 * j) 4))
      else xs
    let sz := if p.rfmt = 0 then 4 else 2
    let rAt := p.res + i * p.rstr
    let rChk := if r.rs then s.chkScratch rAt (sz * n) sz else .ok
    match rChk with
    | .fault code addr => .error (code, addr)
    | _ =>
      .ok (if r.rs then
          xs.zipIdx.map fun (a, j) =>
            Num.add32 a (Num.rne32 (Num.decodeVal (BitVec.ofNat 4 p.rfmt) (s.scratchNat s.ownPath (rAt + sz * j) sz)))
        else xs)

/-- A row of results stored but for the ranges `kept`, and its accumulator row cleared under CLR (R215). -/
def drainStore (s : State) (c : Nat) (t : MxTile) (clr : Bool) (f : Fmt) (dst dstr i : Nat) (row : List Nat)
    (kept : List (Nat × Nat) := []) : State :=
  let s := s.storeUnits s.party s.ownPath 64 (s.scratchPhys (dst + i * dstr))
    ((row.map fun x => natBytes (fmtSize f) x).flatten) kept
  if clr then s.accPutRow c (t.row0.toNat + i) (t.col0.toNat * 32) (List.replicate row.length 0) else s

/-- Rows of a `DRAIN` from row `i` on (R215, R217). -/
def drainRows (c : Nat) (r : DrainRec) (m : MqEntry) (p : DrainParam) : Nat → Nat → State → MeEnd
  | _, 0, s => .done s
  | i, n + 1, s =>
    let fmt := outFmt r.outf r.rm r.ovf m.fte
    match s.drainPre c r p i 0 with
    | .error (code, addr) => .fault s code addr i
    | .ok xs =>
      let out := xs.zipIdx.map fun (a, j) => drainPost r fmt m.rm p i j a
      match rowTrap out with
      | some code => .fault s code 0 i
      | none =>
        drainRows c r m p (i + 1) n
          (s.drainStore c r.tile r.clr fmt.1 (r.dst.toNat * 64) (r.dstr.toNat * 16) i (out.map (·.1)))

/-- `DRAIN` (R213 to R217). -/
def drainBody (r : DrainRec) (c : Nat) (m : MqEntry) (s : State) : MeEnd :=
  let p := drainParam m.pb
  if r.rs && decide (2 < p.rfmt) then .fault s 0x2D 0 0
  else drainRows c r m p 0 (tileM r.tile.mrows) s

end State

/-! ### The commands -/

/-- `MNOP` (R212). -/
def execMnop (s : State) : Answer := .next (s.meRun fun _ _ s => .done s)
/-- `MMA` (R203, R204). -/
def execMma (r : MmaRec) (s : State) : Answer := .next (s.meRun (State.mmaBody r false false))
/-- `MMAZ` (R203, R204). -/
def execMmaz (r : MmaRec) (s : State) : Answer := .next (s.meRun (State.mmaBody r true false))
/-- `ABANK` (R210). -/
def execAbank (r : MmaRec) (s : State) : Answer := .next (s.meRun (State.mmaBody r false true))
/-- `BLOAD` (R207 to R209). -/
def execBload (r : BloadRec) (s : State) : Answer := .next (s.meRun (State.bloadBody r))
/-- `BSLOT` (R211). -/
def execBslot (r : BslotRec) (s : State) : Answer :=
  .next (s.meRun fun c _ s =>
    .done (s.modBank c fun b => if r.rel then b.setWslot r.slot .empty else { b with active := r.slot }))
/-- `ACCZ` (R212). -/
def execAccz (r : AcczRec) (s : State) : Answer := .next (s.meRun fun c _ s => .done (s.acczRows c r.tile))
/-- `DRAIN` (R213). -/
def execDrain (r : DrainRec) (s : State) : Answer := .next (s.meRun (State.drainBody r))
/-- `SEMSIG` (R212): its header is its effect. -/
def execSemsig (_h : MxHdr) (s : State) : Answer := .next (s.meRun fun _ _ s => .done s)

end Sys2Proof.Machine
end

