-- ==== Sys2Proof/Machine/System.lean ====
section
/-! DEFINITION.  Step registers, tokens, fences, system registers and system instructions of the shared control
subset (R122 to R137). -/

namespace Sys2Proof.Machine

namespace State

/-- An instruction that outposts reject (R72, R139). -/
def streamOnly (s : State) (e : End) : End := if s.inOutpost then .trapped s.illegal else e

end State

/-! ### Step registers (R122, R123) -/

/-- `KMOV kd, ga` (R122). -/
def execKmovKFromG (d : KReg) (a : GReg) (s : State) : Answer :=
  .next (State.ends 4 (s.streamOnly (.done (s.setK d (fld (s.g a) 0 32)))))
/-- `KMOV gd, ka` (R122). -/
def execKmovGFromK (d : GReg) (a : KReg) (s : State) : Answer :=
  .next (State.ends 4 (s.streamOnly (.done (s.setG d (zext (s.k a))))))
/-- `KMOV kd, ka` (R122). -/
def execKmovKFromK (d a : KReg) (s : State) : Answer :=
  .next (State.ends 4 (s.streamOnly (.done (s.setK d (s.k a)))))
/-- A step number plus an offset: NOW stays NOW, and the sum is held to 0 and 0xFFFF_FFFE (R123). -/
def stepAdd (k : W32) (imm : BitVec 13) : W32 :=
  if k = BitVec.allOnes 32 then k
  else BitVec.ofInt 32 (min (max ((k.toNat : Int) + imm.toInt) 0) 0xFFFFFFFE)
/-- `KADDI` (R123). -/
def execKaddi (d a : KReg) (imm : BitVec 13) (s : State) : Answer :=
  .next (State.ends 4 (s.streamOnly (.done (s.setK d (stepAdd (s.k a) imm)))))

/-! ### Tokens (R124 to R126) -/

/-- `TWAIT` (R124): one token from every named line, in one step; a reporting point. -/
def execTwait (m : BitVec 3) (s : State) : Answer :=
  .next (State.ends 4 (match s.cur with
    | .eng c e =>
      s.atPoint .twait fun _ =>
        if (s.bank c).canPop e m then .done (s.modBank c fun b => b.pop e m) else .wait s true
    | _ => .trapped s.illegal))
/-- `TSIG` (R125): one token to every named line, in one step; the signals of program-earlier instructions that
wait for room go first (R126). -/
def execTsig (m : BitVec 3) (s : State) : Answer :=
  .next (State.ends 4 (match s.cur with
    | .eng c e =>
      if (s.bank c).canPush e m && s.me.sigs.isEmpty then .done (s.modBank c fun b => b.push e m s.nextId) else .wait s true
    | _ => .trapped s.illegal))

/-! ### Fences (R127, R128, R376, R377) -/

/-- `FENCE` (R127, R376); in the AE it waits for every tile-class request (R311). -/
def execFence (scope : BitVec 3) (s : State) : Answer :=
  .next (State.ends 4 (s.atPoint .fence fun _ =>
    if s.fenceReady s.ownMask && s.me.reqs.isEmpty then .done (s.fencePaths s.ownMask scope.toNat) else .wait s false))
/-- `XFENCE` (R128, R377). -/
def execXfence (scope : BitVec 3) (paths : BitVec 6) (s : State) : Answer :=
  .next (State.ends 4 (s.atPoint .xfence fun _ =>
    if s.fenceReady paths then .done (s.fencePaths paths scope.toNat) else .wait s false))

/-- `WAITC` (R129). -/
def execWaitc (a : GReg) (s : State) : Answer :=
  .next (State.ends 4 (if (s.g a).ule s.cycWord then .done s else .wait s false))

/-! ### System registers (R36 to R38, R130) -/

namespace State

/-- `CTXID` of the agent that executes; an outpost reports the context of its call (R261, R357). -/
def ctxIdNow (s : State) : Word :=
  match s.cur with
  | .frame _ _ => BitVec.ofNat 64 s.curCtx.val
  | _ => ctxIdWord s.curBank.job

/-- Whether a step-named request of the stream has not ended (R297). -/
def stepOpen (t : Stream) : Bool := t.reqs.any fun r =>
  match r.kind with
  | .tile q => !q.store && q.desc.hv
  | _ => false

/-- What `CSRR` reads (R36), for the registers that are simply read. -/
def csrValue (s : State) (n : Nat) : Word :=
  let t := s.me
  if n = 0 then zext t.fcw
  else if n = 1 then t.amax
  else if n = 2 then zext t.vrb
  else if n = 3 then zext t.ftb
  else if n = 4 then zext t.ftsel
  else if 8 ≤ n ∧ n ≤ 0xB then tget 0 t.pm (n - 8)
  else if n = 0x10 then zext t.stepstat
  else if n = 0x20 then t.trappc
  else if n = 0x21 then t.trapcode
  else if 0x30 ≤ n ∧ n ≤ 0x37 then tget 0 t.traprec (n - 0x30)
  else if n = 0x40 then s.cycWord
  else if n = 0x41 then jobId s.curCore s.curBank.job
  else if n = 0x42 then s.ctxIdNow
  else if n = 0x43 then BitVec.ofNat 64 s.curBank.dq.length
  else if n = 0x44 then boolWord (s.ctx s.curCtx).gsf
  else if 0x48 ≤ n ∧ n ≤ 0x4F then tget 0 t.health (n - 0x48)
  else 0

/-- What `CSRW` of a value leaves in the stream, by the field maps of R56, R59, R152, R155, R158 and R40. -/
def csrStore (s : State) (n : Nat) (v : Word) : State :=
  if n = 0 then
    s.modMe fun t =>
      { t with fcw := setFld (fld v 0 13 |>.setWidth 32) 0 3 (if (fld v 0 3).toNat ≤ 4 then fld v 0 3 else fld t.fcw 0 3) }
  else if n = 1 then s.modMe fun t => { t with amax := v &&& 0x17FFFFFFF#64 }
  else if n = 2 then s.modMe fun t => { t with vrb := fld v 0 32 &&& 0x71F#32 }
  else if n = 3 then s.modMe fun t => { t with ftb := fld v 0 32 &&& 0x3F#32 }
  else if n = 4 then s.modMe fun t => { t with ftsel := fld v 0 32 &&& 3#32 }
  else if 8 ≤ n ∧ n ≤ 0xB then s.modMe fun t => { t with pm := tset t.pm (n - 8) v }
  else if n = 0x20 then s.modMe fun t => { t with trappc := v }
  else if n = 0x21 then (if v.getLsbD 16 && s.me.inTrap then s.clearH else s)
  else s

/-- A read of `STEPSTAT` (R297): it reports an owed fault when it issues; then it waits, and meanwhile reports only a fault
of a step-named request. -/
def stepStatBody (s : State) (d : GReg) : End :=
  let go := fun (s : State) =>
    if State.stepOpen s.me then .wait (s.modMe fun t => { t with waitId := 1 }) false else .done (s.setG d (s.csrValue 0x10))
  if s.me.waitId = 0 then s.atPoint .stepstat fun _ => go s
  else
    match firstOwed (s.me.owed.filter fun o => o.step) with
    | some o => .trapped (s.report o)
    | none => go s

/-- A register that exists in the agent that executes (R36, R139). -/
def csrHere (s : State) (n : Nat) : Bool :=
  match s.cur with
  | .eng _ .ve => true
  | .eng _ _ => n ≠ 2 && n ≠ 0x43
  | .frame _ _ => n = 0x40 || n = 0x42
  | .me _ => false

end State

/-- `CSRR` (R130): a read of `HEALTH[0]` takes the snapshot (R38); a read of `STEPSTAT` in the AE is a reporting
point and then waits (R297). -/
def execCsrr (d : GReg) (num : BitVec 12) (s : State) : Answer :=
  let n := num.toNat
  .next (State.ends 4
    (if !csrReadable num || !s.csrHere n then .trapped s.illegal
    else if n = 0x48 then
      let s := s.modMe fun t => { t with health := s.healthSnapshot }
      .done (s.setG d (s.csrValue n))
    else if n = 0x10 then s.stepStatBody d
    else .done (s.setG d (s.csrValue n))))
/-- `CSRW` (R130); outposts reject it (R139). -/
def execCsrw (num : BitVec 12) (a : GReg) (s : State) : Answer :=
  .next (State.ends 4
    (if s.inOutpost || !csrWritable num || !s.csrHere num.toNat then .trapped s.illegal
    else .done (s.csrStore num.toNat (s.g a))))

/-! ### Traps and no effect (R131, R136, R137) -/

/-- `TRAP` (R131): SOFTWARE_TRAP; the number stands in the reported word. -/
def execTrap (_n : BitVec 13) (s : State) : Answer := .next (s.trap 0x0B 0)
/-- `NOP` (R136). -/
def execNop (s : State) : Answer := .next (State.ends 4 (.done s))
/-- `TRET` (R137); outposts reject it (R139). -/
def execTret (s : State) : Answer := .next (if s.inOutpost then s.illegal else s.trapReturn)

/-! ### Regions and the end of a stream (R132, R134, R416) -/

namespace State

/-- The checkpoint slot of a job, when it has one: a stream's region record changes, and its bytes are written (R412). -/
def modSlot (s : State) (j : Job) (e : Eng) (f : RegionRec → RegionRec) : State :=
  State.saveRec
    { s with slots := s.slots.map fun x =>
        if !x.ended && x.ctx = j.ctx && x.idx = j.slot then { x with recs := tset x.recs e.num (f (tget {} x.recs e.num)) } else x }
    j.ctx j.slot e.num

end State

/-- The region record of a `REGION` at PC (R132, R412).  DESIGN CHOICE (entry 85): the order in which the loops were
started and whether `LOOPR` started them, which the record's table does not list, are kept with it. -/
def regionRec (t : Stream) (mask : BitVec 31) : RegionRec :=
  { rpc := t.pc + 8
    mask := mask
    loops := t.lc
    order := t.order
    regs := ((List.range 31).filter fun i => mask.getLsbD i).map fun i => (i + 1, t.rg (BitVec.ofNat 6 (i + 1))) }

namespace State

/-- The region of the stream that executes becomes sealed (R413). -/
def sealRegion (s : State) : State :=
  match s.cur with
  | .eng c e => (s.modSlot (s.bank c).job e fun r => { r with sealed := true }).modMe fun t => { t with sealed := true }
  | _ => s
/-- An instruction that seals its region: it stalls while a pre-emption of the gang is pending, unless the region is
sealed already (R416). -/
def sealing (s : State) (k : Unit → End) : End :=
  if !s.me.sealed && s.preemptPending s.curCore then .wait s false else k ()

/-- `REGION` writes its record; one that closes a sealed region under a pending pre-emption then stalls (R416). -/
def openRegion (s : State) (mask : BitVec 31) : End :=
  match s.cur with
  | .eng c e =>
    let j := (s.bank c).job
    let closes := s.me.sealed || s.me.waitId = 1
    let r := regionRec s.me mask
    let s := (s.modSlot j e fun _ => r).modMe fun t => { t with sealed := false, sealCount := 0 }
    if closes && s.preemptPending c then .wait (s.modMe fun t => { t with waitId := 1 }) false else .done s
  | _ => .done s

/-- A remote call whose time is over (R363). -/
def callOver (s : State) (r : RemAcc) : Bool :=
  match r.dest with
  | .call .. => decide (r.issued + Config.callTimeout ≤ s.cyc)
  | _ => false

/-- Whether everything that a stream has issued is over, but for signals that wait for room (R134). -/
def workOver (s : State) (c : Nat) (e : Eng) : Bool :=
  let b := s.bank c
  let t := b.get e
  t.reqs.isEmpty && t.near.isEmpty && t.loads.isEmpty && t.rems.all s.callOver && t.xlates.isEmpty &&
    (e ≠ .xe || b.copies.all fun x => !x.2.busy) && (e ≠ .ce || b.mq.isEmpty) &&
    t.calls.all fun x =>
      match x.2.st with
      | .flight => decide (x.2.issued + Config.callTimeout ≤ s.cyc)
      | _ => true
/-- Whether everything that a stream has issued is over (R134). -/
def allOver (s : State) (c : Nat) (e : Eng) : Bool := s.workOver c e && ((s.bank c).get e).sigs.isEmpty

/-- Whether every started stream of a bank is done. -/
def jobOver (b : Bank) : Bool := engines.all fun e => (b.get e).life ≠ .running

/-- The end of a stream's part of its job, and of the job with its last stream (R134). -/
def endStream (s : State) (c : Nat) (e : Eng) : State :=
  let j := (s.bank c).job
  let s := (s.modSlot j e fun r => { r with done := true, sealed := false }).modMe fun t =>
    { t.settled with life := .done, sealed := false, sealCount := 0 }
  if jobOver (s.bank c) then s.jobEnd c (s.core c).runB else s

end State

/-- `REGION` (R132); in an outpost it writes no record (R139). -/
def execRegion (mask : BitVec 31) (s : State) : Answer := .next (State.ends 8 (s.openRegion mask))
/-- `RDV` (R134): it waits for everything that the stream has issued, where it is stuck while only signals wait for
room (R151), reports an owed fault, and ends the stream; in an outpost it ends the call with no reply (R139). -/
def execRdv (s : State) : Answer :=
  .next (match s.cur with
    | .eng c e =>
      if s.allOver c e then
        match firstOwed s.me.owed with
        | some o => s.report o
        | none => s.endStream c e
      else s.stall (s.workOver c e)
    | .frame o f => s.endFrame o f
    | .me _ => s)

end Sys2Proof.Machine
end

