-- ==== Sys2Proof/Machine/Xlate.lean ====
section
/-! DEFINITION.  Translations and invalidations as a stream or the driver starts them and as they end (R272 to R275,
R322, R323). -/

namespace Sys2Proof.Machine

/-! ### What an invalidation matches (R274, R275) -/

/-- Whether a match rule names a handle; a range of no length names none (R323). -/
def invHits (r : InvMatch) (h : Handle) : Bool :=
  match r with
  | .all => true
  | .rid x => Handle.rid h = x
  | .range rem base len =>
    (len ≠ 0 && Handle.st h = 1) ||
      (Handle.st h = 0 && Handle.remote h == rem && overlap (Handle.addr h).toNat (Handle.bytes h) base len)
/-- A handle after an invalidation. -/
def invClear (r : InvMatch) (h : Handle) : Handle := if invHits r h then Handle.clear h else h
/-- Whether a rule names the handle of a translation in flight: it has no page yet, and is PENDING once it walks. -/
def invXlate (r : InvMatch) (x : Xlate) : Bool :=
  match r with
  | .all => true
  | .rid q => ptrRid x.ptr = q
  | .range _ _ len => len ≠ 0 && x.walking
/-- Whether a rule names a directory entry of its context; an entry does not say which regions it was made for. -/
def invDir (r : InvMatch) (e : DirEntry) : Bool :=
  match r with
  | .range rem base len => e.rem == rem && overlap e.addr.toNat (pageBytes e.pgsz) base len
  | _ => true

/-- A stream after an invalidation of its context. -/
def Stream.invalidate (t : Stream) (r : InvMatch) : Stream :=
  { t with
    h := t.h.map fun e => (e.1, invClear r e.2)
    undo := t.undo.map fun x => (x.1, invClear r x.2.1, x.2.2)
    xlates := t.xlates.map fun x => { x with live := x.live && !invXlate r x, invs := x.invs ++ [r] } }
/-- A weight slot after it (R209). -/
def WSlot.invalidate (w : WSlot) (r : InvMatch) : WSlot :=
  match w with
  | .bank k n bf bw h baddr cstr saddr => .bank k n bf bw (invClear r h) baddr cstr saddr
  | w => w
/-- A bank after it: handle registers, queued matrix commands, bank slots and copies (R275). -/
def Bank.invalidate (b : Bank) (r : InvMatch) : Bank :=
  { b.modAll (fun t => t.invalidate r) with
    mq := b.mq.map fun m => { m with h := invClear r m.h }
    slot0 := b.slot0.invalidate r
    slot1 := b.slot1.invalidate r
    copies := b.copies.map fun e => (e.1, { e.2 with sh := invClear r e.2.sh, dh := invClear r e.2.dh }) }

/-- The handle copies that a request holds. -/
def ReqKind.handles : ReqKind → List Handle
  | .tile t => t.dh :: ((if t.desc.sv then [t.sh] else []) ++ (if t.desc.hv then [t.ph] else []))
  | .qld .. => []
  | .gather _ _ _ h _ => [h]
  | .wrel _ ph dh _ => [ph, dh]
  | .update _ _ ph dh gh _ => [ph, dh, gh]
/-- The handle copy of a near-memory operation. -/
def NearKind.handle : NearKind → Handle
  | .nred _ h _ _ _ _ => h
  | .nadd _ h _ _ => h
  | .namo _ _ h _ _ _ _ => h
  | .nseq h _ => h

/-- Whether a rule matches the handle through which an access goes; an access to core scratch by its local form goes through
none. -/
def InvMatch.meets (r : InvMatch) (via : Option Handle) : Bool := via.any (invHits r)
/-- Whether an invalidation still waits for an access of a stream: one that was issued before it through a handle that it
matches, and has not been performed. -/
def Stream.invOpen (t : Stream) (v : Inval) : Bool :=
  (t.loads.any fun l => l.id < v.id && l.got.isNone && v.rule.meets l.via) ||
  (t.reqs.any fun r => r.id < v.id && r.kind.handles.any (invHits v.rule)) ||
  (t.near.any fun o => o.id < v.id && !o.performed && invHits v.rule o.kind.handle) ||
  (t.rems.any fun r => r.id < v.id && r.got.isNone && v.rule.meets r.via)
/-- Whether it still waits for a unit of a copy that has passed its check (R339, R344). -/
def Copy.invOpen (x : Copy) (v : Inval) : Bool :=
  x.busy && x.seq < v.id && (x.remote || !x.data.isEmpty) &&
    ((x.sk && invHits v.rule x.sh) || (x.dk && invHits v.rule x.dh))
/-- Whether it still waits for a call of the context in an outpost. -/
def OCall.invOpen (x : OCall) (v : Inval) : Bool :=
  x.ctx = v.ctx && x.id < v.id &&
    match v.rule with
    | .range rem base len => !rem && overlap x.base x.bytes base len
    | _ => true

namespace State

/-- The banks of the machine that hold a job of a context. -/
def ctxBanks (s : State) (x : CtxId) : List Bank :=
  s.cores.flatMap fun k => [k.2.a, k.2.b].filter fun b => b.busy && b.job.ctx = x
/-- Whether an invalidation is not complete (R275). -/
def invOpen (s : State) (v : Inval) : Bool :=
  ((s.ctxBanks v.ctx).any fun b => (engines.any fun e => (b.get e).invOpen v) || b.copies.any fun x => x.2.invOpen v) ||
  (s.buf.any fun w => w.no < v.id && v.rule.meets w.via && w.party.pkg = 0 &&
    ((s.core w.party.core).get w.party.bankB).job.ctx = v.ctx) ||
  s.outposts.any fun o =>
    (o.2.queue.any fun x => x.invOpen v) || o.2.frames.any fun f => f.2.busy && f.2.call.any fun x => x.invOpen v

/-- An invalidation begins: every matching handle of the context is cleared and every matching translation leaves the
directories; answers its number. -/
def invalidate (s : State) (x : CtxId) (r : InvMatch) : Nat × State :=
  let f := fun (b : Bank) => if b.busy && b.job.ctx = x then b.invalidate r else b
  let (id, s) := s.fresh
  (id,
    { s with
      cores := s.cores.map fun k => (k.1, { k.2 with a := f k.2.a, b := f k.2.b })
      dir := s.dir.filter fun e => !(e.die < 4 && e.ctx = x && invDir r e)
      invals := s.invals ++ [{ id := id, ctx := x, rule := r }] })
/-- An invalidation that waits for nothing is over. -/
def invalOver (s : State) (id : Nat) : State := { s with invals := s.invals.filter fun v => v.id ≠ id }

/-! ### `XLT`, `XLTW` and `XLTX` (R272, R322) -/

/-- A translation is issued: none for BOUNDS; else its number, with the handle register invalid. -/
def startXlate (s : State) (need : BitVec 3) (h : HReg) (a b : GReg) : Option (Nat × State) :=
  let ptr := s.g a
  let bound := s.boundOf s.curCtx (ptrRid ptr)
  if !boundAdmits bound (ptrVa ptr) need then none
  else
    let (id, s) := s.fresh
    let x : Xlate :=
      { id := id, hreg := h, greg := b, ptr := ptr, need := need, bperm := boundPerm bound, at_ := s.cycles
        invs := (s.invals.filter fun v => v.ctx = s.curCtx).map (·.rule) }
    some (id, s.modMe fun t =>
      let t := t.wh h (Handle.clear (t.rh h))
      { t with
        horig := tset t.horig h.toNat { ptr := ptr, need := need, bperm := boundPerm bound }
        xlates := t.xlates ++ [x] })

/-- `XLT` and `XLTX`: the translation is started. -/
def xltBody (s : State) (need : BitVec 3) (h : HReg) (a b : GReg) : End :=
  match s.startXlate need h a b with
  | none => .trapped (s.trap 0x38 0)
  | some (_, s) => .done s
/-- `XLTW`: the translation is started, and the instruction waits for its end. -/
def xltwBody (s : State) (need : BitVec 3) (h : HReg) (a b : GReg) : End :=
  if s.me.waitId = 0 then
    match s.startXlate need h a b with
    | none => .trapped (s.trap 0x38 0)
    | some (id, u) =>
      .wait (u.modMe fun t => { t with waitId := id, undo := some (h, s.h h, tget {} s.me.horig h.toNat) }) false
  else if s.me.xlates.any fun x => x.id = s.me.waitId then .wait s false
  else .done s

/-- `HINV`: the invalidation is started, and the instruction waits for its completion (R323). -/
def hinvBody (s : State) (r : InvMatch) : End :=
  if s.me.waitId = 0 then
    let (id, s) := s.invalidate s.curCtx r
    if s.invals.any fun v => v.id = id && s.invOpen v then .wait (s.modMe fun t => { t with waitId := id }) false
    else .done (s.invalOver id)
  else if s.invals.any fun v => v.id = s.me.waitId then .wait s false
  else .done s

/-! ### How a translation ends -/

/-- The bank of a core that satisfies a condition: A before B. -/
def bankWhere (s : State) (c : Nat) (f : Bank → Bool) : Option Bool :=
  if f (s.core c).a then some false else if f (s.core c).b then some true else none
/-- Changes a stream of a named bank. -/
def modBankStrm (s : State) (c : Nat) (bankB : Bool) (e : Eng) (f : Stream → Stream) : State :=
  s.modCore c fun k => k.set bankB ((k.get bankB).mod e f)

/-- The translation ends: its offset register is written, and it is gone. -/
def endXlate (s : State) (c : Nat) (bankB : Bool) (e : Eng) (x : Xlate) (off : Word) : State :=
  s.modBankStrm c bankB e fun t => { t.wg x.greg off with xlates := t.xlates.filter fun y => y.id ≠ x.id }
/-- Writes the handle register of a translation; a handle that an invalidation since its issue matches has V = 0. -/
def putXlate (s : State) (c : Nat) (bankB : Bool) (e : Eng) (x : Xlate) (h : Handle) : State :=
  let h := if x.invs.any fun r => invHits r h then Handle.clear h else h
  s.modBankStrm c bankB e fun t => { t with h := tset t.h x.hreg.toNat h }
/-- A translation ends without one, for a reason (R271): the handle is FAULTED.  Where its walk answered the page fault of
a READY bank, a new record is posted and the bank is back in WAIT (R424). -/
def failXlate (s : State) (c : Nat) (bankB : Bool) (e : Eng) (x : Xlate) (reason : Nat) : State :=
  let s := (s.putXlate c bankB e x (mkHandle 2 false 0 0 (ptrRid x.ptr) 0)).endXlate c bankB e x (BitVec.allOnes 64)
  let s := s.modBankStrm c bankB e fun t =>
    { t with horig := tset t.horig x.hreg.toNat { (tget {} t.horig x.hreg.toNat : HOrigin) with reason := reason } }
  let b := (s.core c).get bankB
  match x.pf with
  | some (pc, word) =>
    if b.st = .ready then
      s.postPf c bankB
        { eng := e, hreg := x.hreg, handle := (b.get e).rh x.hreg, seq := 0, posted := false, offered := s.cyc, pc := pc, word := word }
    else s
  | none => s

end State

/-- The READY handle and the offset that a leaf gives a translation (R272, R322). -/
def leafHandle (x : Xlate) (pgsz : BitVec 4) (perm : BitVec 3) (rem : Bool) (addr : Nat) : Handle × Word :=
  (mkHandle 0 rem pgsz (perm &&& x.bperm) (ptrRid x.ptr) (BitVec.ofNat 57 addr), BitVec.ofNat 64 (ptrVa x.ptr % pageBytes pgsz))
namespace State

/-- A leaf ends a translation: with a READY handle, or, where it lacks a permission that is asked, without one. -/
def leafXlate (s : State) (c : Nat) (bankB : Bool) (e : Eng) (x : Xlate) (pgsz : BitVec 4) (perm : BitVec 3) (rem : Bool)
    (addr : Nat) : State :=
  if x.need &&& ~~~perm ≠ 0 then s.failXlate c bankB e x 3
  else
    let r := leafHandle x pgsz perm rem addr
    (s.putXlate c bankB e x r.1).endXlate c bankB e x r.2

/-- The step of a translation in flight, by its number. -/
def xlateStep (s : State) (c : Nat) (e : Eng) (id : Nat) (f : Bool → Xlate → State) : State :=
  match s.bankWhere c fun b => (b.get e).xlates.any fun x => x.id = id with
  | none => s
  | some bankB =>
    match (((s.core c).get bankB).get e).xlates.find? fun x => x.id = id with
    | none => s
    | some x => f bankB x

/-- The lookup, 32 cycles after the issue (R272); a thermal trip changes no clock, and a translation that has issued
completes (R16). -/
def lookupXlate (s : State) (c : Nat) (e : Eng) (bankB : Bool) (x : Xlate) : State :=
  if x.walking ∨ s.cycles < x.at_ + Config.xltCycles then s
  else if !x.live then s.endXlate c bankB e x (BitVec.allOnes 64)
  else
    match s.dir.find? fun d => d.covers (dieOf c) ((s.core c).get bankB).job.ctx (ptrVa x.ptr) with
    | some d => s.leafXlate c bankB e x d.pgsz d.perm d.rem d.addr.toNat
    | none =>
      let h := mkHandle 1 false 0 0 (ptrRid x.ptr) 0
      (s.putXlate c bankB e x h).modBankStrm c bankB e fun t =>
        { t with xlates := t.xlates.map fun y =>
            if y.id = x.id then { y with walking := true, live := !(x.invs.any fun r => invHits r h) } else y }

/-- A walk ends (R273): it writes the handle and enters its translation, where nothing has intervened. -/
def walkXlate (s : State) (c : Nat) (e : Eng) (bankB : Bool) (x : Xlate) : State :=
  let ctx := ((s.core c).get bankB).job.ctx
  if !x.walking then s
  else if !x.live then s.endXlate c bankB e x (BitVec.allOnes 64)
  else
    let w := s.walk ctx (ptrVa x.ptr)
    let s := s.walked ctx (ptrVa x.ptr)
    match w with
    | .leaf pgsz perm rem addr =>
      let s' := s.leafXlate c bankB e x pgsz perm rem addr
      if x.need &&& ~~~perm = 0 && !(x.invs.any fun v => invHits v (leafHandle x pgsz perm rem addr).1) then
        { s' with dir := s'.dir ++
            [{ die := dieOf c, ctx := ctx, page := ptrVa x.ptr / pageBytes pgsz, pgsz := pgsz, perm := perm, rem := rem
               addr := BitVec.ofNat 57 addr }] }
      else s'
    | .notPresent => s.failXlate c bankB e x 0
    | .badEntry => s.failXlate c bankB e x 1
    | .unmapped => s.failXlate c bankB e x 2
    | .uncorr a => (s.depositSev 0 4 1 (BitVec.ofNat 64 a)).failXlate c bankB e x 4

end State

/-- The lookup of a translation's 32nd cycle (R272). -/
def execTranslationLookup (c : CoreId) (e : Eng) (id : Nat) (s : State) : Answer :=
  .next (s.xlateStep c.val e id fun bankB x => s.lookupXlate c.val e bankB x)
/-- The end of a page walk (R273). -/
def execPageWalkEnd (c : CoreId) (e : Eng) (id : Nat) (s : State) : Answer :=
  .next (s.xlateStep c.val e id fun bankB x => s.walkXlate c.val e bankB x)
/-- An invalidation completes (R275). -/
def execInvalidationComplete (id : Nat) (s : State) : Answer :=
  .next (match s.invals.find? fun v => v.id = id with
    | some v => if s.invOpen v then s else s.invalOver id
    | none => s)

end Sys2Proof.Machine
end

