-- ==== Sys2Proof/Machine/Ae.lean ====
section
/-! DEFINITION.  The private half of the access engine (R80, R308 to R337), as its stream issues it. -/

namespace Sys2Proof.Machine

/-! ### Tile loads and stores (R312 to R316) -/

/-- `TLD` (R313). -/
def execTld (d a b : GReg) (fmt : Fmt) (tk : Tk) (w : TldW2) (s : State) : Answer :=
  .next (s.withPattern tk 8 fun g s => s.issueTile d a b fmt w false false g)
/-- `TLDT` (R315). -/
def execTldt (d a b : GReg) (fmt : Fmt) (tk : Tk) (w : TldW2) (s : State) : Answer :=
  .next (s.withPattern tk 8 fun g s => s.issueTile d a b fmt w false true g)
/-- `TST` (R316). -/
def execTst (d a b : GReg) (fmt : Fmt) (tk : Tk) (twm thm : BitVec 9) (rm : BitVec 3) (ovf : BitVec 2) (s : State) : Answer :=
  .next (s.withPattern tk 8 fun g s =>
    s.issueTile d a b fmt { twm := twm, thm := thm, kreg := 0, q := false, rm := rm, ovf := ovf } true false g)

/-! ### Feeds of the matrix engine (R318, R319) -/

/-- `QLD` (R318). -/
def execQld (fmt : Fmt) (d a b : GReg) (tk : Tk) (s : State) : Answer :=
  .next (s.withPattern tk 4 fun g s =>
    let v := s.g b
    let m := (fld v 0 10).toNat
    let k := (fld v 16 11).toNat
    let n := m * k * fmtSize fmt
    let addr := (s.g a).toNat
    if fld v 10 6 ≠ 0 ∨ fld v 27 37 ≠ 0 ∨ m < 8 ∨ 512 < m ∨ m % 8 ≠ 0 ∨ k < 32 ∨ 1024 < k ∨ k % 32 ≠ 0 ∨ 131072 < n then
      .trapped (s.trap 0x48 0)
    else
      s.afterChk (s.chkScratch addr n 16) fun _ =>
        let scale := if d = 0 then none else some (s.g d).toNat
        s.afterChk (match scale with
          | some z => s.chkScratch z (m * (k / 32)) 1
          | none => .ok) fun _ => s.issueReq (.qld fmt addr m k scale) g true)

/-- `SCQ` (R319): its bytes are read when it issues, before it waits; the wait for room is stuck while the ME waits on a semaphore (R317). -/
def execScq (a b : GReg) (tk : Tk) (s : State) : Answer :=
  .next (s.withPattern tk 4 fun _ s =>
    let v := s.g b
    let n := (fld v 8 7).toNat
    let addr := (s.g a).toNat
    if n = 0 ∨ 64 < n then .trapped (s.trap 0x48 0)
    else
      s.afterChk (if s.me.held.isEmpty then s.chkRead s.ownPath addr n 1 else .ok) fun _ =>
        let bytes := if s.me.held.isEmpty then s.scratchBytes s.ownPath addr n else s.me.held
        if 32 ≤ s.curBank.fifo.length then
          .wait (s.modMe fun t => { t with held := bytes }) (s.curBank.mq.head?.any fun m => m.waitedSem)
        else .done (s.modCurBank fun b => { b with fifo := b.fifo ++ [{ tag := fld v 0 8, bytes := bytes }], stuckSince := none, stuckFor := 0 }))

/-! ### Gathers (R320) -/

/-- The element size of a gather's code. -/
def gatherSize (sz : BitVec 3) : Nat :=
  if sz = 0 then 4 else if sz = 1 then 8 else if sz = 2 then 16 else if sz = 3 then 64 else if sz = 4 then 256 else 1024

/-- `GLD` and `GST`. -/
def State.gatherBody (s : State) (store : Bool) (sz : BitVec 3) (d : GReg) (h : HReg) (a : GReg) (sig : Sig) : End :=
  let size := gatherSize sz
  let v := s.g (a + 1)
  let n := (fld v 0 16).toNat
  let base := (fld v 32 32).toNat
  let list := (s.g a).toNat
  let loc := (s.g d).toNat
  s.unlocked [h] fun _ => s.afterChk (s.chkRead s.ownPath list (4 * min n 256) 4) fun _ =>
    if fld v 16 32 ≠ 0 ∨ n = 0 ∨ 256 < n ∨ 131072 < n * size ∨ Handle.remote (s.h h) then .trapped (s.trap 0x48 0)
    else
      let offs := (List.range n).map fun j => base + s.scratchNat s.ownPath (list + 4 * j) 4 * size
      let perm : BitVec 3 := if store then 2 else 1
      s.afterChk (Chk.all (fun (o : Nat) => s.chkHandle h o size (min size 64) perm) offs) fun _ =>
        s.afterChk (s.chkScratch loc (n * size) (min size 64)) fun _ =>
          s.issueReq (.gather store size loc (s.h h) offs) sig

/-- `GLD` (R320). -/
def execGld (sz : BitVec 3) (d : GReg) (h : HReg) (a : GReg) (tk : Tk) (s : State) : Answer :=
  .next (s.withPattern tk 4 fun g s => s.gatherBody false sz d h a g)
/-- `GST` (R320). -/
def execGst (sz : BitVec 3) (d : GReg) (h : HReg) (a : GReg) (tk : Tk) (s : State) : Answer :=
  .next (s.withPattern tk 4 fun g s => s.gatherBody true sz d h a g)

/-! ### Atomics (R321) -/

namespace State

/-- An atomic of the stream at a physical address: it takes its step at once, or is issued into the path buffer (R371). -/
def amoAt (s : State) (op : AtomOp) (ty : BitVec 2) (b : GReg) (pa : Nat) (via : Option Handle := none) : End :=
  let n := amoSize ty
  let cmp := if op = .cas then s.g (b + 1) else 0
  if s.me.lazy then
    .done (s.deferLoad { id := 0, pc := 0, addr := pa, n := n, dest := .old b ty, amo := some (op, ty, s.g b, cmp), via := via })
  else if s.readFirst pa n || s.landHeld s.party s.ownPath s.nextId [(pa, n)] then .wait s false
  else if s.eccHit pa n then .trapped (s.memUncorr pa)
  else
    let r := (s.forget pa n).amo pa n (amoBytes op ty (s.g b) cmp)
    .done (r.2.setG b (amoOld ty r.1))
/-- The `AMO` family; a remote one finishes with its reply (R148, R436). -/
def amoBody (s : State) (sig : Sig) (op : AtomOp) (loc : Bool) (h : HReg) (ty : BitVec 2) (a b : GReg) : End :=
  let n := amoSize ty
  if loc then
    let addr := (s.g a).toNat
    s.afterChk (s.chkScratch addr n n) fun _ => s.amoAt op ty b (s.scratchPhys addr)
  else
    let off := (s.g a).toInt
    s.afterChk (s.chkHandle h off n n 4) fun _ =>
      if Handle.remote (s.h h) then
        s.remoteIssue (s.h h) (fabAddr (s.h h) off) s.ownPath
          (.atom op ty (s.g b) (if op = .cas then s.g (b + 1) else 0)) (.old b ty) (some sig)
      else s.amoAt op ty b (handlePhys (s.h h) off) (some (s.h h))

end State

/-- `AMO.add` (R321). -/
def execAmoAdd (loc : Bool) (h : HReg) (ty : BitVec 2) (a b : GReg) (tk : Tk) (s : State) : Answer :=
  .next (s.withPattern tk 4 fun g s => s.amoBody g .add loc h ty a b)
/-- `AMO.min` (R321). -/
def execAmoMin (loc : Bool) (h : HReg) (ty : BitVec 2) (a b : GReg) (tk : Tk) (s : State) : Answer :=
  .next (s.withPattern tk 4 fun g s => s.amoBody g .min loc h ty a b)
/-- `AMO.max` (R321). -/
def execAmoMax (loc : Bool) (h : HReg) (ty : BitVec 2) (a b : GReg) (tk : Tk) (s : State) : Answer :=
  .next (s.withPattern tk 4 fun g s => s.amoBody g .max loc h ty a b)
/-- `AMO.and` (R321). -/
def execAmoAnd (loc : Bool) (h : HReg) (ty : BitVec 2) (a b : GReg) (tk : Tk) (s : State) : Answer :=
  .next (s.withPattern tk 4 fun g s => s.amoBody g .and loc h ty a b)
/-- `AMO.or` (R321). -/
def execAmoOr (loc : Bool) (h : HReg) (ty : BitVec 2) (a b : GReg) (tk : Tk) (s : State) : Answer :=
  .next (s.withPattern tk 4 fun g s => s.amoBody g .or loc h ty a b)
/-- `AMO.xor` (R321). -/
def execAmoXor (loc : Bool) (h : HReg) (ty : BitVec 2) (a b : GReg) (tk : Tk) (s : State) : Answer :=
  .next (s.withPattern tk 4 fun g s => s.amoBody g .xor loc h ty a b)
/-- `AMO.swap` (R321). -/
def execAmoSwap (loc : Bool) (h : HReg) (ty : BitVec 2) (a b : GReg) (tk : Tk) (s : State) : Answer :=
  .next (s.withPattern tk 4 fun g s => s.amoBody g .swap loc h ty a b)
/-- `AMO.cas` (R321). -/
def execAmoCas (loc : Bool) (h : HReg) (ty : BitVec 2) (a b : GReg) (tk : Tk) (s : State) : Answer :=
  .next (s.withPattern tk 4 fun g s => s.amoBody g .cas loc h ty a b)

/-! ### Translation and handles (R322 to R325) -/

/-- `XLT` (R322). -/
def execXlt (need : BitVec 3) (h : HReg) (a b : GReg) (tk : Tk) (s : State) : Answer :=
  .next (s.withPattern tk 4 fun _ s => s.xltBody need h a b)
/-- `XLTW` (R322). -/
def execXltw (need : BitVec 3) (h : HReg) (a b : GReg) (tk : Tk) (s : State) : Answer :=
  .next (s.withPattern tk 4 fun _ s => s.xltwBody need h a b)
/-- `HINV.all` (R323). -/
def execHinvAll (tk : Tk) (s : State) : Answer := .next (s.withPattern tk 4 fun _ s => s.hinvBody .all)
/-- `HINV.rid` (R323). -/
def execHinvRid (a : GReg) (tk : Tk) (s : State) : Answer :=
  .next (s.withPattern tk 4 fun _ s => s.hinvBody (.rid (fld (s.g a) 0 7)))
/-- `HINV.range` (R323). -/
def execHinvRange (a b : GReg) (tk : Tk) (s : State) : Answer :=
  .next (s.withPattern tk 4 fun _ s => s.hinvBody (.range false (s.g a).toNat (s.g b).toNat))
/-- `HINV.range.rem` (R323). -/
def execHinvRangeRem (a b : GReg) (tk : Tk) (s : State) : Answer :=
  .next (s.withPattern tk 4 fun _ s => s.hinvBody (.range true (s.g a).toNat (s.g b).toNat))
/-- `HCHK` (R324): it waits only for a lookup (R272). -/
def execHchk (d : GReg) (h : HReg) (tk : Tk) (s : State) : Answer :=
  .next (s.withPattern tk 4 fun _ s =>
    if s.handleLocked h then .wait s false else .done (s.setG d (fld (s.h h) 0 64)))
/-- `HCHK.addr` (R324). -/
def execHchkAddr (d : GReg) (h : HReg) (tk : Tk) (s : State) : Answer :=
  .next (s.withPattern tk 4 fun _ s =>
    if s.handleLocked h then .wait s false else .done (s.setG d (fld (s.h h) 64 64)))
/-- `HMOV` (R325): the copy keeps the translation that made its source. -/
def execHmov (eng : BitVec 2) (d a : HReg) (tk : Tk) (s : State) : Answer :=
  .next (s.withPattern tk 4 fun _ s =>
    let v := s.h a
    if s.handleLocked a || (Handle.v v && Handle.st v = 1) then .wait s false
    else
      let o := tget {} s.me.horig a.toNat
      let e := Eng.ofCode eng
      .done (s.modCurBank fun b => b.mod e fun t =>
        if t.life = .off then t else { t.wh d v with horig := tset t.horig d.toNat o }))

/-! ### Weight steps (R326 to R328) -/

namespace State

/-- The checks that `KGET`, `WREL`, `TUPD` and `TSKIP` share (R326), with a further handle that may not be remote (R328), on
the path of the instruction (R367). -/
def withTensor (s : State) (q : Path) (a : GReg) (also : List HReg) (k : Desc → Tpb → State → End) : End :=
  s.withDesc q a fun d => s.unlocked ([d.dh, d.ph] ++ also) fun _ =>
    if !d.hv || ([d.dh, d.ph] ++ also).any fun r => Handle.remote (s.h r) then .trapped (s.trap 0x3A 0)
    else
      s.afterChk ((s.chkHandle d.ph 0 256 1 1).and fun _ => s.chkHandle d.dh d.doff 4 4 1) fun _ =>
        match s.readTpb s.party s.nextId q d (s.h d.ph) (s.h d.dh) with
        | .error e =>
          let s := s.nameTpb (s.h d.ph)
          .trapped (if e.1 = 0x3D then s.memUncorr e.2.toNat else s.trap e.1 0)
        | .ok t => k d t (s.learnTpb t.at0)
/-- A request that seals its region is issued (R309, R413, R416). -/
def issueSealing (s : State) (kind : ReqKind) (sig : Sig) : End :=
  if 32 ≤ s.me.reqs.length then .wait s false else s.sealing fun _ => s.sealRegion.issueReq kind sig

end State

/-- `KGET` (R326). -/
def execKget (k : KReg) (a : GReg) (tk : Tk) (s : State) : Answer :=
  .next (s.withPattern tk 4 fun _ s => s.withTensor .sc a [] fun _ t s => .done (s.setK k t.commit))
/-- `WREL` (R327). -/
def execWrel (a : GReg) (k : KReg) (tk : Tk) (s : State) : Answer :=
  .next (s.withPattern tk 4 fun g s => s.withTensor .near a [] fun d _ s =>
    s.issueSealing (.wrel d (s.h d.ph) (s.h d.dh) (s.k k)) g)
/-- `TUPD` (R328). -/
def execTupd (h : HReg) (a b : GReg) (tk : Tk) (s : State) : Answer :=
  .next (s.withPattern tk 4 fun g s => s.withTensor .near a [h] fun d t s =>
    let off := (s.g b).toInt
    s.afterChk (s.chkHandle h off (4 * t.nelem) 64 1) fun _ =>
      s.issueSealing (.update false d (s.h d.ph) (s.h d.dh) (s.h h) off.toNat) g)
/-- `TSKIP` (R302, R328). -/
def execTskip (a : GReg) (tk : Tk) (s : State) : Answer :=
  .next (s.withPattern tk 4 fun g s => s.withTensor .near a [] fun d _ s =>
    s.issueSealing (.update true d (s.h d.ph) (s.h d.dh) 0 0) g)

/-! ### Near-memory operations (R329 to R334) -/

/-- The remote near-memory operations of a stream, a `NADD` counting once (R449). -/
def remoteNear (t : Stream) : Nat := ((t.rems.filter fun r => r.path = .near).map (·.seq)).eraseDups.length
/-- The near-memory operations of a stream outstanding (R309). -/
def nearCount (t : Stream) : Nat := t.near.length + remoteNear t
/-- Those not yet performed (R334). -/
def nearPosted (t : Stream) : Nat := (t.near.filter fun o => !o.performed).length + remoteNear t

/-- The unit that performs an operation (R370, R398): the outpost that the address chooses, or the bank sequencers of its
stack. -/
def NearKind.unit : NearKind → Nat
  | .nred _ h _ _ _ _ => outpostOf (Handle.addr h).toNat
  | .nadd _ h _ _ => outpostOf (Handle.addr h).toNat
  | .namo _ _ h _ _ _ _ => outpostOf (Handle.addr h).toNat
  | .nseq h _ => 148 + (Handle.addr h).toNat / 0x1000000000

namespace State

/-- A near-memory operation of the stream is posted, or waits for one of 64 places (R309). -/
def postNear (s : State) (kind : NearKind) : End :=
  if 64 ≤ nearCount s.me then .wait s false
  else
    let w1 := fld (s.reportedWords s.me.pc) 0 32
    let (id, s) := s.fresh
    let o : NearOp := { id := id, seq := id, pc := s.me.pc, w1 := w1, kind := kind, unit := kind.unit }
    .done ({ s with nearQ := tset s.nearQ kind.unit (tget [] s.nearQ kind.unit ++ [id]) }.modMe fun t =>
      { t with near := t.near ++ [o] })

/-- `NRED` (R329). -/
def nredBody (s : State) (fmt : Fmt) (d a b : GReg) : End :=
  let ctl := s.g d
  let at0 := (s.g a).toNat
  let h : HReg := fld ctl 48 5
  let rlen := ((fld ctl 40 6).toNat + 1) * 64
  let dst := (fld ctl 0 21).toNat
  s.unlocked [h] fun _ => s.afterChk (s.chkRead .near at0 64 64) fun _ =>
    let idx := (List.range ((fld ctl 32 4).toNat + 1)).map fun j => BitVec.ofNat 32 (s.scratchNat .near (at0 + 4 * j) 4)
    let used := idx.filter (· ≠ BitVec.allOnes 32)
    let off := (s.g b).toInt
    if fld ctl 21 11 ≠ 0 ∨ fld ctl 36 4 ≠ 0 ∨ fld ctl 46 2 ≠ 0 ∨ fld ctl 53 11 ≠ 0 ∨ Handle.remote (s.h h) then
      .trapped (s.trap 0x48 0)
    else
      s.afterChk (Chk.all (fun (i : W32) => s.chkHandle h (off + i.toNat * rlen) rlen 64 1) used) fun _ =>
        s.afterChk (s.chkScratch dst (if fmt = 2 then 2 * rlen else rlen) 64) fun _ =>
          s.postNear (.nred fmt (s.h h) off rlen idx dst)

/-- The parts of a remote `NADD`: each the elements of one window page (R449). -/
def naddParts (base : Nat) : Nat → Nat → List W32 → List (Nat × List W32)
  | 0, _, _ => []
  | n + 1, i, xs =>
    if xs.isEmpty then []
    else
      let k := (4096 - (base + 4 * i) % 4096) / 4
      (i, xs.take k) :: naddParts base n (i + k) (xs.drop k)
/-- The parts are sent, sharing one place in issue order; none when the ticket table has no room for one. -/
def sendParts (s : State) (c : Nat) (e : Eng) (via : Handle) (int : Bool) (base : BitVec 57) (grp : Nat) :
    List (Nat × List W32) → Option State
  | [] => some s
  | (i, xs) :: rest =>
    match s.remoteSend c (s.core c).runB e s.me.pc (s.reportedWords s.me.pc) .near
        (base + BitVec.ofNat 57 (4 * i)) (.add int xs) (.part xs.length) (some grp) (some via) with
    | none => none
    | some t => sendParts t c e via int base grp rest
/-- `NADD` to another package (R436, R449). -/
def naddRemote (s : State) (int : Bool) (h : Handle) (off : Int) (data : List W32) : End :=
  match s.cur with
  | .eng c e =>
    if 64 ≤ nearCount s.me then .wait s false
    else
      s.sealing fun _ =>
        let base := fabAddr h off
        let (grp, t) := s.sealRegion.fresh
        let parts := naddParts base.toNat data.length 0 data
        match t.sendParts c e h int base grp parts with
        | none => .wait s false
        | some t => .done (if parts.length = 1 then t else t.modMe fun x => { x with nadds := tset x.nadds grp 0 })
  | _ => .done s
/-- `NADD` (R330). -/
def naddBody (s : State) (fmt : Fmt) (h : HReg) (a b : GReg) : End :=
  let v := s.g b
  let n := (fld v 32 10).toNat + 1
  let src := (fld v 0 21).toNat
  let off := (s.g a).toInt
  if fld v 21 11 ≠ 0 ∨ fld v 42 22 ≠ 0 then .trapped (s.trap 0x48 0)
  else
    s.afterChk (s.chkHandle h off (4 * n) 4 4) fun _ =>
      s.afterChk (s.chkRead .near src (4 * n) 4) fun _ =>
        let data := (List.range n).map fun i => BitVec.ofNat 32 (s.scratchNat .near (src + 4 * i) 4)
        if Handle.remote (s.h h) then
          if !s.mgmt.peerid.getLsbD 12 then .trapped (s.trap 0x6A (zext (fabAddr (s.h h) off)))
          else s.naddRemote (decide (fmt = 9)) (s.h h) off data
        else if 64 ≤ nearCount s.me then .wait s false
        else s.sealing fun _ => s.sealRegion.postNear (.nadd (decide (fmt = 9)) (s.h h) off.toNat data)

/-- `NAMO` (R331). -/
def namoBody (s : State) (op : AtomOp) (ty : BitVec 2) (h : HReg) (a b : GReg) : End :=
  let n := amoSize ty
  let off := (s.g a).toInt
  let cmp := if op = .cas then s.g (b + 1) else 0
  s.afterChk (s.chkHandle h off n n 4) fun _ =>
    if Handle.remote (s.h h) then
      if 64 ≤ nearCount s.me then .wait s false
      else s.remoteIssue (s.h h) (fabAddr (s.h h) off) .near (.atom op ty (s.g b) cmp) (.old b ty)
    else s.postNear (.namo op ty (s.h h) off.toNat (s.g b) cmp b)

end State

/-- `NRED` (R329). -/
def execNred (fmt : Fmt) (d a b : GReg) (tk : Tk) (s : State) : Answer :=
  .next (s.withPattern tk 4 fun _ s => s.nredBody fmt d a b)
/-- `NADD` (R330). -/
def execNadd (fmt : Fmt) (h : HReg) (a b : GReg) (tk : Tk) (s : State) : Answer :=
  .next (s.withPattern tk 4 fun _ s => s.naddBody fmt h a b)
/-- `NAMO.add` (R331). -/
def execNamoAdd (ty : BitVec 2) (h : HReg) (a b : GReg) (tk : Tk) (s : State) : Answer :=
  .next (s.withPattern tk 4 fun _ s => s.namoBody .add ty h a b)
/-- `NAMO.max` (R331). -/
def execNamoMax (ty : BitVec 2) (h : HReg) (a b : GReg) (tk : Tk) (s : State) : Answer :=
  .next (s.withPattern tk 4 fun _ s => s.namoBody .max ty h a b)
/-- `NAMO.swap` (R331). -/
def execNamoSwap (ty : BitVec 2) (h : HReg) (a b : GReg) (tk : Tk) (s : State) : Answer :=
  .next (s.withPattern tk 4 fun _ s => s.namoBody .swap ty h a b)
/-- `NAMO.cas` (R331). -/
def execNamoCas (ty : BitVec 2) (h : HReg) (a b : GReg) (tk : Tk) (s : State) : Answer :=
  .next (s.withPattern tk 4 fun _ s => s.namoBody .cas ty h a b)

/-- `NFENCE` (R334, R386): it waits for every posted operation, then reports an owed fault, and their writes are then
visible at core scope on `sc` and `near`. -/
def execNfence (tk : Tk) (s : State) : Answer :=
  .next (s.withPattern tk 4 fun _ s =>
    if nearPosted s.me = 0 then
      s.atPoint .nfence fun _ =>
        let p := s.party
        .done (s.widenWrites (fun w => w.party = p && w.path = .near) 0x11 1)
    else .wait s false)
/-- `NFENCE.poll` (R334). -/
def execNfencePoll (d : GReg) (tk : Tk) (s : State) : Answer :=
  .next (s.withPattern tk 4 fun _ s => .done (s.setG d (BitVec.ofNat 64 (nearPosted s.me))))

/-! ### Bank sequencer programs (R284, R333) -/

/-- `NSEQ` (R333). -/
def execNseq (a : GReg) (tk : Tk) (s : State) : Answer :=
  .next (s.withPattern tk 4 fun _ s =>
    let at0 := (s.g a).toNat
    s.afterChk (s.chkRead .near at0 128 128) fun _ =>
      let bytes := s.scratchBytes .near at0 128
      match parseSeq bytes with
      | none => .trapped (s.trap 0x48 0)
      | some q => s.unlocked [q.ha] fun _ =>
        let h := s.h q.ha
        if Handle.remote h then .trapped (s.trap 0x48 0)
        else
          s.afterChk (Chk.all (fun (x : Int × Nat) => s.chkHandle q.ha x.1 x.2 1 3) q.extents) fun _ =>
            let base := (Handle.addr h).toNat
            if q.extents.all fun x => inStack (base / 0x1000000000) (handlePhysNat base x.1) x.2 then
              if 64 ≤ nearCount s.me then .wait s false
              else s.sealing fun _ => s.sealRegion.postNear (.nseq h bytes)
            else .trapped (s.trap 0x29 0))
where
  /-- A physical address from a base and an offset. -/
  handlePhysNat (base : Nat) (off : Int) : Nat := (base + off).toNat

/-! ### Tickets and prefetch (R336, R337) -/

/-- A ticket-table entry as a word; an entry that holds no ticket reads as 0. -/
def ticketWord (s : State) (t : Ticket) : Word :=
  if t.v then
    1 ||| (BitVec.ofNat 64 t.eng.num <<< 1) ||| (boolWord t.notice <<< 3) ||| (zext t.peer <<< 4) ||| (zext t.page <<< 16) |||
      (BitVec.ofNat 64 (min ((s.cyc - t.first) / 1024) 32767) <<< 49)
  else 0
/-- `TKQ` (R336). -/
def execTkq (d a : GReg) (tk : Tk) (s : State) : Answer :=
  .next (s.withPattern tk 4 fun _ s =>
    let i := (s.g a).toNat
    .done (s.setG d (if i < 32 then ticketWord s ((s.core s.curCore).ticket i) else 0)))
/-- `TKQ.cnt` (R336). -/
def execTkqCnt (d : GReg) (tk : Tk) (s : State) : Answer :=
  .next (s.withPattern tk 4 fun _ s =>
    let k := s.core s.curCore
    let n := ((List.range 32).filter fun i =>
      (k.ticket i).v && (k.ticket i).bankB = k.runB && s.curEng = some (k.ticket i).eng).length
    .done (s.setG d (BitVec.ofNat 64 n)))
/-- `PFT` (R337): it changes no architectural state. -/
def execPft (_h : HReg) (_a _b : GReg) (tk : Tk) (s : State) : Answer :=
  .next (s.withPattern tk 4 fun _ s => .done s)

end Sys2Proof.Machine
end

