-- ==== Sys2Proof/Machine/AeEvents.lean ====
section
/-! DEFINITION.  What the memory units and the outposts do for the access engine: tile requests, step waits and temper
commands (R278 to R303), the operand queue (R317), gathers (R320), and near-memory operations (R329 to R333). -/

namespace Sys2Proof.Machine

namespace State

/-! ### Requests by number -/

/-- The step of an outstanding request of an AE stream, by its number. -/
def reqStep (s : State) (c id : Nat) (f : Bool → Req → State) : State :=
  match s.bankWhere c fun b => b.ae.reqs.any fun r => r.id = id with
  | none => s
  | some bankB =>
    match ((s.core c).get bankB).ae.reqs.find? fun r => r.id = id with
    | none => s
    | some r => if drainHeld ((s.core c).get bankB) 3 then s else f bankB r
/-- A command leaves the temper queue (R370). -/
def leaveTemper (s : State) (id : Nat) : State :=
  { s with temperQ := leaveQueues [id] s.temperQ }
/-- A request is no longer outstanding. -/
def dropReq (s : State) (c : Nat) (bankB : Bool) (id : Nat) : State :=
  (s.leaveTemper id).modCore c fun k =>
    let b := k.get bankB
    k.set bankB ({ b with oqOrder := b.oqOrder.filter (· ≠ id) }.mod .ae fun t =>
      { t with reqs := t.reqs.filter fun r => r.id ≠ id })
/-- Replaces an outstanding request. -/
def putReq (s : State) (c : Nat) (bankB : Bool) (r : Req) : State :=
  s.modBankStrm c bankB .ae fun t => { t with reqs := t.reqs.map fun x => if x.id = r.id then r else x }
/-- A request finishes (R311). -/
def finishReq (s : State) (c : Nat) (bankB : Bool) (r : Req) : State :=
  ((s.dropReq c bankB r.id).workDone c bankB .ae).finish c bankB .ae r.sig

end State

/-- The word of a request's fault that names its tensor and step, or 0 (R310). -/
def ReqKind.hallWord (k : ReqKind) (step : W32) : Word :=
  match k with
  | .tile t => if t.desc.hv then Machine.hallWord t.desc step else 0
  | .wrel d .. => Machine.hallWord d step
  | .update _ d .. => Machine.hallWord d step
  | _ => 0
/-- Whether a request is a step-named one (R291). -/
def ReqKind.stepNamed : ReqKind → Bool
  | .tile t => !t.store && t.desc.hv
  | _ => false
/-- A code of R307. -/
def hallCode (code : Nat) : Bool := 0x40 ≤ code && code ≤ 0x45

namespace State

/-- A request faults: it is no longer outstanding and the stream owes its report (R310).  An uncorrectable error is
logged (R283). -/
def faultReq (s : State) (c : Nat) (bankB : Bool) (r : Req) (e : UnitFault) (progress : Nat) (step : W32) : State :=
  let s := if e.1 = 0x3D then s.depositSev 0 4 1 e.2 else s
  (s.dropReq c bankB r.id).owe c bankB .ae
    { seq := r.seq, code := e.1, cls := 1
      words := [r.pc, e.2, zext r.w1, zext r.w2, BitVec.ofNat 64 progress, if hallCode e.1 then r.kind.hallWord step else 0]
      since := s.coreCycles c, step := r.kind.stepNamed }

/-! ### The operand queue (R317) -/

/-- Tile `o` of a request is appended to the operand queue when its turn has come and there is room; else the request
keeps it. -/
def appendTile (s : State) (c : Nat) (bankB : Bool) (r : Req) (o : OqTile) : State :=
  let b := (s.core c).get bankB
  if b.oqOrder.head? = some r.id ∧ b.oq.length < 4 then
    (s.modCore c fun k =>
      let b := k.get bankB
      k.set bankB { b with oq := b.oq ++ [o], stuckSince := none, stuckFor := 0 }).finishReq c bankB r
  else s.putReq c bankB { r with tile := some o, waiting := none }

/-! ### Tile requests (R278 to R280, R291 to R297, R313 to R316) -/

/-- The status of a resolution, kept when no program-later request has left one (R297). -/
def putStat (s : State) (c : Nat) (bankB : Bool) (r : Req) (stat : W32) : State :=
  s.modBankStrm c bankB .ae fun t => if t.stepSeq ≤ r.seq then { t with stepstat := stat, stepSeq := r.seq } else t
/-- A load's tile is converted and delivered; `hall` holds the named step, its status and the resolved granules. -/
def deliverTile (s : State) (c : Nat) (bankB : Bool) (r : Req) (t : TileReq) (hall : Option (W32 × W32 × (Nat → List Byte))) :
    State :=
  let p := Party.stream c bankB .ae
  let step := match hall with
    | some x => x.1
    | none => 0
  let ecc := if hall.isSome then none else s.tileEcc t
  match ecc with
  | some a => s.faultReq c bankB r (0x3D, BitVec.ofNat 64 a) 0 0
  | none =>
    match s.tileOut p r.seq t (hall.map fun x => x.2.2) with
    | .error code => s.faultReq c bankB r (code, 0) 0 step
    | .ok out =>
      let s := match hall with
        | some x => s.putStat c bankB r x.2.1
        | none => s
      if t.q then
        s.appendTile c bankB r
          { m := if t.transposed then t.tw else t.th, k := if t.transposed then t.th else t.tw, fmt := t.outf
            bytes := out.1, scales := [] }
      else ((s.stepOver p .sc r.seq (t.tile (windowBase c))).tileStore c p t out).finishReq c bankB r
/-- The granules of a tile resolve at a named step (R292). -/
def resolveTile (s : State) (c : Nat) (bankB : Bool) (r : Req) (t : TileReq) (tpb : Tpb) (step : W32) (waited : Bool) : State :=
  match s.resolveGrans (Party.stream c bankB .ae) r.seq tpb step.toNat t.grans with
  | .error e => s.faultReq c bankB r e 0 step
  | .ok rs =>
    (s.ask (t.grans.map fun g => (tpb.slot step.toNat g, 4672))).deliverTile c bankB r t
      (some (step, stepStat waited rs, fun g => (tget { data := [], rebuilt := false, k := 0 } rs g).data))
/-- A step-named request arrives at the version unit (R291, R292). -/
def arriveTile (s : State) (c : Nat) (bankB : Bool) (r : Req) (t : TileReq) : State :=
  match s.readTpb (Party.stream c bankB .ae) r.seq .sc t.desc t.ph t.dh with
  | .error e => (s.nameTpb t.ph).faultReq c bankB r e 0 t.step
  | .ok tpb =>
    let s := s.learnTpb tpb.at0
    let step := if t.step = BitVec.allOnes 32 then tpb.commit else t.step
    if (tpb.rel ≠ BitVec.allOnes 32 ∧ step ≤ tpb.rel) ∨ (step.toNat : Int) < tpb.commit.toNat - tpb.back then
      s.faultReq c bankB r (0x41, 0) 0 step
    else if (tpb.commit.toNat + tpb.fwd : Int) < step.toNat then s.faultReq c bankB r (0x42, 0) 0 step
    else if tpb.commit < step ∧ tpb.waits then
      s.putReq c bankB { r with waiting := some (s.cyc + tpb.waitlim, tpb.rel, step), sampled := some (tpb.rel, step, step) }
    else s.resolveTile c bankB { r with sampled := some (tpb.rel, step, tpb.commit) } t tpb step false
/-- A `TST` reads its tile, converts it and writes the tensor (R316). -/
def serveStore (s : State) (c : Nat) (bankB : Bool) (r : Req) (t : TileReq) : State :=
  let p := Party.stream c bankB .ae
  match s.tileIn c p r.seq t with
  | .error code => s.faultReq c bankB r (code, 0) 0 0
  | .ok x => ((s.stepOver p .sc r.seq t.tensor).tilePut p t x.1 x.2).finishReq c bankB r
/-- Whether a request cannot be served yet: an earlier access of the stream must come first (R375). -/
def reqHeld (s : State) (c : Nat) (bankB : Bool) (r : Req) : Bool :=
  s.landHeld (Party.stream c bankB .ae) .sc r.seq (r.kind.writes (windowBase c)) ||
    s.awayOpen (Party.stream c bankB .ae) .sc r.seq (r.reads (windowBase c))
/-- A memory unit serves a tile request. -/
def serveTile (s : State) (c : Nat) (bankB : Bool) (r : Req) (t : TileReq) : State :=
  match r.tile, r.waiting with
  | some o, _ => s.appendTile c bankB r o
  | none, some _ => s
  | none, none =>
    if s.reqHeld c bankB r then s
    else if t.store then s.serveStore c bankB r t
    else if t.desc.hv then s.arriveTile c bankB r t
    else (s.ask t.tensor).deliverTile c bankB r t none

/-- A waiting request goes on once the commit of its step is published: nothing but the commit is looked at again (R292,
R295). -/
def resumeTile (s : State) (c : Nat) (bankB : Bool) (r : Req) : State :=
  match r.kind, r.waiting with
  | .tile t, some (_, _, step) =>
    match s.tpbFields (Party.stream c bankB .ae) r.seq .sc t.ph with
    | .error e => s.faultReq c bankB r e 0 step
    | .ok (tpb, _) =>
      if step ≤ tpb.commit ∧ !s.reqHeld c bankB r then s.resolveTile c bankB r t tpb step true else s
  | _, _ => s
/-- A wait expires (R292). -/
def expireTile (s : State) (c : Nat) (bankB : Bool) (r : Req) : State :=
  match r.kind, r.waiting with
  | .tile t, some (deadline, _, step) =>
    if deadline ≤ s.cyc then
      match s.tpbFields (Party.stream c bankB .ae) r.seq .sc t.ph with
      | .error e => s.faultReq c bankB r e 0 step
      | .ok (tpb, _) => if tpb.commit < step then s.faultReq c bankB r (0x43, 0) 0 step else s
    else s
  | _, _ => s

/-- A `QLD` reads its tile and appends it (R318). -/
def serveQld (s : State) (c : Nat) (bankB : Bool) (r : Req) : State :=
  let b := (s.core c).get bankB
  match r.kind with
  | .qld fmt addr m k scale =>
    if b.oqOrder.head? = some r.id ∧ b.oq.length < 4 ∧ !s.reqHeld c bankB r then
      let p := Party.stream c bankB .ae
      s.appendTile c bankB r
        { m := m, k := k, fmt := fmt
          bytes := s.loadAsOf p .sc r.seq (windowBase c + addr) (m * k * fmtSize fmt)
          scales := match scale with
            | some z => s.loadAsOf p .sc r.seq (windowBase c + z) (m * (k / 32))
            | none => [] }
    else s
  | _ => s

/-- A gather moves its elements, index order ascending (R320). -/
def serveGather (s : State) (c : Nat) (bankB : Bool) (r : Req) : State :=
  match r.kind with
  | .gather store size loc h offs =>
    let p := Party.stream c bankB .ae
    let base := (Handle.addr h).toNat
    let local_ := windowBase c + loc
    if s.reqHeld c bankB r then s
    else
      match (if store then none else offs.find? fun o => s.eccHit (base + o) size) with
      | some o => s.faultReq c bankB r (0x3D, BitVec.ofNat 64 (base + o)) 0 0
      | none =>
        (offs.zipIdx.foldl (fun t (o, j) =>
          if store then t.performUnits p .sc (base + o) (t.loadAsOf p .sc r.seq (local_ + j * size) size)
          else t.performUnits p .sc (local_ + j * size) (t.loadAsOf p .sc r.seq (base + o) size))
          ((s.ask (r.kind.reads (windowBase c))).stepOver p .sc r.seq (r.kind.writes (windowBase c)))).finishReq c bankB r
  | _ => s

/-! ### Commands to the tensor (R299, R301 to R303) -/

/-- The unfinished step-named requests of the machine to the tensor of a parameter block that have arrived: they wait for
their step, or for the operand queue. -/
def arrived (s : State) (tpb : Nat) : List Req :=
  s.cores.flatMap fun k => [k.2.a, k.2.b].flatMap fun b => b.ae.reqs.filter fun r =>
    match r.kind with
    | .tile t => (Handle.addr t.ph).toNat = tpb && r.sampled.isSome
    | _ => false
/-- What a command reads and writes on the near-memory path (R375). -/
def commandRanges (s : State) (k : ReqKind) : List (Nat × Nat) :=
  let block := fun (ph : Handle) => parseTpb (Handle.addr ph).toNat (s.homeBytes (Handle.addr ph).toNat 256)
  match k with
  | .wrel _ ph _ _ => [((Handle.addr ph).toNat, 256)]
  | .update skip _ ph _ gh goff =>
    let t := block ph
    let n := 4 * t.nelem
    [(t.at0, 256), (t.mbase, n), (t.momb, n)] ++ (if t.adaptive then [(t.secb, n)] else []) ++
      if skip then [] else [((Handle.addr gh).toNat + goff, n)]
  | _ => []

/-- A command faults, which also finishes it (R311). -/
def faultCmd (s : State) (c : Nat) (bankB : Bool) (r : Req) (e : UnitFault) (progress : Nat) (step : W32) : State :=
  ((s.faultReq c bankB r e progress step).workDone c bankB .ae).finish c bankB .ae r.sig

/-! ### Near-memory operations (R329 to R333) -/

/-- The step of a near-memory operation of an AE stream, by its number. -/
def nearStep (s : State) (c id : Nat) (f : Bool → NearOp → State) : State :=
  match s.bankWhere c fun b => b.ae.near.any fun o => o.id = id with
  | none => s
  | some bankB =>
    match ((s.core c).get bankB).ae.near.find? fun o => o.id = id with
    | none => s
    | some o => f bankB o
/-- An operation leaves its near-memory queue (R370). -/
def leaveNear (s : State) (id : Nat) : State :=
  { s with nearQ := leaveQueues [id] s.nearQ }
/-- An operation is over. -/
def dropNear (s : State) (c : Nat) (bankB : Bool) (id : Nat) : State :=
  ((s.leaveNear id).modBankStrm c bankB .ae fun t => { t with near := t.near.filter fun o => o.id ≠ id }).workDone c bankB .ae
/-- An operation faults (R310). -/
def faultNear (s : State) (c : Nat) (bankB : Bool) (o : NearOp) (a progress : Nat) : State :=
  ((s.depositSev 0 4 1 (BitVec.ofNat 64 a)).dropNear c bankB o.id).owe c bankB .ae
    { seq := o.seq, code := 0x3D, cls := 1, words := [o.pc, BitVec.ofNat 64 a, zext o.w1, 0, BitVec.ofNat 64 progress]
      since := s.coreCycles c }

end State

/-- The ranges of memory that an operation reads or writes. -/
def NearKind.ranges (c : Nat) : NearKind → List (Nat × Nat)
  | .nred fmt h base rlen idx dst =>
    (windowBase c + dst, if fmt = 2 then 2 * rlen else rlen) ::
      (idx.filter (· ≠ BitVec.allOnes 32)).map fun i => (((Handle.addr h).toNat + base + i.toNat * rlen : Int).toNat, rlen)
  | .nadd _ h off data => [((Handle.addr h).toNat + off, 4 * data.length)]
  | .namo _ ty h off _ _ _ => [((Handle.addr h).toNat + off, amoSize ty)]
  | .nseq h prog =>
    match parseSeq prog with
    | some q => q.extents.map fun (x : Int × Nat) => (((Handle.addr h).toNat + x.1 : Int).toNat, x.2)
    | none => []
/-- Whether two ranges share a 4-byte word. -/
def sameWord (x y : Nat × Nat) : Bool :=
  overlap (x.1 / 4) ((x.1 + x.2 + 3) / 4 - x.1 / 4) (y.1 / 4) ((y.1 + y.2 + 3) / 4 - y.1 / 4)
/-- Whether an operation comes after an earlier one of its stream in this package that shares a word with it (R332). -/
def Stream.nearHeld (t : Stream) (c : Nat) (o : NearOp) : Bool :=
  t.near.any fun x => x.id < o.id && !x.performed &&
    (x.kind.ranges c).any fun a => (o.kind.ranges c).any fun b => sameWord a b

namespace State

/-! ### Commands to the tensor (R299, R301 to R303) -/

/-- Whether an earlier access of the stream on the near-memory path that shares a byte with a command must come first
(R375). -/
def commandHeld (s : State) (c : Nat) (bankB : Bool) (r : Req) : Bool :=
  let t := ((s.core c).get bankB).ae
  let rs := s.commandRanges r.kind
  (t.reqs.any fun x => x.id < r.id && rangesMeet (s.commandRanges x.kind) rs) ||
    (t.near.any fun o => o.id < r.id && !o.performed && rangesMeet (o.kind.ranges c) rs) ||
    s.remsOpen (Party.stream c bankB .ae) .near r.seq rs

/-- Whether an operation must wait for an earlier one of its stream: to the same word, or a remote one to this package that may
name it (R332, R434). -/
def nearWaits (s : State) (c : Nat) (bankB : Bool) (o : NearOp) : Bool :=
  (((s.core c).get bankB).ae.nearHeld c o) ||
    s.remsOpen (Party.stream c bankB .ae) .near o.seq
      ((o.kind.ranges c).map fun x => (x.1 / 4 * 4, (x.1 + x.2 + 3) / 4 * 4 - x.1 / 4 * 4))

/-- Whether an unfinished request must be over before a release of a step (R299). -/
def holdsRelease (step : W32) (r : Req) : Bool :=
  r.sampled.any fun w => (w.1 = BitVec.allOnes 32 || w.1 < step) && w.2.1 ≤ step
/-- Whether an unfinished request must be over before an update from a commit step (R303): it counts as having sampled an
older one, or its wait has run out. -/
def holdsUpdate (s : State) (commit : W32) (r : Req) : Bool :=
  r.sampled.any fun w => w.2.2 < commit || (commit < w.2.1 && r.waiting.any fun x => x.1 ≤ s.cyc)

/-- REL after a release of a step: it is raised, where the step lies above it. -/
def putRel (s : State) (t : Tpb) (step : W32) : State :=
  if t.rel = BitVec.allOnes 32 ∨ t.rel < step then s.devStore (t.at0 + 8) (natBytes 4 step.toNat) else s
/-- `WREL` at the version unit (R299): it arrives, and its step is settled; it is performed once no request holds it. -/
def serveRelease (s : State) (c : Nat) (bankB : Bool) (r : Req) : State :=
  let p := Party.stream c bankB .ae
  match r.kind, r.sampled with
  | .wrel d ph dh named, none =>
    if s.commandHeld c bankB r then s
    else
      match s.readTpb p r.seq .near d ph dh with
      | .error e => (s.nameTpb ph).faultCmd c bankB r e 0 named
      | .ok t =>
        let step := if named = BitVec.allOnes 32 then t.commit - 1 else named
        if t.commit ≤ step then s.faultCmd c bankB r (0x45, 0) 0 step
        else
          let s := s.learnTpb t.at0
          if (s.arrived t.at0).any (holdsRelease step) then s.putReq c bankB { r with sampled := some (0, step, t.commit) }
          else (s.putRel t step).finishReq c bankB r
  | .wrel _ ph _ _, some (_, step, _) =>
    if (s.arrived (Handle.addr ph).toNat).any (holdsRelease step) then s
    else
      match s.tpbFields p r.seq .near ph with
      | .error e => s.faultCmd c bankB r e 0 step
      | .ok (t, _) => (s.putRel t step).finishReq c bankB r
  | _, _ => s

/-- An update command arrives at the stack of its tensor: it enters the tensor's temper queue, behind those that have arrived
(R303, R370), once the earlier accesses of its stream let it (R375). -/
def arriveUpdate (s : State) (c : Nat) (bankB : Bool) (r : Req) : State :=
  match r.kind with
  | .update _ _ ph _ _ _ =>
    let at0 := (Handle.addr ph).toNat
    let q := tget [] s.temperQ at0
    if q.contains r.id || s.commandHeld c bankB r then s else { s with temperQ := tset s.temperQ at0 (q ++ [r.id]) }
  | _ => s
/-- Whether a command is the first of its tensor's temper queue. -/
def temperFirst (s : State) (r : Req) : Bool :=
  match r.kind with
  | .update _ _ ph _ _ _ => (tget [] s.temperQ (Handle.addr ph).toNat).head? = some r.id
  | _ => false

/-- The first command of a temper queue: every granule still at the step before, then COMMIT (R301, R302).  It begins only when
no unfinished request still needs an older COMMIT than the one in force, and after the waits that have run out (R303). -/
def beginUpdate (s : State) (c : Nat) (bankB : Bool) (r : Req) : State :=
  match r.kind with
  | .update skip d ph dh gh goff =>
    let p := Party.stream c bankB .ae
    match s.readTpb p r.seq .near d ph dh with
    | .error e => (s.nameTpb ph).faultCmd c bankB r e 0 0
    | .ok t =>
      let step := t.commit + 1
      if t.commit = 0xFFFFFFFE then s.faultCmd c bankB r (0x40, 0) 0 step
      else if (s.arrived t.at0).any (s.holdsUpdate t.commit) then s
      else
        let skip := skip || (s.ctx ((s.core c).get bankB).job.ctx).gsf
        let x := (s.learnTpb t.at0).temperGrans p r.seq t skip ((Handle.addr gh).toNat + goff) step.toNat
          (List.range t.granules) 0
        match x.2.2 with
        | some e => x.1.faultCmd c bankB r e x.2.1 step
        | none =>
          ((x.1.widenWrites (fun w => w.visTo p .near) (1 <<< Path.near.bit) 5).devStore (t.at0 + 4)
            (natBytes 4 step.toNat)).finishReq c bankB r
  | _ => s
/-- The temper units look at a command: it arrives, where it has not, and begins when it is the first of its tensor's queue. -/
def serveUpdate (s : State) (c : Nat) (bankB : Bool) (r : Req) : State :=
  let s := s.arriveUpdate c bankB r
  if s.temperFirst r then s.beginUpdate c bankB r else s
/-- An update command arrives by a turn of its own (R303). -/
def arriveTurn (s : State) (c id : Nat) : State := s.reqStep c id fun bankB r => s.arriveUpdate c bankB r

/-- An operation that may be performed: posted, not performed, and not held by an earlier one. -/
def nearReady (s : State) (c id : Nat) (f : Bool → NearOp → State) : State :=
  s.nearStep c id fun bankB o =>
    let t := ((s.core c).get bankB).ae
    if o.performed || s.nearWaits c bankB o || drainHeld ((s.core c).get bankB) 3 ||
        t.reqs.any fun r => r.id < o.id && rangesMeet (s.commandRanges r.kind) (o.kind.ranges c) then s
    else f bankB o

/-- `NRED` (R329). -/
def runNred (s : State) (c : Nat) (bankB : Bool) (o : NearOp) : State :=
  match o.kind with
  | .nred fmt h base rlen idx dst =>
    let rows := (idx.filter (· ≠ BitVec.allOnes 32)).map fun i => ((Handle.addr h).toNat + base + i.toNat * rlen : Int).toNat
    match rows.find? fun a => s.eccHit a rlen with
    | some a => s.faultNear c bankB o a 0
    | none => (s.nredPerform c (Party.stream c bankB .ae) o.seq fmt h base rlen idx dst).dropNear c bankB o.id
  | _ => s

/-- `NADD` (R330). -/
def runNadd (s : State) (c : Nat) (bankB : Bool) (o : NearOp) : State :=
  match o.kind with
  | .nadd int h off data =>
    let r := s.addElems (Party.stream c bankB .ae) (some o.seq) int ((Handle.addr h).toNat + off) data 0
    match r.2.2 with
    | some a => r.1.faultNear c bankB o a r.2.1
    | none => r.1.dropNear c bankB o.id
  | _ => s

/-- `NAMO` (R331): the old value is on its way to the stream. -/
def runNamo (s : State) (c : Nat) (bankB : Bool) (o : NearOp) : State :=
  match o.kind with
  | .namo op ty h off x cmp _ =>
    let a := (Handle.addr h).toNat + off
    if s.eccHit a (amoSize ty) then s.faultNear c bankB o a 0
    else
      let r := s.rmw (Party.stream c bankB .ae) .near a (amoSize ty) (amoBytes op ty x cmp) false (some o.seq)
      ((r.2.leaveNear o.id).modBankStrm c bankB .ae fun t =>
        { t with near := t.near.map fun y => if y.id = o.id then { y with performed := true, reply := amoOld ty r.1 } else y }).workDone
        c bankB .ae
  | _ => s
/-- The reply of a `NAMO` writes its register. -/
def replyNamo (s : State) (c : Nat) (bankB : Bool) (o : NearOp) : State :=
  match o.kind with
  | .namo _ _ _ _ _ _ g =>
    if o.performed then (s.modBankStrm c bankB .ae fun t => t.wg g o.reply).dropNear c bankB o.id else s
  | _ => s

end State

/-! ### A bank sequencer (R285) -/

namespace State

/-- `NSEQ` (R285, R333). -/
def runSeq (s : State) (c : Nat) (bankB : Bool) (o : NearOp) : State :=
  match o.kind with
  | .nseq h prog =>
    match parseSeq prog with
    | none => s
    | some q =>
      let r := seqRun (Party.stream c bankB .ae) o.seq q (Handle.addr h).toNat q.counters { a := q.a, b := q.b, c := q.c, zero := false } (s, none)
      match r.2 with
      | some a => r.1.faultNear c bankB o a 0
      | none => r.1.dropNear c bankB o.id
  | _ => s

end State

/-! ### The events -/

/-- A memory unit serves a tile request (R278). -/
def execTileRequest (c : CoreId) (id : Nat) (s : State) : Answer :=
  .next (s.reqStep c.val id fun bankB r =>
    match r.kind with
    | .tile t => s.serveTile c.val bankB r t
    | _ => s)
/-- A waiting request goes on (R292). -/
def execStepWaitResume (c : CoreId) (id : Nat) (s : State) : Answer :=
  .next (s.reqStep c.val id fun bankB r => s.resumeTile c.val bankB r)
/-- A waiting request's limit has passed (R292). -/
def execWaitExpired (c : CoreId) (id : Nat) (s : State) : Answer :=
  .next (s.reqStep c.val id fun bankB r => s.expireTile c.val bankB r)
/-- A `QLD` appends its tile (R318). -/
def execQldAppend (c : CoreId) (id : Nat) (s : State) : Answer :=
  .next (s.reqStep c.val id fun bankB r => s.serveQld c.val bankB r)
/-- A gather is performed (R320). -/
def execGatherPerform (c : CoreId) (id : Nat) (s : State) : Answer :=
  .next (s.reqStep c.val id fun bankB r => s.serveGather c.val bankB r)
/-- An outpost performs an `NRED` (R329). -/
def execNredPerform (c : CoreId) (id : Nat) (s : State) : Answer :=
  .next (s.nearReady c.val id fun bankB o => s.runNred c.val bankB o)
/-- An outpost performs an `NADD` (R330). -/
def execNaddPerform (c : CoreId) (id : Nat) (s : State) : Answer :=
  .next (s.nearReady c.val id fun bankB o => s.runNadd c.val bankB o)
/-- An outpost performs a `NAMO` (R331). -/
def execNamoPerform (c : CoreId) (id : Nat) (s : State) : Answer :=
  .next (s.nearReady c.val id fun bankB o => s.runNamo c.val bankB o)
/-- The reply of a `NAMO` arrives (R331). -/
def execNearMemoryReply (c : CoreId) (id : Nat) (s : State) : Answer :=
  .next (s.nearStep c.val id fun bankB o => s.replyNamo c.val bankB o)
/-- A bank sequencer runs a program (R285). -/
def execBankSequencerRun (c : CoreId) (id : Nat) (s : State) : Answer :=
  .next (s.nearReady c.val id fun bankB o => s.runSeq c.val bankB o)
/-- The version unit performs a `WREL` (R299). -/
def execStepRelease (c : CoreId) (id : Nat) (s : State) : Answer :=
  .next (s.reqStep c.val id fun bankB r => s.serveRelease c.val bankB r)
/-- The temper units apply an update or skip command (R301, R302). -/
def execTemperUpdate (c : CoreId) (id : Nat) (s : State) : Answer :=
  .next (s.reqStep c.val id fun bankB r => s.serveUpdate c.val bankB r)

end Sys2Proof.Machine
end

