-- ==== Sys2Proof/Machine/Interlock.lean ====
section
/-! DEFINITION.  The register interlocks of R29: which `g` registers an instruction names, and which of them wait
for a translation, a near-memory reply or a remote reply (R322, R331, R436). -/

namespace Sys2Proof.Machine

/-- `n` registers from one on. -/
def regRange (r : GReg) (n : Nat) : List GReg := (List.range n).map fun i => r + BitVec.ofNat 6 i

/-- The `g` registers that an instruction's fields name, and those it reads without naming them; an extended
vector form counts its operand fields as `g` registers, whichever file they name (entry 12). -/
def Instr.gRegs : Instr → List GReg
  | .add d a b => [d, a, b]
  | .sub d a b => [d, a, b]
  | .mul d a b => [d, a, b]
  | .mulh d a b => [d, a, b]
  | .mulhu d a b => [d, a, b]
  | .madd d a b => [d, a, b]
  | .div d a b => [d, a, b]
  | .divu d a b => [d, a, b]
  | .rem d a b => [d, a, b]
  | .remu d a b => [d, a, b]
  | .and d a b => [d, a, b]
  | .or d a b => [d, a, b]
  | .xor d a b => [d, a, b]
  | .shl d a b => [d, a, b]
  | .shr d a b => [d, a, b]
  | .sha d a b => [d, a, b]
  | .min d a b => [d, a, b]
  | .max d a b => [d, a, b]
  | .minu d a b => [d, a, b]
  | .maxu d a b => [d, a, b]
  | .clz d a => [d, a]
  | .popc d a => [d, a]
  | .cmp _ d a b => [d, a, b]
  | .sel d a b c => [d, a, b, c]
  | .addi d a _ => [d, a]
  | .andi d a _ => [d, a]
  | .ori d a _ => [d, a]
  | .xori d a _ => [d, a]
  | .shli d a _ => [d, a]
  | .shri d a _ => [d, a]
  | .shai d a _ => [d, a]
  | .bfx d a _ _ => [d, a]
  | .bfxS d a _ _ => [d, a]
  | .bfi d a _ _ => [d, a]
  | .li d _ => [d]
  | .lui d _ => [d]
  | .bcz _ a _ => [a]
  | .bc _ a b _ => [a, b]
  | .jmp l a => [l, a]
  | .call l _ => [l]
  | .loop _ c _ => [c]
  | .loopi _ _ _ => []
  | .loopr _ c _ => [c]
  | .leave _ => []
  | .ld d a _ _ => [d, a]
  | .st d a _ _ => [d, a]
  | .ldHandle d a _ _ _ => [d, a]
  | .stHandle d a _ _ _ => [d, a]
  | .spl d _ _ => [d]
  | .sps d _ _ => [d]
  | .kmovKFromG _ a => [a]
  | .kmovGFromK d _ => [d]
  | .kmovKFromK _ _ => []
  | .kaddi _ _ _ => []
  | .twait _ => []
  | .tsig _ => []
  | .fence _ => []
  | .xfence _ _ => []
  | .waitc a => [a]
  | .csrr d _ => [d]
  | .csrw _ a => [a]
  | .trap _ => []
  | .nop => []
  | .rdv => []
  | .tret => []
  | .lil d _ => [d]
  | .ldAq d a _ _ _ _ _ _ => [d, a]
  | .stRl d a _ _ _ _ _ _ => [d, a]
  | .region mask => ((List.range 31).filter fun i => mask.getLsbD i).map fun i => BitVec.ofNat 6 (i + 1)
  | .mqpush a _ => [a, a + 1, a + 2, a + 3]
  | .mqdrop d _ => [d]
  | .mqdepth d _ => [d]
  | .mqdepthClr d _ => [d]
  | .semw _ _ _ => []
  | .sems _ _ _ => []
  | .bsel _ d a b _ => [d, a, b]
  | .launch d a _ => [d, a]
  | .ftw _ a _ _ => [a]
  | .kitld d a b _ _ => [d, a, b]
  | .rwait a _ => [a]
  | .rpoll d a _ => [d, a]
  | .yield d _ => [d]
  | .gsfset d a _ => [d, a]
  | .gsfsetOr d a _ => [d, a]
  | .rcall d a _ _ w => [d, a] ++ regRange w.pb w.pn.toNat ++ regRange w.rb w.rn.toNat
  | .qld _ d a b _ => [d, a, b]
  | .scq a b _ => [a, b]
  | .gld _ d _ a _ => [d, a, a + 1]
  | .gst _ d _ a _ => [d, a, a + 1]
  | .amoAdd _ _ _ a b _ => [a, b]
  | .amoMin _ _ _ a b _ => [a, b]
  | .amoMax _ _ _ a b _ => [a, b]
  | .amoAnd _ _ _ a b _ => [a, b]
  | .amoOr _ _ _ a b _ => [a, b]
  | .amoXor _ _ _ a b _ => [a, b]
  | .amoSwap _ _ _ a b _ => [a, b]
  | .amoCas _ _ _ a b _ => [a, b, b + 1]
  | .xlt _ _ a b _ => [a, b]
  | .xltw _ _ a b _ => [a, b]
  | .hinvAll _ => []
  | .hinvRid a _ => [a]
  | .hinvRange a b _ => [a, b]
  | .hinvRangeRem a b _ => [a, b]
  | .hchk d _ _ => [d]
  | .hchkAddr d _ _ => [d]
  | .hmov _ _ _ _ => []
  | .kget _ a _ => [a]
  | .wrel a _ _ => [a]
  | .tupd _ a b _ => [a, b]
  | .tskip a _ => [a]
  | .nred _ d a b _ => [d, a, b]
  | .nadd _ _ a b _ => [a, b]
  | .namoAdd _ _ a b _ => [a, b]
  | .namoMax _ _ a b _ => [a, b]
  | .namoSwap _ _ a b _ => [a, b]
  | .namoCas _ _ a b _ => [a, b, b + 1]
  | .nfence _ => []
  | .nfencePoll d _ => [d]
  | .nseq a _ => [a]
  | .rwaitAe a _ => [a]
  | .tkq d a _ => [d, a]
  | .tkqCnt d _ => [d]
  | .pft _ a b _ => [a, b]
  | .tld d a b _ _ _ => [d, a, b, b + 1, 56, 57, 58]
  | .tldt d a b _ _ _ => [d, a, b, b + 1, 56, 57, 58]
  | .tst d a b _ _ _ _ _ _ => [d, a, b, b + 1, 56, 57, 58]
  | .rcallAe d a _ _ w => [d, a] ++ regRange w.pb w.pn.toNat ++ regRange w.rb w.rn.toNat
  | .vadd _ _ _ _ _ => []
  | .vsub _ _ _ _ _ => []
  | .vmul _ _ _ _ _ => []
  | .vfma _ _ _ _ _ => []
  | .vfms _ _ _ _ _ => []
  | .vmin _ _ _ _ _ => []
  | .vmax _ _ _ _ _ => []
  | .vand _ _ _ _ _ => []
  | .vor _ _ _ _ _ => []
  | .vxor _ _ _ _ _ => []
  | .vshl _ _ _ _ _ => []
  | .vshr _ _ _ _ _ => []
  | .vsha _ _ _ _ _ => []
  | .vabs _ _ _ _ => []
  | .vneg _ _ _ _ => []
  | .vwadd _ _ _ _ _ => []
  | .vwmul _ _ _ _ _ => []
  | .vwfma _ _ _ _ _ => []
  | .vnrw _ _ _ _ _ => []
  | .vcvt _ _ _ _ _ => []
  | .vqnt _ _ _ _ _ => []
  | .vdqt _ _ _ _ => []
  | .vcmp _ _ _ _ _ _ => []
  | .vsel _ _ _ _ _ => []
  | .pand _ _ _ _ => []
  | .por _ _ _ _ => []
  | .pxor _ _ _ _ => []
  | .pnot _ _ _ => []
  | .pcnt d _ _ _ => [d]
  | .pfirst d _ _ _ => [d]
  | .pstage _ a _ _ _ => [a]
  | .vperm _ _ _ _ _ => []
  | .vshuf _ _ _ _ => []
  | .vbcast _ a _ _ => [a]
  | .vextr d _ b _ _ => [d, b]
  | .vins _ a b _ _ => [a, b]
  | .vslide _ _ b _ _ => [b]
  | .vzip _ _ _ _ _ => []
  | .vuzp _ _ _ _ => []
  | .vrsum _ _ _ _ => []
  | .vrmax _ _ _ _ => []
  | .vrmin _ _ _ _ => []
  | .vscan _ _ _ _ => []
  | .vsegr _ _ _ _ _ => []
  | .vsort _ _ _ _ => []
  | .vsortDesc _ _ _ _ => []
  | .vuniq _ _ _ _ => []
  | .vexp2 _ _ _ => []
  | .vlog2 _ _ _ => []
  | .vrcp _ _ _ => []
  | .vrsq _ _ _ => []
  | .vexp _ _ _ => []
  | .vtanh _ _ _ => []
  | .vsig _ _ _ => []
  | .vgelu _ _ _ => []
  | .vhash _ _ _ => [56, 57, 58]
  | .vdrop _ _ b _ _ => [b, 56, 57, 58]
  | .vld _ a _ _ _ _ => [a]
  | .vst _ a _ _ _ _ => [a]
  | .vlds _ a b _ _ => [a, b]
  | .vsts _ a b _ _ => [a, b]
  | .vgth _ a _ _ _ => [a]
  | .vsct _ a _ _ _ => [a]
  | .accrd _ a _ => [a]
  | .accwr _ a _ => [a]
  | .vrotb a _ => [a]
  | .vdefer _ _ _ _ _ => []
  | .vdrain _ a _ _ => [a]
  | .vdqn d a _ => [d, a]
  | .extendedVectorForm o _ => [o.d, o.a, o.b, 56, 57, 58]
  | .xcopy d a b _ => [d, a, b]
  | .xmcast _ d a b _ => [d, a, b]
  | .xrot d a b _ => [d, a, b]
  | .xfill d a b _ => [d, a, b]
  | .binit a b _ => [a, b]
  | .binitClr a b _ => [a, b]
  | .bwait a b _ => [a, b]
  | .bqry d a _ => [d, a]
  | .barr _ => []
  | .fsend a b _ => [a, b]
  | .frecv a _ => [a]
  | .fwiden a _ => [a]
  | .xltx _ _ a b _ => [a, b]
  | .xstat d b _ => [d, b]
  | .xstatWait d a b _ => [d, a, b]
  | .xcancel d b _ => [d, b]
  | .xcopy2d d a b _ _ => [d, a, b]
  | .freq d a _ _ => [d, a]
  | .old d a _ => [d, a]
  | .ost d a _ => [d, a]
  | .oamoAdd _ a b => [a, b]
  | .oamoMax _ a b => [a, b]
  | .oamoSwap _ a b => [a, b]
  | .oamoCas _ a b => [a, b, b + 1]
  | .ovadd _ _ _ => []
  | .ovmul _ _ _ => []
  | .ovfma _ _ _ => []
  | .ovmax _ _ _ => []
  | .ovld _ a => [a]
  | .ovst _ a => [a]
  | .oreply _ a => [a]
  | .mnop => []
  | .mma _ => []
  | .mmaz _ => []
  | .bload _ => []
  | .bslot _ => []
  | .accz _ => []
  | .drain _ => []
  | .prj _ => []
  | .prjadj _ => []
  | .semsig _ => []
  | .abank _ => []
  | .translationLookup _ _ _ => []
  | .pageWalkEnd _ _ _ => []
  | .invalidationComplete _ => []
  | .tileRequest _ _ => []
  | .stepWaitResume _ _ => []
  | .waitExpired _ _ => []
  | .qldAppend _ _ => []
  | .gatherPerform _ _ => []
  | .nredPerform _ _ => []
  | .naddPerform _ _ => []
  | .namoPerform _ _ => []
  | .nearMemoryReply _ _ => []
  | .bankSequencerRun _ _ => []
  | .stepRelease _ _ => []
  | .temperUpdate _ _ => []
  | .copyLanding _ _ => []
  | .xrotRotationStart _ => []
  | .promiseMiss _ => []
  | .remoteCallStart _ _ => []
  | .callRunTimeout _ _ => []
  | .callReply _ _ _ => []
  | .callLost _ _ => []
  | .remoteAccessArrival _ => []
  | .remoteReply _ _ _ _ => []
  | .remoteFaultReply _ _ _ _ _ _ _ => []
  | .faultTicket _ _ _ => []
  | .replayNotice _ _ _ => []
  | .ticketExpired _ _ => []
  | .exportWalkEnd _ _ => []
  | .ticketCancelNotice _ _ _ _ => []
  | .peerUnreach _ _ _ => []
  | .hostLossNotice _ => []
  | .slotSendStart _ _ => []
  | .slotArrival _ _ _ _ => []
  | .bookingLapse _ _ => []
  | .tokenDeadlock _ => []
  | .impreciseReportTimeout _ _ => []
  | .regionLong _ _ => []
  | .doorbellWrite _ _ _ => []
  | .submissionFetch _ _ => []
  | .graphStart _ _ => []
  | .graphNodeWalk _ _ => []
  | .graphNodeCopy _ _ => []
  | .copyNodeComplete _ _ => []
  | .graphNodeCondition _ _ => []
  | .graphNodeSwitch _ _ => []
  | .graphNodeEvent _ _ => []
  | .graphNodeLoop _ _ => []
  | .poolAllocation => []
  | .placementDecision => []
  | .energyBudgetUpdate => []
  | .headroomReading _ _ => []
  | .preemptionRequest => []
  | .gangDiscard _ => []
  | .preemptionWithdrawn _ => []
  | .bankReadyTimeout _ => []
  | .pageFaultRecordReoffer _ _ => []
  | .functionLevelReset _ => []
  | .moduleReset => []
  | .moduleResetDone => []
  | .hostLinkLoss => []
  | .hostLossDiscardTimeout _ => []
  | .hostLinkReturn => []
  | .thermalTrip _ => []
  | .thermalTripEnd _ => []
  | .operatingPointChange => []
  | .healthWordUpdate _ => []
  | .coreMemoryError _ => []
  | .refreshErrorFound _ _ => []
  | .powerDownEntry _ => []
  | .selfRefreshEntry _ => []
  | .sqctlWrite _ _ _ => []
  | .fqctlWrite _ _ => []
  | .fqctlRead _ => []
  | .fqresume _ _ => []
  | .kitregRegister _ _ => []
  | .kitregUnregister _ _ => []
  | .invctlGo _ _ => []
  | .exresume _ _ => []
  | .devctlMrst => []
  | .devctlHoldclr => []
  | .opctlWrite _ => []
  | .ebmaxWrite _ => []
  | .logrdSelect _ => []
  | .logrdDrain => []
  | .instructionMemoryWrite _ _ _ _ _ => []
  | .registerWrite _ _ _ => []
  | .sensorRead _ => []
  | .firmwareUpdate _ _ _ _ => []
  | .attestation => []
  | .getHealth => []
  | .readLog _ => []
  | .resetModule => []
  | .releaseHold => []
  | .readEnergy => []
  | .functionLevelResetDone _ => []
  | .kitRegistrationDone _ => []
  | .timeBaseLock _ => []
  | .powerLoss => []

/-- Whether the instruction names a `v` register. -/
def Instr.usesV : Instr → Bool
  | .vadd _ _ _ _ _ => true
  | .vsub _ _ _ _ _ => true
  | .vmul _ _ _ _ _ => true
  | .vfma _ _ _ _ _ => true
  | .vfms _ _ _ _ _ => true
  | .vmin _ _ _ _ _ => true
  | .vmax _ _ _ _ _ => true
  | .vand _ _ _ _ _ => true
  | .vor _ _ _ _ _ => true
  | .vxor _ _ _ _ _ => true
  | .vshl _ _ _ _ _ => true
  | .vshr _ _ _ _ _ => true
  | .vsha _ _ _ _ _ => true
  | .vabs _ _ _ _ => true
  | .vneg _ _ _ _ => true
  | .vwadd _ _ _ _ _ => true
  | .vwmul _ _ _ _ _ => true
  | .vwfma _ _ _ _ _ => true
  | .vnrw _ _ _ _ _ => true
  | .vcvt _ _ _ _ _ => true
  | .vqnt _ _ _ _ _ => true
  | .vdqt _ _ _ _ => true
  | .vcmp _ _ _ _ _ _ => true
  | .vsel _ _ _ _ _ => true
  | .vperm _ _ _ _ _ => true
  | .vshuf _ _ _ _ => true
  | .vbcast _ _ _ _ => true
  | .vextr _ _ _ _ _ => true
  | .vins _ _ _ _ _ => true
  | .vslide _ _ _ _ _ => true
  | .vzip _ _ _ _ _ => true
  | .vuzp _ _ _ _ => true
  | .vrsum _ _ _ _ => true
  | .vrmax _ _ _ _ => true
  | .vrmin _ _ _ _ => true
  | .vscan _ _ _ _ => true
  | .vsegr _ _ _ _ _ => true
  | .vsort _ _ _ _ => true
  | .vsortDesc _ _ _ _ => true
  | .vuniq _ _ _ _ => true
  | .vexp2 _ _ _ => true
  | .vlog2 _ _ _ => true
  | .vrcp _ _ _ => true
  | .vrsq _ _ _ => true
  | .vexp _ _ _ => true
  | .vtanh _ _ _ => true
  | .vsig _ _ _ => true
  | .vgelu _ _ _ => true
  | .vhash _ _ _ => true
  | .vdrop _ _ _ _ _ => true
  | .vld _ _ _ _ _ _ => true
  | .vst _ _ _ _ _ _ => true
  | .vlds _ _ _ _ _ => true
  | .vsts _ _ _ _ _ => true
  | .vgth _ _ _ _ _ => true
  | .vsct _ _ _ _ _ => true
  | .accrd _ _ _ => true
  | .accwr _ _ _ => true
  | .vdefer _ _ _ _ _ => true
  | .vdrain _ _ _ _ => true
  | .extendedVectorForm _ _ => true
  | _ => false

/-- The `g` register that a reply or a read step writes. -/
def RemDest.reg : RemDest → Option GReg
  | .greg d _ => some d
  | .acq d _ => some d
  | .old d _ => some d
  | _ => Option.none
/-- Whether it writes a vector register. -/
def RemDest.isVec : RemDest → Bool
  | .vec .. => true
  | _ => false
/-- The `g` registers that wait for a reply, a read step or the end of a translation. -/
def pendingRegs (t : Stream) : List GReg :=
  (t.xlates.map fun x => x.greg) ++
  (t.near.filterMap fun o =>
    match o.kind with
    | .namo _ _ _ _ _ _ r => some r
    | _ => none) ++
  (t.rems.filterMap fun r => r.dest.reg) ++ t.loads.filterMap fun l => l.dest.reg
/-- Whether a vector register waits for a load. -/
def pendingVec (t : Stream) : Bool := (t.rems.any fun r => r.dest.isVec) || t.loads.any fun l => l.dest.isVec

/-- Whether a remote acquire has not read yet (R379). -/
def pendingAcq (t : Stream) : Bool := t.rems.any fun r =>
  match r.dest with
  | .acq .. => true
  | _ => false

/-- The registers an `RWAIT` writes, which its tag keeps (R363). -/
def replyRegs (t : Stream) (i : Instr) : List GReg :=
  let f := fun (a : GReg) => let c := t.call ((t.rg a).toNat % 16); regRange c.rb c.rn.toNat
  match i with
  | .rwait a _ => f a
  | .rwaitAe a _ => f a
  | _ => []

/-- Whether an instruction waits: for a register that is not there yet (`g0` is never waited for), or for a remote
acquire. -/
def interlocked (t : Stream) (i : Instr) : Bool :=
  pendingAcq t || ((pendingRegs t).any fun r => r ≠ 0 && ((Instr.gRegs i).contains r || (replyRegs t i).contains r)) ||
    (pendingVec t && Instr.usesV i)

/-! ### Issue past reads that are still to be taken (R371, R381) -/

/-- An instruction of the shared subset that touches only registers and spill memory and does not trap. -/
def Instr.registerOnly : Instr → Bool
  | .add .. => true
  | .sub .. => true
  | .mul .. => true
  | .mulh .. => true
  | .mulhu .. => true
  | .madd .. => true
  | .div .. => true
  | .divu .. => true
  | .rem .. => true
  | .remu .. => true
  | .and .. => true
  | .or .. => true
  | .xor .. => true
  | .shl .. => true
  | .shr .. => true
  | .sha .. => true
  | .min .. => true
  | .max .. => true
  | .minu .. => true
  | .maxu .. => true
  | .clz .. => true
  | .popc .. => true
  | .cmp .. => true
  | .sel .. => true
  | .addi .. => true
  | .andi .. => true
  | .ori .. => true
  | .xori .. => true
  | .shli .. => true
  | .shri .. => true
  | .shai .. => true
  | .bfx .. => true
  | .bfxS .. => true
  | .bfi .. => true
  | .li .. => true
  | .lui .. => true
  | .bcz .. => true
  | .bc .. => true
  | .call .. => true
  | .loop .. => true
  | .loopi .. => true
  | .loopr .. => true
  | .leave .. => true
  | .spl .. => true
  | .sps .. => true
  | .kmovKFromG .. => true
  | .kmovGFromK .. => true
  | .kmovKFromK .. => true
  | .kaddi .. => true
  | .nop .. => true
  | .lil .. => true
  | _ => false
/-- A load, a store, an atomic or a vector instruction without a token pattern, which orders nothing but accesses to its own
bytes. -/
def Instr.accessOnly : Instr → Bool
  | .ld .. => true
  | .st .. => true
  | .ldHandle .. => true
  | .stHandle .. => true
  | .ldAq .. => true
  | .amoAdd _ _ _ _ _ tk => tk = 0
  | .amoMin _ _ _ _ _ tk => tk = 0
  | .amoMax _ _ _ _ _ tk => tk = 0
  | .amoAnd _ _ _ _ _ tk => tk = 0
  | .amoOr _ _ _ _ _ tk => tk = 0
  | .amoXor _ _ _ _ _ tk => tk = 0
  | .amoSwap _ _ _ _ _ tk => tk = 0
  | .amoCas _ _ _ _ _ tk => tk = 0
  | .vadd _ _ _ _ tk => tk = 0
  | .vsub _ _ _ _ tk => tk = 0
  | .vmul _ _ _ _ tk => tk = 0
  | .vfma _ _ _ _ tk => tk = 0
  | .vfms _ _ _ _ tk => tk = 0
  | .vmin _ _ _ _ tk => tk = 0
  | .vmax _ _ _ _ tk => tk = 0
  | .vand _ _ _ _ tk => tk = 0
  | .vor _ _ _ _ tk => tk = 0
  | .vxor _ _ _ _ tk => tk = 0
  | .vshl _ _ _ _ tk => tk = 0
  | .vshr _ _ _ _ tk => tk = 0
  | .vsha _ _ _ _ tk => tk = 0
  | .vabs _ _ _ tk => tk = 0
  | .vneg _ _ _ tk => tk = 0
  | .vwadd _ _ _ _ tk => tk = 0
  | .vwmul _ _ _ _ tk => tk = 0
  | .vwfma _ _ _ _ tk => tk = 0
  | .vnrw _ _ _ _ tk => tk = 0
  | .vcvt _ _ _ _ tk => tk = 0
  | .vqnt _ _ _ _ tk => tk = 0
  | .vdqt _ _ _ tk => tk = 0
  | .vcmp _ _ _ _ _ tk => tk = 0
  | .vsel _ _ _ _ tk => tk = 0
  | .pand _ _ _ tk => tk = 0
  | .por _ _ _ tk => tk = 0
  | .pxor _ _ _ tk => tk = 0
  | .pnot _ _ tk => tk = 0
  | .pcnt _ _ _ tk => tk = 0
  | .pfirst _ _ _ tk => tk = 0
  | .pstage _ _ _ _ tk => tk = 0
  | .vperm _ _ _ _ tk => tk = 0
  | .vshuf _ _ _ tk => tk = 0
  | .vbcast _ _ _ tk => tk = 0
  | .vextr _ _ _ _ tk => tk = 0
  | .vins _ _ _ _ tk => tk = 0
  | .vslide _ _ _ _ tk => tk = 0
  | .vzip _ _ _ _ tk => tk = 0
  | .vuzp _ _ _ tk => tk = 0
  | .vrsum _ _ _ tk => tk = 0
  | .vrmax _ _ _ tk => tk = 0
  | .vrmin _ _ _ tk => tk = 0
  | .vscan _ _ _ tk => tk = 0
  | .vsegr _ _ _ _ tk => tk = 0
  | .vsort _ _ _ tk => tk = 0
  | .vsortDesc _ _ _ tk => tk = 0
  | .vuniq _ _ _ tk => tk = 0
  | .vexp2 _ _ tk => tk = 0
  | .vlog2 _ _ tk => tk = 0
  | .vrcp _ _ tk => tk = 0
  | .vrsq _ _ tk => tk = 0
  | .vexp _ _ tk => tk = 0
  | .vtanh _ _ tk => tk = 0
  | .vsig _ _ tk => tk = 0
  | .vgelu _ _ tk => tk = 0
  | .vhash _ _ tk => tk = 0
  | .vdrop _ _ _ _ tk => tk = 0
  | .vld _ _ _ _ _ tk => tk = 0
  | .vst _ _ _ _ _ tk => tk = 0
  | .vlds _ _ _ _ tk => tk = 0
  | .vsts _ _ _ _ tk => tk = 0
  | .vgth _ _ _ _ tk => tk = 0
  | .vsct _ _ _ _ tk => tk = 0
  | .extendedVectorForm o _ => o.tk = 0
  | _ => false

namespace State

/-- Whether an instruction may issue before an earlier load of its stream has read (R371): it touches only registers, or it
is a scalar load or store of this package that has passed its checks. -/
def plain (s : State) (i : Instr) : Bool :=
  let scratch := fun (a : GReg) (imm : Word) (n : Nat) => s.chkScratch (s.scratchAddr a imm) n n = .ok
  let handle := fun (r : HReg) (a : GReg) (imm : Word) (n : Nat) (perm : BitVec 3) =>
    s.chkHandle r (s.handleOff a imm) n n perm = .ok && !Handle.remote (s.h r)
  match i with
  | .ld _ a imm sz => scratch a (sext imm) (sizeBytes sz)
  | .st _ a imm sz => scratch a (sext imm) (sizeBytes sz)
  | .ldHandle _ a h imm sz =>
    handle h a (sext imm) (sizeBytes sz) 1 && !s.eccHit (handlePhys (s.h h) (s.handleOff a (sext imm))) (sizeBytes sz)
  | .stHandle _ a h imm sz => handle h a (sext imm) (sizeBytes sz) 2
  | _ => Instr.registerOnly i
/-- Whether reads that still have to be taken hold an instruction back. -/
def loadsHold (s : State) (i : Instr) : Bool := !s.me.loads.isEmpty && !s.plain i
/-- What a stream has read ahead, and the wish to defer a read, are given up at an instruction that may order accesses. -/
def keepAhead (s : State) (i : Instr) : State :=
  if (s.me.pre.isEmpty && !s.me.lazy) || Instr.registerOnly i || Instr.accessOnly i then s
  else s.modMe fun t => { t with pre := [], lazy := false }

end State

/-- The promise registers of rotations that have not started (R342). -/
def Bank.rotRegs (b : Bank) : List GReg := (b.copies.filter fun x => x.2.busy && x.2.kind = .rot && !x.2.rotOn).map fun x => x.2.dreg
/-- Whether an instruction of the stream that executes waits for the start of a rotation. -/
def State.rotHeld (s : State) (i : Instr) : Bool :=
  s.curEng = some .xe && s.curBank.rotRegs.any fun r => r ≠ 0 && (Instr.gRegs i).contains r

end Sys2Proof.Machine
end

