-- ==== Sys2Proof/Machine/Calls.lean ====
section
/-! DEFINITION.  Remote calls as their callers see them: `RCALL`, `RWAIT` and `RPOLL` (R360 to R364, R335, R441). -/

namespace Sys2Proof.Machine

/-- A call enters the queue of an outpost (R388). -/
def State.queueCall (s : State) (o : Nat) (x : OCall) : State :=
  s.setOutpost o { s.outpost o with queue := (s.outpost o).queue ++ [x] }

/-- The lowest free tag of a stream. -/
def freeTag (t : Stream) : Option Nat := (List.range 16).find? fun n => (t.call n).st = .free

/-- The payload registers of a call. -/
def payload (t : Stream) (w : CallW2) : List Word := (regRange w.pb w.pn.toNat).map t.rg

namespace State

/-- The stream's stores on the scalar path to the page that a local handle names. -/
def pageStores (s : State) (h : Handle) (x : Write) : Bool :=
  x.party = s.party && x.path = .sc && x.hits [((Handle.addr h).toNat, Handle.bytes h)]
/-- A call through a local handle: the stores to the target page that it follows become visible, and it is queued
(R361, R388). -/
def callLocal (s : State) (h : Handle) (off : Word) (entry : BitVec 10) (ws : List Word) (who : Caller) : State :=
  let base := (Handle.addr h).toNat
  let p := s.party
  let (id, s) := ((s.stepWrites (s.pageStores h)).widenWrites (s.pageStores h) 0x21 5).fresh
  s.queueCall (outpostOf base)
    { id := id, caller := who, party := p, ctx := s.curCtx, entry := entry, payload := ws, base := base
      bytes := Handle.bytes h, perm := Handle.perm h, off := off }

/-- Whether a store of the stream to the page that a remote handle names is still on its way (R388). -/
def remoteStoreOpen (t : Stream) (h : Handle) : Bool := t.rems.any fun r =>
  r.path = .sc && (Handle.addr h).toNat ≤ r.addr.toNat && decide (r.addr.toNat < (Handle.addr h).toNat + Handle.bytes h) &&
    match r.op with
    | .store _ => true
    | _ => false

/-- Whether an entry is declared `idem` in the images of the caller's context (R362, entry 22). -/
def idem (s : State) (entry : BitVec 10) : Bool :=
  match s.entryWord s.curCtx entry with
  | some (_, w) => w.getLsbD 30
  | none => false

/-- The call of `RCALL` once its checks have passed and its tag is known. -/
def callGo (s : State) (d a : GReg) (r : HReg) (w : CallW2) (tag : Option Nat) : End :=
  let t := s.me
  let h := t.rh r
  let off := t.rg a
  let ws := payload t w
  let gen := match tag with
    | some n => (t.call n).gen + 1
    | none => 0
  let taken := fun (s : State) =>
    match tag with
    | none => s.setG d (BitVec.allOnes 64)
    | some n =>
      let c : Call := { st := .flight, gen := gen, rb := w.rb, rn := w.rn, pc := s.me.pc, issued := s.cyc }
      (s.modMe fun t => { t with calls := tset t.calls n c }).setG d (BitVec.ofNat 64 n)
  let sealed := fun (s : State) => if s.idem w.entry then s else s.sealRegion
  if Handle.remote h then
    let addr := fabAddr h off.toInt
    let dest := match tag with
      | some n => .call n gen
      | none => .none
    if remoteStoreOpen t h then .wait s false
    else
      match s.remoteIssue h addr .rem (.call w.entry ws tag.isNone (Handle.perm h)) dest with
      | .done s => .done (sealed (taken s))
      | e => e
  else
    match s.cur with
    | .eng c e =>
      let who := match tag with
        | some n => .tag c (s.core c).runB e n gen
        | none => .none
      if s.forceHeld (s.pageStores h) then .wait s false
      else .done (sealed (taken (s.callLocal h off w.entry ws who)))
    | _ => .done s

/-- `RCALL` (R361). -/
def callBody (s : State) (d a : GReg) (r : HReg) (w : CallW2) : End :=
  let base := (Handle.addr (s.h r)).toNat
  let chk := (s.chkHandle r (s.g a).toInt 1 1 1).and fun _ =>
    need (Handle.remote (s.h r) || !inWindow base) 0x58
  s.afterChk chk fun _ =>
    let go := fun (tag : Option Nat) =>
      if s.idem w.entry then s.callGo d a r w tag else s.sealing fun _ => s.callGo d a r w tag
    if Handle.remote (s.h r) && !s.mgmt.peerid.getLsbD 12 then
      .trapped (s.trap 0x6A (zext (fabAddr (s.h r) (s.g a).toInt)))
    else if w.nr then go none
    else
      match freeTag s.me with
      | none => .wait s false
      | some n => go (some n)

/-- The tag that a register names. -/
def tagOf (s : State) (a : GReg) : Nat := (s.g a).toNat % 16
/-- A tag is free again. -/
def freeCall (s : State) (n : Nat) : State :=
  s.modMe fun t => { t with calls := tset t.calls n { t.call n with st := .free } }
/-- Whether a call has had its 12,000,000 ticks (R363). -/
def callTimedOut (s : State) (x : Call) : Bool := decide (x.issued + Config.callTimeout ≤ s.cyc)

/-- A normal reply makes every write of the call visible to the caller on every path (R363, R388), and the stream has
waited for the call's work (R369). -/
def joinCall (s : State) : State :=
  let p := s.party
  let s := s.widenWrites (fun w => w.party = p && w.path = .rem) 0x3F 1
  match s.cur with
  | .eng _ e => s.modMe fun t => { t with clk := raiseClk t.clk e 2 s.nextId }
  | _ => s
/-- The return registers are written; those beyond the registers sent get 0 (R363). -/
def writeReturn (s : State) (x : Call) (regs : List Word) : State :=
  (List.range x.rn.toNat).foldl (fun s i => s.setG (x.rb + BitVec.ofNat 6 i) (regs.getD i 0)) s

/-- `RWAIT` (R363). -/
def waitCall (s : State) (a : GReg) : End :=
  let n := s.tagOf a
  let x := s.me.call n
  match x.st with
  | .free => .trapped s.illegal
  | .flight =>
    if s.callTimedOut x then .trapped ((s.freeCall n).trap 0x56 0)
    else .wait (s.modMe fun t => { t with waitId := n + 1 }) false
  | .ready regs => .done (((s.freeCall n).joinCall).writeReturn x regs)
  | .fault code addr pc word =>
    .trapped ((s.freeCall n).trapWords code 2 [x.pc, addr, word, pc, BitVec.ofNat 64 n] false)

end State

/-- `RCALL` of the CE (R360, R361). -/
def execRcall (d a : GReg) (h : HReg) (tk : Tk) (w : CallW2) (s : State) : Answer :=
  .next (s.withPattern tk 8 fun _ s => s.callBody d a h w)
/-- `RCALL` of the AE (R335). -/
def execRcallAe (d a : GReg) (h : HReg) (tk : Tk) (w : CallW2) (s : State) : Answer :=
  .next (s.withPattern tk 8 fun _ s => s.callBody d a h w)
/-- `RWAIT` of the CE (R363). -/
def execRwait (a : GReg) (tk : Tk) (s : State) : Answer := .next (s.withPattern tk 4 fun _ s => s.waitCall a)
/-- `RWAIT` of the AE (R335). -/
def execRwaitAe (a : GReg) (tk : Tk) (s : State) : Answer := .next (s.withPattern tk 4 fun _ s => s.waitCall a)
/-- `RPOLL` (R364). -/
def execRpoll (d a : GReg) (tk : Tk) (s : State) : Answer :=
  .next (s.withPattern tk 4 fun _ s =>
    let x := s.me.call (s.tagOf a)
    .done (s.setG d (match x.st with
      | .free => 0
      | .flight => if s.callTimedOut x then 4 else 1
      | .ready _ => 2
      | .fault .. => 3)))

end Sys2Proof.Machine
end

