-- ==== Sys2Proof/Machine/Ce.lean ====
section
/-! DEFINITION.  The private half of the control engine (R79): the matrix queue (R198, R220, R221), semaphores (R150),
buckets (R159), format tables (R156), `LAUNCH` (R255), `YIELD` (R420) and `GSFSET` (R300). -/

namespace Sys2Proof.Machine

/-! ### The matrix queue -/

/-- The record that `MQPUSH` assembles (R198). -/
def mqRecord (t : Stream) (a : GReg) : BitVec 128 :=
  if a = 0 then 0
  else fld (t.rg (a + 3)) 0 32 ++ fld (t.rg (a + 2)) 0 32 ++ fld (t.rg (a + 1)) 0 32 ++ fld (t.rg a) 0 32

/-- `MQPUSH` (R198, R199): the checks, the wait for room, and the push of what the command captures.  The wait on a
full queue is stuck while the ME waits on a semaphore (R151). -/
def execMqpush (a : GReg) (tk : Tk) (s : State) : Answer :=
  .next (s.withPattern tk 4 fun _ s =>
    let record := mqRecord s.me a
    let c := s.mxCheck record
    let b := s.curBank
    s.afterChk c.1 fun _ =>
      if 16 ≤ b.mq.length then .wait s (b.mq.head?.any fun m => m.waitedSem)
      else
        let e : MqEntry :=
          { record := record, pc := s.me.pc, rm := fcwRm s.me.fcw, fte := c.2, h := s.mxHandle record
            clk := s.me.chain .ce s.nextId }
        .done (s.modCurBank fun b => { b with mq := b.mq ++ [e], stuckSince := none, stuckFor := 0 }))

/-- The commands in a queue that have not started. -/
def mqUnstarted (q : List MqEntry) : List MqEntry := q.filter fun m => !m.started
/-- The semaphores that dropped commands signal, in queue order, and what their signals carry. -/
def mqSignals (q : List MqEntry) : List (BitVec 4 × Tab Nat) :=
  (mqUnstarted q).filterMap fun m => if (mxHdr m.record).sse then some ((mxHdr m.record).ssi, m.clk) else none

/-- `MQDROP` (R220). -/
def execMqdrop (d : GReg) (tk : Tk) (s : State) : Answer :=
  .next (s.withPattern tk 4 fun _ s =>
    let b := s.curBank
    let sigs := mqSignals b.mq
    let started := b.mq.filter fun m => m.started
    let b' := { b with
      mq := started
      drop := sigs.foldl (fun x i => x ||| (1 <<< i.1.toNat)) b.drop
      dropSig := b.dropSig ++ sigs }
    let b' := if started.isEmpty then b'.dropSignals else b'
    .done ((s.modCurBank fun _ => b').setG d (BitVec.ofNat 64 (mqUnstarted b.mq).length)))

/-- The word of `MQDEPTH` (R221). -/
def mqWord (b : Bank) : Word :=
  BitVec.ofNat 64 b.mq.length ||| (boolWord (b.mq.any fun m => m.started) <<< 5) |||
    (BitVec.ofNat 64 b.slot0.code <<< 8) ||| (BitVec.ofNat 64 b.slot1.code <<< 10) ||| (boolWord b.active <<< 12) |||
    (zext b.drop <<< 16)
/-- `MQDEPTH` (R221). -/
def execMqdepth (d : GReg) (tk : Tk) (s : State) : Answer :=
  .next (s.withPattern tk 4 fun _ s => .done (s.setG d (mqWord s.curBank)))
/-- `MQDEPTH.CLR` (R221): the drop mask is cleared in the same step. -/
def execMqdepthClr (d : GReg) (tk : Tk) (s : State) : Answer :=
  .next (s.withPattern tk 4 fun _ s =>
    .done ((s.setG d (mqWord s.curBank)).modCurBank fun b => { b with drop := 0 }))

/-! ### Semaphores (R150) -/

/-- `SEMW` (R150): a reporting point (R222). -/
def execSemw (i : BitVec 4) (n1 : BitVec 6) (tk : Tk) (s : State) : Answer :=
  .next (s.withPattern tk 4 fun _ s =>
    s.atPoint .semw fun _ =>
      let n := n1.toNat + 1
      if n ≤ s.curBank.semFor .ce i then .done (s.modCurBank fun b => b.semTake .ce i n)
      else .wait (s.noteWait 0 true i n) true)
/-- `SEMS` (R150). -/
def execSems (i : BitVec 4) (n1 : BitVec 6) (tk : Tk) (s : State) : Answer :=
  .next (s.withPattern tk 4 fun _ s =>
    let n := n1.toNat + 1
    if 255 < s.curBank.sem i + n then .trapped (s.trap 0x19 0)
    else .done (s.modCurBank fun b => b.semGive i n (b.ce.chain .ce s.nextId)))

/-! ### Buckets and format tables -/

/-- The index of the smallest size at or above D, the lowest on equal sizes (R159). -/
def bucketOf (sizes : List Nat) (d : Nat) : Option Nat :=
  (sizes.zipIdx.foldl (fun (best : Option (Nat × Nat)) x =>
    if d ≤ x.1 then
      match best with
      | some (m, _) => if x.1 < m then some x else best
      | none => some x
    else best) none).map (·.2)

/-- A change of every started stream of the job that executes. -/
def State.modJob (s : State) (f : Eng → Stream → Stream) : State :=
  s.modCurBank fun b =>
    engines.foldl (fun b e => b.mod e fun t => if t.life = .off then t else f e t) b

/-- `BSEL` (R159). -/
def execBsel (k : BitVec 2) (d a b : GReg) (tk : Tk) (s : State) : Answer :=
  .next (s.withPattern tk 4 fun _ s =>
    let at0 := (s.g b).toNat
    s.afterChk (s.chkRead s.ownPath at0 8 8) fun _ =>
      let m := s.scratchNat s.ownPath at0 2
      s.afterChk (s.chkRead s.ownPath at0 (8 + 8 * m) 8) fun _ =>
        let dim := (s.g a).toNat
        let tab := (List.range m).map fun i => s.scratchNat s.ownPath (at0 + 8 + 8 * i) 8
        let sizes := tab.map fun x => x % 2 ^ 32
        match bucketOf sizes dim with
        | some j =>
          if m = 0 ∨ 32 < m ∨ 2 ^ 32 ≤ dim then .trapped (s.trap 0x1A 0)
          else
            let pm := BitVec.ofNat 64 dim ||| (BitVec.ofNat 64 (sizes.getD j 0 - dim) <<< 32)
            let s := s.modJob fun _ t => { t with pm := tset t.pm k.toNat pm }
            .goto (s.setG d (BitVec.ofNat 64 j)) (BitVec.ofNat 64 (tab.getD j 0 / 2 ^ 32))
        | none => .trapped (s.trap 0x1A 0))

/-- `FTW` (R156). -/
def execFtw (n : BitVec 6) (a : GReg) (engs : BitVec 4) (tk : Tk) (s : State) : Answer :=
  .next (s.withPattern tk 4 fun _ s =>
    let e := fld (s.g a) 0 32
    if State.ftReserved e then .trapped (s.trap 0x1C 0)
    else
      .done (s.modJob fun x t => if engs.getLsbD x.num then { t with ft := tset t.ft n.toNat e } else t))

/-! ### Launch, yield and the skip flag -/

/-- `LAUNCH` (R255, R256): the record is placed; it is a release at system scope on the scalar path. -/
def execLaunch (d a : GReg) (tk : Tk) (s : State) : Answer :=
  .next (s.withPattern tk 4 fun _ s =>
    let at0 := (s.g a).toNat
    s.afterChk (s.chkRead s.ownPath at0 64 64) fun _ =>
      let bytes := s.scratchBytes s.ownPath at0 64
      match parseWalk bytes with
      | none => .trapped (s.trap 0x32 0)
      | some w =>
        if s.fenceReady 1 then
          let j := s.curBank.job
          let prio := min w.prio (tget {} (s.ctx j.ctx).sqs j.sq.toNat : Sq).prio.toNat
          let s := s.releasePaths 1 5
          let r := s.placeLaunch j { w with prio := prio } (bytes.set 18 (BitVec.ofNat 8 prio))
          match r.1 with
          | some n => .done (r.2.setG d (BitVec.ofNat 64 n))
          | none => .trapped (r.2.trap 0x33 0)
        else .wait s false)

/-- `KITLD`: R79 assigns its major and no rule gives it a meaning; the word takes ILLEGAL_INSTR (entry 6). -/
def execKitld (_d _a _b : GReg) (_fmt : Fmt) (_tk : Tk) (s : State) : Answer := .next s.illegal

/-- Whether some candidate waits for cores with at least a priority (R420). -/
def State.waitsAbove (s : State) (p : Nat) : Bool := s.cands.any fun c => p ≤ c.eff && s.waitsForCores c

/-- `YIELD` (R420). -/
def execYield (d : GReg) (tk : Tk) (s : State) : Answer :=
  .next (s.withPattern tk 4 fun _ s =>
    match s.gang s.curBank.job.gang with
    | none => .done (s.setG d 0)
    | some g =>
      if g.preempt.isSome then .done (s.setG d 1)
      else if s.waitsAbove g.eff then .done ((s.requestPreempt g.id).setG d 1)
      else .done (s.setG d 0))

/-- The old GSF.SKIP is answered and a new one set, in one step (R300). -/
def State.setGsf (s : State) (d : GReg) (v : Bool) : End :=
  let c := s.curCtx
  let old := (s.ctx c).gsf
  .done ((s.modCtx c fun x => { x with gsf := v }).setG d (boolWord old))
/-- `GSFSET` (R300). -/
def execGsfset (d a : GReg) (tk : Tk) (s : State) : Answer :=
  .next (s.withPattern tk 4 fun _ s => s.setGsf d ((s.g a).getLsbD 0))
/-- `GSFSET.OR` (R300). -/
def execGsfsetOr (d a : GReg) (tk : Tk) (s : State) : Answer :=
  .next (s.withPattern tk 4 fun _ s => s.setGsf d ((s.ctx s.curCtx).gsf || (s.g a).getLsbD 0))

end Sys2Proof.Machine
end

