-- ==== Sys2Proof/Machine/Control.lean ====
section
/-! DEFINITION.  Branches, jumps, calls and hardware loops of the shared control subset (R107 to R115). -/

namespace Sys2Proof.Machine

namespace State

/-- The address of a branch at PC with a signed word offset (R107, R109). -/
def branchTarget (s : State) (off : Word) : Word := s.me.pc + off * 4

/-- A branch that is taken when a condition holds (R107). -/
def branchIf (s : State) (c : Bool) (off : Word) : End := if c then .goto s (s.branchTarget off) else .done s

/-- A loop-starting instruction with its trip count (R112): no end check; a count of 0 jumps past the body. -/
def loopStart (s : State) (n count : Nat) (body : BitVec 12) (rot : Bool) : End :=
  let a := s.me.pc
  if count = 0 then
    .goto (s.modMe fun t => t.setLoop n { t.loop n with count := 0, active := false }) (a + 4 + 4 * zext body)
  else
    .goto
      (s.modMe fun t =>
        let t := { t.setLoop n { count := BitVec.ofNat 32 count, ls := a + 4, le := a + 4 * zext body, active := true
                                 rot := rot } with
          order := n :: t.order.filter fun m => m ≠ n }
        if rot then t.rotate s.isVe true count else t)
      (a + 4)

end State

/-- `BCZ` (R107). -/
def execBcz (cc : BitVec 4) (a : GReg) (off : BitVec 15) (s : State) : Answer :=
  .next (State.ends 4 (s.branchIf (condHolds cc (s.g a) 0) (sext off)))
/-- `BC` (R107). -/
def execBc (cc : BitVec 4) (a b : GReg) (off : BitVec 9) (s : State) : Answer :=
  .next (State.ends 4 (s.branchIf (condHolds cc (s.g a) (s.g b)) (sext off)))
/-- `JMP` (R108): the target is read before the link is written. -/
def execJmp (l a : GReg) (s : State) : Answer := .next (State.ends 4 (.goto (s.setG l (s.me.pc + 4)) (s.g a)))
/-- `CALL` (R109). -/
def execCall (l : GReg) (off : BitVec 19) (s : State) : Answer :=
  .next (State.ends 4 (.goto (s.setG l (s.me.pc + 4)) (s.branchTarget (sext off))))
/-- `LOOP` (R112): bits 31:0 of the count register. -/
def execLoop (lc : BitVec 2) (c : GReg) (body : BitVec 12) (s : State) : Answer :=
  .next (State.ends 4 (s.loopStart lc.toNat (fld (s.g c) 0 32).toNat body false))
/-- `LOOPI` (R112). -/
def execLoopi (lc : BitVec 2) (n : BitVec 10) (body : BitVec 12) (s : State) : Answer :=
  .next (State.ends 4 (s.loopStart lc.toNat n.toNat body false))
/-- `LOOPR` (R112, R115, R153); an outpost rejects it (R139). -/
def execLoopr (lc : BitVec 2) (c : GReg) (body : BitVec 12) (s : State) : Answer :=
  .next (if s.inOutpost then s.illegal
    else State.ends 4 (s.loopStart lc.toNat (fld (s.g c) 0 32).toNat body true))
/-- `LEAVE` (R114). -/
def execLeave (lc : BitVec 2) (s : State) : Answer :=
  let l := s.me.loop lc.toNat
  .next (State.ends 4
    (if l.active then
      .goto (s.modMe fun t => t.setLoop lc.toNat { l with count := 0, active := false }) (l.le + 4)
    else .done s))

end Sys2Proof.Machine
end

