-- ==== Sys2Proof/Machine/Turns.lean ====
section
/-! DEFINITION.  How a turn of the schedule begins (entry 1): which agent may issue, the fetch of R30 and R31, what
holds an instruction back, and which instruction is then executed. -/

namespace Sys2Proof.Machine

/-- What a turn comes to: an instruction to execute, or a state. -/
inductive Prep where
  | exec (i : Instr) (s : State)
  | other (s : State)

/-- An event row of the opcode table: a step of a unit, of the host or of the lantern port, which no stream
fetches. -/
def Instr.isEvent : Instr → Bool
  | .translationLookup _ _ _ => true
  | .pageWalkEnd _ _ _ => true
  | .invalidationComplete _ => true
  | .tileRequest _ _ => true
  | .stepWaitResume _ _ => true
  | .waitExpired _ _ => true
  | .qldAppend _ _ => true
  | .gatherPerform _ _ => true
  | .nredPerform _ _ => true
  | .naddPerform _ _ => true
  | .namoPerform _ _ => true
  | .nearMemoryReply _ _ => true
  | .bankSequencerRun _ _ => true
  | .stepRelease _ _ => true
  | .temperUpdate _ _ => true
  | .copyLanding _ _ => true
  | .xrotRotationStart _ => true
  | .promiseMiss _ => true
  | .remoteCallStart _ _ => true
  | .callRunTimeout _ _ => true
  | .callReply _ _ _ => true
  | .callLost _ _ => true
  | .remoteAccessArrival _ => true
  | .remoteReply _ _ _ _ => true
  | .remoteFaultReply _ _ _ _ _ _ _ => true
  | .faultTicket _ _ _ => true
  | .replayNotice _ _ _ => true
  | .ticketExpired _ _ => true
  | .exportWalkEnd _ _ => true
  | .ticketCancelNotice _ _ _ _ => true
  | .peerUnreach _ _ _ => true
  | .hostLossNotice _ => true
  | .slotSendStart _ _ => true
  | .slotArrival _ _ _ _ => true
  | .bookingLapse _ _ => true
  | .tokenDeadlock _ => true
  | .impreciseReportTimeout _ _ => true
  | .regionLong _ _ => true
  | .doorbellWrite _ _ _ => true
  | .submissionFetch _ _ => true
  | .graphStart _ _ => true
  | .graphNodeWalk _ _ => true
  | .graphNodeCopy _ _ => true
  | .copyNodeComplete _ _ => true
  | .graphNodeCondition _ _ => true
  | .graphNodeSwitch _ _ => true
  | .graphNodeEvent _ _ => true
  | .graphNodeLoop _ _ => true
  | .poolAllocation => true
  | .placementDecision => true
  | .energyBudgetUpdate => true
  | .headroomReading _ _ => true
  | .preemptionRequest => true
  | .gangDiscard _ => true
  | .preemptionWithdrawn _ => true
  | .bankReadyTimeout _ => true
  | .pageFaultRecordReoffer _ _ => true
  | .functionLevelReset _ => true
  | .moduleReset => true
  | .moduleResetDone => true
  | .hostLinkLoss => true
  | .hostLossDiscardTimeout _ => true
  | .hostLinkReturn => true
  | .thermalTrip _ => true
  | .thermalTripEnd _ => true
  | .operatingPointChange => true
  | .healthWordUpdate _ => true
  | .coreMemoryError _ => true
  | .refreshErrorFound _ _ => true
  | .powerDownEntry _ => true
  | .selfRefreshEntry _ => true
  | .sqctlWrite _ _ _ => true
  | .fqctlWrite _ _ => true
  | .fqctlRead _ => true
  | .fqresume _ _ => true
  | .kitregRegister _ _ => true
  | .kitregUnregister _ _ => true
  | .invctlGo _ _ => true
  | .exresume _ _ => true
  | .devctlMrst => true
  | .devctlHoldclr => true
  | .opctlWrite _ => true
  | .ebmaxWrite _ => true
  | .logrdSelect _ => true
  | .logrdDrain => true
  | .instructionMemoryWrite _ _ _ _ _ => true
  | .registerWrite _ _ _ => true
  | .sensorRead _ => true
  | .firmwareUpdate _ _ _ _ => true
  | .attestation => true
  | .getHealth => true
  | .readLog _ => true
  | .resetModule => true
  | .releaseHold => true
  | .readEnergy => true
  | .functionLevelResetDone _ => true
  | .kitRegistrationDone _ => true
  | .timeBaseLock _ => true
  | .powerLoss => true
  | _ => false

namespace State

/-- The decoding map of the agent that executes (R72). -/
def map (s : State) : Map :=
  match s.cur with
  | .eng _ e => .eng e
  | .me _ => .eng .ce
  | .frame _ _ => .outpost

/-- Whether a stream issues now: its bank is in RUN, its job has not stopped it, its die is not under a thermal trip, or
its instruction has issued already (R16), and its job does not drain for a page fault (R423). -/
def mayIssue (s : State) (c : Nat) (e : Eng) : Bool :=
  let b := s.bank c
  let t := b.get e
  b.st = .run && t.life = .running && (!s.tripped (dieOf c) || t.waited || t.waitId ≠ 0) &&
    b.pf.isNone

/-- A sealed region that has reached its length limit holds every instruction but `REGION` and `RDV` (R414); the
count includes the instruction that sealed it. -/
def regionOver (s : State) (i : Instr) : Bool :=
  s.me.sealed && decide (Config.regionLimit < s.me.sealCount) &&
    match i with
    | .region _ => false
    | .rdv => false
    | _ => true

/-- The fetch at PC and what holds the instruction back. -/
def fetch (s : State) : Prep :=
  let t := s.me
  let stop := fun (u : State) => if t.loads.isEmpty then Prep.other u else .other (s.stall false)
  match s.imemWord t.pc with
  | none => stop (s.trap 0x02 0)
  | some w =>
    if wLong w && (s.imemWord (t.pc + 4)).isNone then stop (s.trap 0x02 0)
    else
      match decode s.map w ((s.imemWord (t.pc + 4)).getD 0) with
      | .error _ => stop s.noteIssue.illegal
      | .ok i =>
        if interlocked t i || s.rotHeld i || s.loadsHold i then .other (s.stall false)
        else if s.regionOver i then stop (s.noteIssue.trap 0x61 0)
        else .exec i (s.noteIssue.keepAhead i)

/-- The parameter block that a drain command reads when it starts (R214, R228). -/
def paramBlock (s : State) (m : MqEntry) : List Byte :=
  match decodeMx m.record with
  | some (.drain r) => s.scratchBytes s.ownPath (r.pb.toNat * 64) 64
  | some (.prj r) => s.scratchBytes s.ownPath (r.drain.pb.toNat * 64) 128
  | some (.prjadj r) => s.scratchBytes s.ownPath (r.pb.toNat * 64) 64
  | _ => []

/-- The ME starts the command at the head of its queue, or executes the started one (R201, entry 14); under a thermal trip
or while its bank drains it starts none, and a started one completes, even of a job that is over (R16, R417, R423). -/
def meTurn (s : State) (c : Nat) : Prep :=
  let b := s.bank c
  match b.mq with
  | [] => .other (s.pass 1)
  | m :: rest =>
    if (b.st ≠ .run ∧ !(b.st = .empty ∧ m.started)) ∨ b.meStopped ∨
        (!m.started ∧ (s.tripped (dieOf c) ∨ b.pf.isSome)) then .other (s.pass 1)
    else if m.started then
      match decodeMx m.record with
      | some i => .exec i s
      | none => .other (s.pass 1)
    else
      let swe := (mxHdr m.record).swe
      let swi := (mxHdr m.record).swi
      if swe && b.sem swi = 0 then .other ((s.setBank c { b with mq := { m with waitedSem := true } :: rest }).pass 1)
      else
        let b := if swe then b.meWait swi else b
        let b := match decodeMx m.record with
          | some (.bload r) => b.setWslot r.slot .loading
          | _ => b
        .other (s.setBank c { b with mq := { m with started := true, waitedSem := false, pb := s.paramBlock m } :: rest })

/-- The turn of an agent. -/
def agentTurn (s : State) (a : Agent) : Prep :=
  match a with
  | .eng c e =>
    let s := { s with cur := a }
    match (s.bank c).pf with
    | some p =>
      if (s.bank c).st = .run ∧ p.eng = e ∧ p.draining then .other (s.drainTurn c p)
      else if s.mayIssue c e then s.fetch else .other (s.pass 1)
    | none => if s.mayIssue c e then s.fetch else .other (s.pass 1)
  | .frame o f => if (s.frame o f).busy then { s with cur := a }.fetch else .other ({ s with cur := a }.pass 1)
  | .me c => { s with cur := a }.meTurn c

/-- An agent that the module has (R9, R11). -/
def agentExists : Agent → Bool
  | .eng c _ => c < 384
  | .me c => c < 384
  | .frame o f => o < 148 && f < 8

/-- The host's write of bytes to the package's memory, visible to every party. -/
def hostStore (s : State) (a : Nat) (bs : List Byte) : State :=
  (unitsAt 64 bs.length a bs).foldl (fun t cs =>
    t.pushLog { party := Party.host, path := .sc, cells := cs.filter fun c => mapped c.1, vis := fullVis }) s
/-- A directory drops one translation (R272). -/
def evictTurn (s : State) (n : Nat) : State := { s with dir := s.dir.take n ++ s.dir.drop (n + 1) }
/-- Measured energy is added to a counter, which only ever increases (R24). -/
def energyTurn (s : State) (n uj : Nat) : State :=
  { s with mgmt := { s.mgmt with
      energy := tset s.mgmt.energy n (BitVec.ofNat 64 (min ((tget 0 s.mgmt.energy n).toNat + uj) (2 ^ 64 - 1))) } }

end State

end Sys2Proof.Machine
end

