-- ==== Sys2Proof/Machine/Copies.lean ====
section
/-! DEFINITION.  The copy engine (R339 to R356): copy descriptors and their issue, units as they land, rotations,
barrier objects, `BARR`, and the status and cancellation of copies. -/

namespace Sys2Proof.Machine

/-! ### Barrier objects (R349) -/

namespace State

/-- The barrier at an address of the scratch of the core that executes, as it is at its home. -/
def readBar (s : State) (a : Nat) : Barrier := parseBar (s.homeBytes (s.scratchPhys a) 16)
/-- What follows once the stream's own earlier accesses to a barrier have taken their steps (R375). -/
def withBar (s : State) (a : Nat) (k : State → End) : End :=
  let r := [(s.scratchPhys a, 16)]
  if s.readFirst (s.scratchPhys a) 16 || s.landHeld s.party .cp s.nextId r then .wait s false
  else k (s.stepOver s.party .cp s.nextId r)
/-- An update of a barrier by the stream that executes. -/
def setBar (s : State) (a : Nat) (f : List Byte → List Byte) : State := (s.rmw s.party .cp (s.scratchPhys a) 16 f false).2

/-! ### Copies as they are issued (R340 to R342) -/

end State

/-- What a copy instruction takes from its descriptor: none for REQ_BAD (R340, R341). -/
def parseCopy (k : CopyKind) (rows : Nat) (b : List Byte) : Option Copy :=
  let len := recNat b 16 4
  let sh := recNat b 20 1
  let dh := recNat b 21 1
  let bar := recNat b 24 4
  let sk := decide (128 ≤ sh)
  let dk := decide (128 ≤ dh)
  let src := recNat b 0 8
  let dst := recNat b 8 8
  if len % 64 = 0 && 64 ≤ len && rows * len ≤ 2 ^ 30 && sh / 32 % 4 = 0 && dh / 32 % 4 = 0 && recZero b 22 2 &&
      bar / 2 ^ 21 % 2 ^ 10 = 0 && bar % 16 = 0 && (bar / 2 ^ 31 = 1 || bar = 0) && (k = .copy2d || recZero b 28 4) &&
      (sk || k = .fill || (sh = 0 && src < 2 ^ 21)) && (k ≠ .fill || sh = 0) && (dk || (dh = 0 && dst < 2 ^ 21)) &&
      (k ≠ .mcast || !dk) && (k ≠ .rot || (!sk && !dk && len ≤ 65536)) then
    some
      { kind := k, src := BitVec.ofNat 64 src, dst := BitVec.ofNat 64 dst, sk := sk, dk := dk, len := len, rows := rows
        sstr := recNat b 28 2, dstr := recNat b 30 2, bar := if bar / 2 ^ 31 = 1 then some (bar % 2 ^ 21) else none }
  else none
/-- The handle registers that a descriptor names. -/
def copyRegs (b : List Byte) : HReg × HReg := (BitVec.ofNat 5 (recNat b 20 1), BitVec.ofNat 5 (recNat b 21 1))

/-- The bytes from the first to the last that the copy touches, for a row stride in units. -/
def Copy.extent (x : Copy) (stride : Nat) : Nat := (x.rows - 1) * stride * 64 + x.len

namespace State

/-- The gang's jobs that are still there: core, bank, by rank; a job without a gang is alone. -/
def members (s : State) (c : Nat) (bankB : Bool) : List (Nat × Bool) :=
  match s.gang ((s.core c).get bankB).job.gang with
  | some g => s.gangBanks g
  | none => [(c, bankB)]
/-- The number of jobs of the gang. -/
def gangSize (s : State) (c : Nat) (bankB : Bool) : Nat :=
  match s.gang ((s.core c).get bankB).job.gang with
  | some g => g.cores.length
  | none => 1

/-- Whether a job of the gang has ended without a fault: what waits for it ends with GANG_ABSENT (R353); for a failed job the
others wait until they are discarded (R405). -/
def partnerGone (s : State) (c : Nat) (bankB : Bool) : Bool :=
  decide ((s.members c bankB).length < s.gangSize c bankB) &&
    !((s.gang ((s.core c).get bankB).job.gang).any fun g => g.failing)

/-- The checks of R342 that follow the descriptor's own. -/
def copyChecks (s : State) (x : Copy) (rs : HReg × HReg) : Chk :=
  let src := x.src.toNat
  let dst := x.dst.toNat
  let remote := fun (r : HReg) (off : Nat) =>
    if Handle.remote (s.h r) && !s.mgmt.peerid.getLsbD 12 then Chk.fault 0x6A (zext (fabAddr (s.h r) off)) else .ok
  (if x.sk then s.chkHandle rs.1 src (x.extent x.sstr) 64 1 else .ok).and fun _ =>
  (if x.dk then s.chkHandle rs.2 dst (x.extent x.dstr) 64 2 else .ok).and fun _ =>
  (if x.sk then remote rs.1 src else .ok).and fun _ =>
  (if x.dk then remote rs.2 dst else .ok).and fun _ =>
  (if x.sk ∨ x.kind = .fill then .ok else s.chkScratch src (x.extent x.sstr) 64).and fun _ =>
  (if x.dk then .ok else s.chkScratch dst (x.extent x.dstr) 64).and fun _ =>
  match x.bar with
  | some a => s.chkScratch a 16 16
  | none => .ok

/-- The lowest free copy slot of the running bank. -/
def freeSlot (b : Bank) : Option Nat := (List.range 16).find? fun n => !(b.copy n).busy
/-- A copy takes a slot: its place in issue order, its instruction and its signals are captured. -/
def takeSlot (s : State) (n : Nat) (x : Copy) (sig : Sig) : State :=
  let words := s.reportedWords s.me.pc
  let (id, s) := s.fresh
  s.modCurBank fun b => b.setCopy n
    { x with busy := true, pc := s.me.pc, w1 := fld words 0 32, w2 := fld words 32 32, seq := id, sig := sig }
/-- A promise of a copy that is issued or starts now (R343): a free value after this tick. -/
def promise (s : State) : Word × State := (s.cycWord + Config.promiseDelay s.freeCtr, s.takeFree)

/-- A copy leaves its slot, which finishes it. -/
def endCopy (s : State) (c : Nat) (bankB : Bool) (n : Nat) : State :=
  let x := ((s.core c).get bankB).copy n
  ((s.modCore c fun k => k.set bankB ((k.get bankB).setCopy n { x with busy := false, data := [], remote := false })).workDone
    c bankB .xe).finish c bankB .xe x.sig
/-- A copy ends with a fault, which the stream owes. -/
def faultCopy (s : State) (c : Nat) (bankB : Bool) (n code : Nat) (addr : Word) : State :=
  let x := ((s.core c).get bankB).copy n
  let s := if code = 0x3D then s.depositSev 0 4 1 addr else s
  let s := s.modCore c fun k =>
    let b := (k.get bankB).setCopy n { x with flt := true }
    k.set bankB { b with sends := b.sends.filter fun y => y.2.seq ≠ x.seq }
  (s.endCopy c bankB n).owe c bankB .xe
    { seq := x.seq, code := code, cls := 1
      words := [x.pc, addr, zext x.w1, zext x.w2, BitVec.ofNat 64 x.landed, BitVec.ofNat 64 n], since := s.coreCycles c }
/-- The slot of a bank's unstarted rotation `k`. -/
def rotSlot (b : Bank) (k : Nat) : Option Nat :=
  (List.range 16).find? fun n => let x := b.copy n; x.busy && x.kind = .rot && !x.rotOn && x.rotN = k
/-- Whether a member can no longer issue its rotation or `BARR` number `k`, of which it has issued `have_`. -/
def absentFor (b : Bank) (have_ k : Nat) : Bool := decide (have_ < k) && b.xe.life ≠ .running
/-- The fault of an `XROT` of a length that issues as its job's `k`-th: a partner has ended without its match, or the last
member to issue finds another length (R347, R404). -/
def rotFault (s : State) (c : Nat) (bankB : Bool) (k len : Nat) : Option Nat :=
  let others := (s.members c bankB).filter fun y => y.1 ≠ c
  let bank := fun (y : Nat × Bool) => (s.core y.1).get y.2
  if s.partnerGone c bankB || others.any fun y => absentFor (bank y) (bank y).rots k then some 0x54
  else if others.length + 1 < s.gangSize c bankB then none
  else if (others.all fun y => k ≤ (bank y).rots) && others.any fun y =>
      (rotSlot (bank y) k).any fun n => ((bank y).copy n).len ≠ len then some 0x55
  else none

/-- The rotations `k` that the other members have issued end with a mismatch, and nothing lands (R347). -/
def endRots (s : State) (c : Nat) (bankB : Bool) (k code : Nat) : State :=
  if code ≠ 0x55 then s
  else
    ((s.members c bankB).filter fun y => y.1 ≠ c).foldl (fun s y =>
      match rotSlot ((s.core y.1).get y.2) k with
      | some n => s.faultCopy y.1 y.2 n 0x55 0
      | none => s) s

/-- The issue of a copy instruction (R342). -/
def copyBody (s : State) (k : CopyKind) (d a b : GReg) (rows : Nat) (mask : BitVec 4) (sig : Sig) : End :=
  let at0 := (s.g a).toNat
  s.afterChk (s.chkRead .cp at0 32 32) fun _ =>
    let bytes := s.scratchBytes .cp at0 32
    match parseCopy k rows bytes with
    | none => .trapped (s.trap 0x48 0)
    | some x =>
      let bankB := (s.core s.curCore).runB
      if k = .mcast ∧ mask = 0 then .trapped (s.trap 0x48 0)
      else if k = .mcast ∧ (maskCores s.curCore mask).any fun r => !((s.members s.curCore bankB).any fun y => y.1 = r) then
        .trapped (s.trap 0x53 0)
      else
        let rs := copyRegs bytes
        s.afterChk (s.copyChecks x rs) fun _ =>
          match freeSlot s.curBank with
          | none => .wait s false
          | some n =>
            let x := { x with sh := s.h rs.1, dh := s.h rs.2, mask := mask, dreg := d }
            if k = .rot then
              let no := s.curBank.rots + 1
              match s.rotFault s.curCore bankB no x.len with
              | some code => .trapped ((s.endRots s.curCore bankB no code).trap code 0)
              | none =>
              let s := s.modCurBank fun y => { y with rots := y.rots + 1 }
              .issued ((s.takeSlot n { x with rotN := s.curBank.rots } sig).setG b (BitVec.ofNat 64 n))
            else
              let (p, s) := s.promise
              .issued (((s.takeSlot n x sig).setG d p).setG b (BitVec.ofNat 64 n))

/-! ### Changes of a slot -/

/-- Changes a copy in its slot. -/
def modCopy (s : State) (c : Nat) (bankB : Bool) (n : Nat) (f : Copy → Copy) : State :=
  s.modCore c fun k => let b := k.get bankB; k.set bankB (b.setCopy n (f (b.copy n)))

/-! ### Landing (R344 to R347) -/

/-- A unit is done; the copy leaves its slot with the last one, or when it has been cancelled. -/
def doneUnit (s : State) (c : Nat) (bankB : Bool) (n : Nat) : State :=
  let s := s.modCopy c bankB n fun x => { x with unit := x.unit + 1, remote := false, data := if x.kind = .rot then x.data else [] }
  let x := ((s.core c).get bankB).copy n
  if x.unit < x.total && !(x.canc && x.kind ≠ .rot) then s else s.endCopy c bankB n
/-- Counts a landed unit. -/
def landedUnit (s : State) (c : Nat) (bankB : Bool) (n : Nat) : State :=
  s.modCopy c bankB n fun x => { x with landed := x.landed + 64 }
/-- A unit that has been read lands, or leaves for its home; it waits for earlier accesses of the stream to the bytes
(R375). -/
def landUnit (s : State) (c : Nat) (bankB : Bool) (n : Nat) (x : Copy) (data : List Byte) : State :=
  let off := x.dst.toNat + x.unitAt x.dstr x.unit
  if x.dk && Handle.remote x.dh then
    match (if s.copyWaits (Party.stream c bankB .xe) .cp x.seq (fabAddr x.dh off) 64 then none
      else s.remoteSend c bankB .xe x.pc (zext x.w1 ||| (zext x.w2 <<< 32)) .cp (fabAddr x.dh off) (.store data) (.unit n true)
        (some x.seq)) with
    | none => s.modCopy c bankB n fun x => { x with data := data }
    | some s => s.modCopy c bankB n fun x => { x with data := [], remote := true }
  else if s.landHeld (Party.stream c bankB .xe) .cp x.seq (s.unitRanges c bankB x x.unit) then
    if x.kind = .rot then s else s.modCopy c bankB n fun x => { x with data := data }
  else
    let s := (s.landAt c bankB x x.unit data).landedUnit c bankB n
    if x.bar.isSome && unitHome x x.unit then s.modCopy c bankB n fun x => { x with data := [], remote := true }
    else s.doneUnit c bankB n
/-- The next unit of a copy is read and lands. -/
def nextUnit (s : State) (c : Nat) (bankB : Bool) (n : Nat) (x : Copy) : State :=
  let off := x.src.toNat + x.unitAt x.sstr x.unit
  if x.kind = .rot then s.landUnit c bankB n x ((x.data.drop (64 * x.unit)).take 64)
  else if (x.sk && !Handle.v x.sh) || (x.dk && !Handle.v x.dh) then s.faultCopy c bankB n 0x06 0
  else if x.kind = .fill then
    s.landUnit c bankB n x ((List.range 8).flatMap fun _ => natBytes 8 x.src.toNat)
  else if x.sk && Handle.remote x.sh then
    match (if s.copyWaits (Party.stream c bankB .xe) .cp x.seq (fabAddr x.sh off) 64 then none
      else s.remoteSend c bankB .xe x.pc (zext x.w1 ||| (zext x.w2 <<< 32)) .cp (fabAddr x.sh off) (.load 64) (.unit n false)
        (some x.seq)) with
    | none => s
    | some s => s.modCopy c bankB n fun x => { x with remote := true }
  else
    let pa := if x.sk then handlePhys x.sh off else windowBase c + off
    if s.awayOpen (Party.stream c bankB .xe) .cp x.seq [(pa, 64)] then s
    else if s.eccHit pa 64 then s.faultCopy c bankB n 0x3D (BitVec.ofNat 64 pa)
    else (s.ask [(pa, 64)]).landUnit c bankB n x (s.loadAsOf (Party.stream c bankB .xe) .cp x.seq pa 64)
/-- The barrier of the issuing core that counts a copy whose destination lies elsewhere; whether it must wait for earlier
accesses of the stream. -/
def countHeld (s : State) (c : Nat) (bankB : Bool) (x : Copy) : Bool :=
  x.bar.any fun b => s.landHeld (Party.stream c bankB .xe) .cp x.seq [(windowBase c + b, 16)]
/-- The count of a unit on it (R344, R349). -/
def countUnit (s : State) (c : Nat) (bankB : Bool) (x : Copy) : State :=
  match x.bar with
  | some b =>
    let p := Party.stream c bankB .xe
    (s.stepOver p .cp x.seq [(windowBase c + b, 16)]).modBar p c b barCount
  | none => s
/-- One step of the copy in a slot: the acknowledgement of a unit that went home, a unit that has come, or the next. -/
def copyStep (s : State) (c : Nat) (bankB : Bool) (n : Nat) : State :=
  let x := ((s.core c).get bankB).copy n
  if !x.busy || x.kind = .send || (x.kind = .rot && !x.rotOn) then s
  else if x.remote then
    if x.landed = 64 * (x.unit + 1) && !s.countHeld c bankB x then (s.countUnit c bankB x).doneUnit c bankB n else s
  else if x.kind ≠ .rot && !x.data.isEmpty then s.landUnit c bankB n x x.data
  else s.nextUnit c bankB n x

/-- The answer of the fabric for a unit: its bytes have come, or its write is acknowledged and counted (R344). -/
def unitReply (s : State) (c : Nat) (bankB : Bool) (n : Nat) (ack : Bool) (data : List Byte) : State :=
  let x := ((s.core c).get bankB).copy n
  if !x.busy then s
  else if ack then
    let s := s.landedUnit c bankB n
    if s.countHeld c bankB x then s else (s.countUnit c bankB x).doneUnit c bankB n
  else s.modCopy c bankB n fun x => { x with data := data, remote := false }

/-! ### Rotations (R347) -/

/-- The first unstarted rotation of a bank. -/
def firstRot (b : Bank) : Option Nat :=
  ((b.copies.filter fun x => x.2.busy && x.2.kind = .rot && !x.2.rotOn).map fun x => x.2.rotN).foldl
    (fun m k => some (min k (m.getD k))) none
/-- A member's rotation starts: its tile is read whole, its barrier is that of its neighbour's descriptor, and its promise
register is written. -/
def startRot (s : State) (bars : List (Nat × Option Nat)) (c : Nat) (bankB : Bool) (n : Nat) : State :=
  let x := ((s.core c).get bankB).copy n
  let data := s.loadAsOf (Party.stream c bankB .xe) .cp x.seq (windowBase c + x.src.toNat) x.len
  let bar := ((bars.find? fun y => y.1 = s.neighbour c bankB).map (·.2)).join
  let (v, s) := s.promise
  (s.modCopy c bankB n fun x => { x with rotOn := true, data := data, bar := bar }).modBankStrm c bankB .xe fun t => t.wg x.dreg v
/-- Rotation `k` of the gang of a bank starts, or ends without landing. -/
def rotate (s : State) (c : Nat) (bankB : Bool) (k : Nat) : State :=
  let ms := s.members c bankB
  let bank := fun (y : Nat × Bool) => (s.core y.1).get y.2
  let slots := ms.filterMap fun y => (rotSlot (bank y) k).map fun n => (y, n)
  if s.partnerGone c bankB || ms.any fun y => absentFor (bank y) (bank y).rots k then
    match rotSlot ((s.core c).get bankB) k with
    | some n => s.faultCopy c bankB n 0x54 0
    | none => s
  else if ms.length < s.gangSize c bankB || ms.any fun y => (bank y).rots < k then s
  else
    let lens := slots.map fun y => ((bank y.1).copy y.2).len
    if lens.any fun l => lens.any (· ≠ l) then slots.foldl (fun s y => s.faultCopy y.1.1 y.1.2 y.2 0x55 0) s
    else if slots.any fun y =>
        let x := (bank y.1).copy y.2
        s.awayOpen (Party.stream y.1.1 y.1.2 .xe) .cp x.seq [(windowBase y.1.1 + x.src.toNat, x.len)] then s
    else
      let bars := slots.map fun y => (y.1.1, ((bank y.1).copy y.2).bar)
      slots.foldl (fun s y => s.startRot bars y.1.1 y.1.2 y.2) s

end State

/-! ### The instructions -/

/-- `XCOPY` (R341). -/
def execXcopy (d a b : GReg) (tk : Tk) (s : State) : Answer :=
  .next (s.withPattern tk 4 fun g s => s.copyBody .copy d a b 1 0 g)
/-- `XCOPY2D` (R345). -/
def execXcopy2d (d a b : GReg) (tk : Tk) (rows1 : BitVec 12) (s : State) : Answer :=
  .next (s.withPattern tk 8 fun g s => s.copyBody .copy2d d a b (rows1.toNat + 1) 0 g)
/-- `XMCAST` (R346). -/
def execXmcast (m : BitVec 4) (d a b : GReg) (tk : Tk) (s : State) : Answer :=
  .next (s.withPattern tk 4 fun g s => s.copyBody .mcast d a b 1 m g)
/-- `XROT` (R347). -/
def execXrot (d a b : GReg) (tk : Tk) (s : State) : Answer :=
  .next (s.withPattern tk 4 fun g s => s.copyBody .rot d a b 1 0 g)
/-- `XFILL` (R341). -/
def execXfill (d a b : GReg) (tk : Tk) (s : State) : Answer :=
  .next (s.withPattern tk 4 fun g s => s.copyBody .fill d a b 1 0 g)

namespace State

/-- `BINIT` and `BINIT.CLR`. -/
def binitBody (s : State) (a b : GReg) (clr : Bool) : End :=
  let at0 := (s.g a).toNat
  s.afterChk (s.chkScratch at0 16 16) fun _ => s.withBar at0 fun s => .done (s.setBar at0 (barInit (fld (s.g b) 0 32).toNat clr))

/-- A deadline register: number 0 names none (R354). -/
def deadlinePast (s : State) (b : GReg) : Bool := b ≠ 0 && (s.g b).ule s.cycWord

/-- The deadline of a `BWAIT`: none where the register's number or its value is 0 (R351). -/
def bwaitPast (s : State) (b : GReg) : Bool := s.g b ≠ 0 && s.deadlinePast b
/-- The instruction waits, and has issued (R16). -/
def waitIssued (s : State) : End := .wait (s.modMe fun t => { t with waitId := 1 }) false

/-- The stream that executes has waited for landed units (R352, R369): they are visible to it, and a chain that starts now
carries them. -/
def joinUnits (s : State) : State :=
  let own := [(windowBase s.curCore, 0x200000)]
  (s.widenWrites (fun w => w.path = .cp && w.work && w.hits own) (1 <<< Path.cp.bit) 2).modMe fun t =>
    { t with clk := raiseClk t.clk .xe 1 s.nextId, doneAt := s.nextId }
/-- `BWAIT` (R351). -/
def bwaitBody (s : State) (a b : GReg) : End :=
  s.atPoint .bwait fun _ =>
    let at0 := (s.g a).toNat
    s.afterChk (s.chkScratch at0 16 16) fun _ => s.withBar at0 fun s =>
      let x := s.readBar at0
      if !x.marked ∨ x.orph ≠ 0 then .trapped (s.trap 0x51 (s.g a))
      else if x.arr < x.exp then
        if s.bwaitPast b then .trapped (s.trap 0x50 (s.g a)) else s.waitIssued
      else if x.exp < x.arr then .trapped (s.trap 0x52 (s.g a))
      else .done (s.setBar at0 barDone).joinUnits

/-- Whether the XE stream of a core holds a `BWAIT` without a deadline whose barrier is short (R351). -/
def waitsShort (s : State) (c : Nat) : Bool :=
  match { s with cur := .eng c .xe }.fetch with
  | .exec (.bwait a b _) t =>
    let x := t.readBar (t.g a).toNat
    (b = 0 || t.g b = 0) && x.marked && x.orph = 0 && decide (x.arr < x.exp)
  | _ => false
/-- The last member has issued its `BARR`: every member's is complete. -/
def barrAll (s : State) (ms : List (Nat × Bool)) : State :=
  ms.foldl (fun s y => s.modCore y.1 fun k => let b := k.get y.2; k.set y.2 { b with barrDone := b.barrs }) s
/-- A `BARR` that ends without completing no longer counts as issued. -/
def dropBarr (s : State) (c : Nat) : State :=
  s.modBank c fun b => if b.barrDone < b.barrs then { b with barrs := b.barrs - 1 } else b
/-- `BARR` (R353): a release at cluster scope on the copy path, with which it is issued; it completes with the last member. -/
def barrBody (s : State) : End :=
  let c := s.curCore
  let bankB := (s.core c).runB
  let cp : BitVec 6 := 1 <<< Path.cp.bit
  if s.me.waitId = 0 && !s.fenceReady cp then .wait s false else
  let s := if s.me.waitId = 0 then
      ((s.releasePaths cp 2).modCurBank fun b => { b with barrs := b.barrs + 1 }).modMe fun t => { t with waitId := 1 }
    else s
  let k := s.curBank.barrs
  let ms := s.members c bankB
  let bank := fun (y : Nat × Bool) => (s.core y.1).get y.2
  if k ≤ s.curBank.barrDone then .done s
  else if s.partnerGone c bankB || ms.any fun y => absentFor (bank y) (bank y).barrs k then .trapped ((s.dropBarr c).trap 0x54 0)
  else if ms.length = s.gangSize c bankB && ms.all fun y => k ≤ (bank y).barrs then .done (s.barrAll ms)
  else .wait s false

/-- The status word of a copy slot (R354). -/
def copyStatus (x : Copy) : Word :=
  boolWord x.busy ||| (boolWord x.flt <<< 1) ||| (boolWord x.canc <<< 2) ||| (BitVec.ofNat 64 x.landed <<< 32)
/-- The slot that a register names. -/
def slotOf (s : State) (b : GReg) : Nat := (s.g b).toNat % 16
/-- `xstat.wait` (R354). -/
def xstatBody (s : State) (d a b : GReg) : End :=
  s.atPoint .xstatWait fun _ =>
    let x := s.curBank.copy (s.slotOf b)
    if x.busy then
      if s.deadlinePast a then .trapped (s.trap 0x50 0) else s.waitIssued
    else .done (s.joinUnits.setG d (copyStatus x))
/-- `XCANCEL` (R355): what has been read still lands, and the copy then leaves its slot. -/
def xcancelBody (s : State) (d b : GReg) : End :=
  let n := s.slotOf b
  let x := s.curBank.copy n
  let c := s.curCore
  let bankB := (s.core c).runB
  if !x.busy then .done (s.setG d (BitVec.ofNat 64 x.landed))
  else
    let s := s.modCopy c bankB n fun x => { x with canc := true }
    if x.remote || !x.data.isEmpty then .wait s false
    else .done ((s.endCopy c bankB n).setG d (BitVec.ofNat 64 x.landed))

end State

/-- `BINIT` (R350). -/
def execBinit (a b : GReg) (tk : Tk) (s : State) : Answer := .next (s.withPattern tk 4 fun _ s => s.binitBody a b false)
/-- `BINIT.CLR` (R350). -/
def execBinitClr (a b : GReg) (tk : Tk) (s : State) : Answer := .next (s.withPattern tk 4 fun _ s => s.binitBody a b true)
/-- `BWAIT` (R351). -/
def execBwait (a b : GReg) (tk : Tk) (s : State) : Answer := .next (s.withPattern tk 4 fun _ s => s.bwaitBody a b)
/-- `BQRY` (R350). -/
def execBqry (d a : GReg) (tk : Tk) (s : State) : Answer :=
  .next (s.withPattern tk 4 fun _ s =>
    let at0 := (s.g a).toNat
    s.afterChk (s.chkScratch at0 16 16) fun _ => s.withBar at0 fun s =>
      let x := s.readBar at0
      .done (s.setG d (BitVec.ofNat 64 x.arr ||| (boolWord x.ph <<< 32) |||
        (boolWord (x.marked && decide (x.exp ≤ x.arr)) <<< 33) ||| (boolWord (!x.marked || decide (x.orph ≠ 0)) <<< 34))))
/-- `BARR` (R353). -/
def execBarr (tk : Tk) (s : State) : Answer := .next (s.withPattern tk 4 fun _ s => s.barrBody)
/-- `XLTX` (R356). -/
def execXltx (need : BitVec 3) (h : HReg) (a b : GReg) (tk : Tk) (s : State) : Answer :=
  .next (s.withPattern tk 4 fun _ s => s.xltBody need h a b)
/-- `XSTAT` (R354). -/
def execXstat (d b : GReg) (tk : Tk) (s : State) : Answer :=
  .next (s.withPattern tk 4 fun _ s => .done (s.setG d (State.copyStatus (s.curBank.copy (s.slotOf b)))))
/-- `xstat.wait` (R354). -/
def execXstatWait (d a b : GReg) (tk : Tk) (s : State) : Answer := .next (s.withPattern tk 4 fun _ s => s.xstatBody d a b)
/-- `XCANCEL` (R355). -/
def execXcancel (d b : GReg) (tk : Tk) (s : State) : Answer := .next (s.withPattern tk 4 fun _ s => s.xcancelBody d b)

/-! ### The events -/

/-- A unit of the copy in a slot lands (R344). -/
def execCopyLanding (c : CoreId) (slot : BitVec 4) (s : State) : Answer :=
  .next (match s.bankWhere c.val fun b => (b.copy slot.toNat).busy with
    | some bankB => if State.drainHeld ((s.core c.val).get bankB) 1 then s else s.copyStep c.val bankB slot.toNat
    | none => s)
/-- The first rotation of a core that has not started starts when every member has issued it (R347). -/
def execXrotRotationStart (c : CoreId) (s : State) : Answer :=
  .next (match s.bankWhere c.val fun b => (State.firstRot b).isSome with
    | some bankB =>
      match State.firstRot ((s.core c.val).get bankB) with
      | some k => s.rotate c.val bankB k
      | none => s
    | none => s)
/-- The deadline of a waiting `BWAIT` or touch is reached (R351, R354): the instruction is looked at again and raises
PROMISE_MISS. -/
def execPromiseMiss (c : CoreId) (s : State) : Answer :=
  .next (if s.mayIssue c.val .xe && ((s.bank c.val).get .xe).blocked then
      match { s with cur := .eng c.val .xe }.fetch with
      | .exec (.bwait a b tk) t => if t.bwaitPast b then t.withPattern tk 4 fun _ u => u.bwaitBody a b else s
      | .exec (.xstatWait d a b tk) t => if t.deadlinePast a then t.withPattern tk 4 fun _ u => u.xstatBody d a b else s
      | _ => s
    else s)

end Sys2Proof.Machine
end

