-- ==== Sys2Proof/Machine/VecCore.lean ====
section
/-! DEFINITION.  What the vector instructions share: the options of the extended form (R82), the format table's part in
them (R155, R165), registers, rotation and groups (R152, R161, R162), the coordinate hash's inputs (R166), and how a
vector instruction ends (R55, R58, R60, R164). -/

namespace Sys2Proof.Machine

/-! ### Options (R82) -/

/-- The options of a vector instruction: those of the extended form, or all 0, and its size in bytes. -/
structure VOpt where
  pred : PReg := 0
  rm : BitVec 3 := 0
  ovf : BitVec 2 := 0
  daz : Bool := false
  n : Nat := 4
  /-- what its token pattern signals, for an access that finishes later (R148) -/
  sig : Sig := {}
  deriving DecidableEq, Repr

/-- The options that a variant table accepts. -/
structure VAcc where
  pred : Bool := false
  rm : Bool := false
  ovf : Bool := false
  daz : Bool := false
  deriving DecidableEq, Repr

/-- An option that is not accepted must be 0, and rounding codes 5 and 6 are reserved (R50, R82). -/
def VOpt.ok (o : VOpt) (a : VAcc) : Bool :=
  (a.pred || o.pred = 0) && (if a.rm then o.rm ≠ 5 && o.rm ≠ 6 else o.rm = 0) && (a.ovf || o.ovf = 0) &&
    (a.daz || !o.daz)

/-- A vector instruction: whether its encoding is legal, which is known before its wait step, and its effect. -/
structure VPlan where
  legal : VOpt → Bool
  run : VOpt → State → End

/-- What an instruction has settled before it reads an element: its type, rounding mode and policy. -/
structure VEnv where
  fmt : Fmt
  mode : Num.RMode
  pol : BitVec 2
  deriving DecidableEq, Repr

/-- A name of a group of a size (R162). -/
def groupOk (r : VReg) (g : Nat) : Bool := r.toNat % g = 0 && r.toNat + g ≤ 64

/-- Whether the encoding of an instruction of one type is legal: under FT, RM and OVF are reserved (R165). -/
def vLegal (types : List Fmt) (acc : Fmt → VAcc) (ft : Bool) (fmt : Fmt) (o : VOpt) : Bool :=
  if fmt = 15 then ft && o.rm = 0 && o.ovf = 0 && types.any fun f => o.ok (acc f)
  else types.contains fmt && o.ok (acc fmt)

namespace State

/-- Reads the format-table entry of an instruction with fmt 0xF, or traps (R155); AW and SCL are ignored, and what else `skip`
names (R165). -/
def vEntry (s : State) (k : W32 → End) (skip : W32 := 0xF000) : End :=
  match ftRead s.me skip with
  | .error code => .trapped (s.trap code 0)
  | .ok e => k e
/-- The same for a conversion between types and the 4-bit family, which ignores BF too (R165). -/
def vEntryCvt (s : State) (k : W32 → End) : End := s.vEntry k 0xF0F0
/-- FT_INVALID for an entry that breaks the instruction's rule (R165). -/
def ftInvalid (s : State) : End := .trapped (s.trap 0x1C 0)
/-- The rounding mode and policy of an entry, with a type. -/
def entryEnv (e : W32) (f : Fmt) : VEnv := { fmt := f, mode := Num.RMode.ofCode (fld e 16 3), pol := fld e 19 2 }
/-- Those of an instruction's own options. -/
def ownEnv (s : State) (o : VOpt) (f : Fmt) : VEnv := { fmt := f, mode := modeOf o.rm s.me.fcw, pol := o.ovf }

/-- An instruction of one type: under FT, AF = BF = OF must be a type it accepts (R165). -/
def vWith (s : State) (types : List Fmt) (acc : Fmt → VAcc) (fmt : Fmt) (o : VOpt) (k : VEnv → End) : End :=
  if fmt = 15 then
    s.vEntry fun e =>
      let f : Fmt := fld e 0 4
      if f = fld e 4 4 && f = fld e 8 4 && types.contains f then
        if o.ok (acc f) then k (entryEnv e f) else .trapped s.illegal
      else s.ftInvalid
  else k (s.ownEnv o fmt)

end State

/-! ### Registers (R152, R161, R162) -/

/-- The elements of a register. -/
def elems (w : Nat) (x : VBits) : List Nat := (List.range (4096 / w)).map fun i => (x.extractLsb' (w * i) w).toNat
/-- A register from its elements. -/
def ofElems (w : Nat) (xs : List Nat) : VBits := BitVec.ofNat 4096 (xs.foldr (fun e r => e % 2 ^ w + r * 2 ^ w) 0)

/-- The elements of a group in order: element i in register i mod g at position i div g. -/
def weave : Nat → List (List Nat) → List Nat
  | 0, _ => []
  | n + 1, rs => rs.map (fun r => r.headD 0) ++ weave n (rs.map List.tail)
/-- The elements of register `j` of a group of `g`. -/
def unweave (g j : Nat) (xs : List Nat) : List Nat := (xs.zipIdx.filter fun e => e.2 % g = j).map (·.1)

namespace State

/-- The physical register of a name (R152). -/
def vphys (s : State) (n : Nat) : Nat :=
  if n < 32 then n else 32 + (n - 32 + (fld s.me.vrb 0 5).toNat) % 32
/-- The register of a name. -/
def vreg (s : State) (n : Nat) : VBits := tget 0 s.curBank.v (s.vphys n)
/-- Writes the register of a name. -/
def setVreg (s : State) (n : Nat) (x : VBits) : State :=
  let p := s.vphys n
  s.modCurBank fun b => { b with v := tset b.v p x }
/-- The elements of a register. -/
def vget (s : State) (r : VReg) (w : Nat) : List Nat := elems w (s.vreg r.toNat)
/-- Writes the elements of a register. -/
def vput (s : State) (r : VReg) (w : Nat) (xs : List Nat) : State := s.setVreg r.toNat (ofElems w xs)
/-- The elements of a group. -/
def gget (s : State) (r : VReg) (g w : Nat) : List Nat :=
  weave (4096 / w) ((List.range g).map fun j => elems w (s.vreg (r.toNat + j)))
/-- Writes the elements of a group. -/
def gput (s : State) (r : VReg) (g w : Nat) (xs : List Nat) : State :=
  (List.range g).foldl (fun s j => s.setVreg (r.toNat + j) (ofElems w (unweave g j xs))) s

/-! ### Predicates, DAZ and the hash (R163, R164, R166) -/

/-- The active elements. -/
def vact (s : State) (o : VOpt) : PBits := s.p o.pred
/-- Whether subnormal inputs read as zero. -/
def vdaz (s : State) (o : VOpt) : Bool := fcwDaz s.me.fcw || o.daz
/-- The coordinate hash of a result element (R166). -/
def vhash (s : State) (e : Nat) : BitVec 64 :=
  Num.hash (s.g 56) (fld (s.g 57) 0 32) (fld (s.g 57) 32 16) (fld (s.g 58) 0 32)
    (fld (s.g 58) 32 32 + BitVec.ofNat 32 e)
/-- H[15:0] for stochastic rounding, computed only under SR. -/
def vsr (s : State) (m : Num.RMode) (e : Nat) : Nat := if m = .sr then (s.vhash e).toNat % 65536 else 0

/-! ### How a vector instruction ends (R55, R58, R164) -/

/-- It traps by R55, writing nothing, or completes and sets the flags of its active elements. -/
def vFinish (s : State) (policy : Bool) (outs : List Num.Cvt) (k : State → State) : End :=
  let flags := outs.foldl (fun f c => f ||| c.flags) Num.noFlags
  let trap := outs.foldl (fun t c => Num.worse t c.trap) none
  match fpTrap s.me.fcw policy flags trap with
  | some code => .trapped (s.trap code 0)
  | none => .done ((k s).modMe fun t => { t with fcw := fcwOr t.fcw flags })
/-- `AMAX` after the active inputs (R60). -/
def amaxOver (s : State) (xs : List Num.Val) : State := s.modMe fun t => { t with amax := xs.foldl Num.amaxStep t.amax }

/-- Executes a vector instruction under its token pattern (R148): an illegal encoding traps before the wait step. -/
def runVec (s : State) (p : VPlan) (o : VOpt) (tk : Tk) : State :=
  match s.cur with
  | .eng _ .ve => if p.legal o then s.withPattern tk o.n fun g s => p.run { o with sig := g } s else s.illegal
  | _ => s.illegal

end State

/-- One active element at a time; an inactive one keeps its old code. -/
def vEach (act : PBits) (old : List Nat) (f : Nat → Nat → Num.Cvt) : List Num.Cvt :=
  old.zipIdx.map fun e => if act.getLsbD e.2 then f e.2 e.1 else { bits := e.1 }
/-- The codes of a result. -/
def vBits (outs : List Num.Cvt) : List Nat := outs.map fun c => c.bits
/-- A code read as zero of its sign when it is subnormal under DAZ. -/
def dazCode (daz : Bool) (x : Num.Flt) (bits : Nat) : Nat :=
  if daz && Num.isSubnormal x bits then bits / 2 ^ (x.eb + x.fb) % 2 * 2 ^ (x.eb + x.fb) else bits
/-- The floating format of a type that is one. -/
def fltFmt (f : Fmt) : Num.Flt := (Num.fltOf f).getD Num.fp32
/-- Whether a type is a floating one. -/
def isFlt (f : Fmt) : Bool := (Num.fltOf f).isSome
/-- An integer code of a type as an integer. -/
def intCode (f : Fmt) (x : Nat) : Int :=
  match Num.intOf f with
  | some (w, sg) => Num.intVal w sg x
  | none => x
/-- An integer held to a width. -/
def wrapInt (w : Nat) (i : Int) : Nat := (i % (2 ^ w : Nat)).toNat

/-- The three IEEE types of the vector engine. -/
def vFloats : List Fmt := [0, 1, 2]
/-- The six integer types of 8, 16 and 32 bits. -/
def vInts : List Fmt := [5, 6, 7, 8, 9, 10]
/-- The types 0x0 to 0xC. -/
def vAll : List Fmt := [0, 1, 2, 3, 4, 5, 6, 7, 8, 9, 10, 11, 12]

end Sys2Proof.Machine
end

