-- ==== Sys2Proof/Machine/VecArith.lean ====
section
/-! DEFINITION.  Vector arithmetic (R167), widening and narrowing (R168 to R170), quantisation (R171, R172), special
functions (R184), hash and dropout (R185, R186). -/

namespace Sys2Proof.Machine

/-! ### Elementwise arithmetic (R167) -/

/-- The members of majors 1 to 7. -/
inductive VArith where
  | add | sub | mul | fma | fms | min | max
  deriving DecidableEq, Repr

/-- A value rounded to a type under the IEEE default, with NV for an invalid operation. -/
def fpRound (x : Num.Flt) (mode : Num.RMode) (ftz : Bool) (h : Nat) (v : Num.Val × Bool) : Num.Cvt :=
  let r := Num.roundIeee x mode ftz h v.1
  { bits := r.1, flags := if v.2 then r.2 ||| Num.fNV else r.2 }

/-- The smaller or larger of two codes by value, −0 below +0; the canonical NaN if either is a NaN. -/
def fpMinMax (wantMax : Bool) (x : Num.Flt) (a b : Nat) : Nat :=
  let u := Num.decodeFlt x a
  let v := Num.decodeFlt x b
  if u.isNan || v.isNan then x.nanCode
  else
    let less := match Num.cmpV u v with
      | .lt => true
      | .gt => false
      | .eq => u.neg && !v.neg
    if wantMax then (if less then b else a) else (if less then a else b)

/-- The floating operation on codes. -/
def fpOp (op : VArith) (x : Num.Flt) (mode : Num.RMode) (daz ftz : Bool) (h a b z : Nat) : Num.Cvt :=
  let val := fun c => Num.decodeFlt x (dazCode daz x c)
  let rdn := decide (mode = .rdn)
  let round := fpRound x mode ftz h
  match op with
  | .add => round (Num.addV rdn (val a) (val b))
  | .sub => round (Num.addV rdn (val a) (val b).flip)
  | .mul => round (Num.mulV (val a) (val b))
  | .fma => round (Num.fmaV rdn (val a) (val b) (val z))
  | .fms => round (Num.fmaV rdn (val a).flip (val b) (val z))
  | .min => { bits := fpMinMax false x (dazCode daz x a) (dazCode daz x b) }
  | .max => { bits := fpMinMax true x (dazCode daz x a) (dazCode daz x b) }

/-- The integer operation on codes, modulo 2^w. -/
def intOp (op : VArith) (f : Fmt) (a b z : Nat) : Nat :=
  let w := Num.width f
  let x := intCode f a
  let y := intCode f b
  let z := intCode f z
  wrapInt w (match op with
    | .add => x + y
    | .sub => x - y
    | .mul => x * y
    | .fma => x * y + z
    | .fms => z - x * y
    | .min => min x y
    | .max => max x y)

/-- What majors 1 to 7 accept. -/
def arithAcc (f : Fmt) : VAcc := if isFlt f then { pred := true, rm := true, daz := true } else { pred := true }

/-- Majors 1 to 7. -/
def vArith (op : VArith) (d a b : VReg) (fmt : Fmt) : VPlan :=
  let types := vFloats ++ vInts
  { legal := vLegal types arithAcc true fmt
    run := fun o s =>
      s.vWith types arithAcc fmt o fun e =>
        let w := Num.width e.fmt
        let ab := (s.vget a w).zip (s.vget b w)
        let outs := ((s.vget d w).zip ab).zipIdx.map fun x =>
          if (s.vact o).getLsbD x.2 then
            if isFlt e.fmt then
              fpOp op (fltFmt e.fmt) e.mode (s.vdaz o) (fcwFtz s.me.fcw) (s.vsr e.mode x.2) x.1.2.1 x.1.2.2 x.1.1
            else { bits := intOp op e.fmt x.1.2.1 x.1.2.2 x.1.1 }
          else { bits := x.1.1 }
        s.vFinish false outs fun s => s.vput d w (vBits outs) }

/-- The members of majors 8 to 13. -/
inductive VLogic where
  | and | or | xor | shl | shr | sha
  deriving DecidableEq, Repr

/-- The bitwise operation on codes; counts are read unsigned. -/
def logicOp (op : VLogic) (w a b : Nat) : Nat :=
  match op with
  | .and => Nat.land a b
  | .or => Nat.lor a b
  | .xor => Nat.xor a b
  | .shl => if w ≤ b then 0 else a * 2 ^ b % 2 ^ w
  | .shr => if w ≤ b then 0 else a / 2 ^ b
  | .sha => wrapInt w (Num.intVal w true a / (2 ^ min b w : Nat))

/-- A predicated operation on two registers. -/
def vPair (f : Nat → Nat → Nat) (w : Nat) (d a b : VReg) (o : VOpt) (s : State) : End :=
  let outs := ((s.vget d w).zip ((s.vget a w).zip (s.vget b w))).zipIdx.map fun x =>
    if (s.vact o).getLsbD x.2 then f x.1.2.1 x.1.2.2 else x.1.1
  .done (s.vput d w outs)

/-- Majors 8 to 13. -/
def vLogic (op : VLogic) (d a b : VReg) (fmt : Fmt) : VPlan :=
  { legal := vLegal vInts (fun _ => { pred := true }) false fmt
    run := fun o s => vPair (logicOp op (Num.width fmt)) (Num.width fmt) d a b o s }

/-- `VABS` and `VNEG` on a code. -/
def absNeg (neg daz : Bool) (f : Fmt) (c : Nat) : Nat :=
  if isFlt f then
    let x := fltFmt f
    let top := 2 ^ (x.eb + x.fb)
    let c := dazCode daz x c
    if (Num.decodeFlt x c).isNan then x.nanCode else if neg then Nat.xor c top else c % top
  else wrapInt (Num.width f) (if neg then -(intCode f c) else (intCode f c).natAbs)

/-- Major 14. -/
def vAbsNeg (neg : Bool) (d a : VReg) (fmt : Fmt) : VPlan :=
  { legal := vLegal [0, 1, 2, 5, 7, 9] (fun _ => { pred := true, daz := true }) false fmt
    run := fun o s =>
      let w := Num.width fmt
      let outs := ((s.vget d w).zip (s.vget a w)).zipIdx.map fun x =>
        if (s.vact o).getLsbD x.2 then absNeg neg (s.vdaz o) fmt x.1.2 else x.1.1
      .done (s.vput d w outs) }

/-! ### Widening (R168) -/

/-- The sources of the widening majors. -/
def wideTypes : List Fmt := [1, 2, 3, 4, 5, 6, 7, 8]
/-- The result type of a source. -/
def wideResult (f : Fmt) : Fmt :=
  if f = 5 then 7 else if f = 6 then 8 else if f = 7 then 9 else if f = 8 then 10 else 0
/-- The size of the result group. -/
def wideGroup (f : Fmt) : Nat := if f = 3 ∨ f = 4 then 4 else 2

/-- The members of majors 15 to 17. -/
inductive VWide where
  | add | mul | fma
  deriving DecidableEq, Repr

/-- The floating operation, rounded to FP32. -/
def wideFp (op : VWide) (f : Fmt) (mode : Num.RMode) (daz ftz : Bool) (h a b g : Nat) : Num.Cvt :=
  let rdn := decide (mode = .rdn)
  let x := Num.decodeDaz daz f a
  let y := Num.decodeDaz daz f b
  fpRound Num.fp32 mode ftz h (match op with
    | .add => Num.addV rdn x y
    | .mul => Num.mulV x y
    | .fma => Num.fmaV rdn x y (Num.decodeDaz daz 0 g))
/-- The integer operation. -/
def wideInt (op : VWide) (f : Fmt) (a b g : Nat) : Nat :=
  let x := intCode f a
  let y := intCode f b
  wrapInt (Num.width (wideResult f)) (match op with
    | .add => x + y
    | .mul => x * y
    | .fma => x * y + g)

/-- Majors 15 to 17. -/
def vWide (op : VWide) (d a b : VReg) (fmt : Fmt) : VPlan :=
  { legal := fun o => vLegal wideTypes arithAcc true fmt o && groupOk d (if fmt = 15 then 2 else wideGroup fmt)
    run := fun o s =>
      let body := fun (e : VEnv) =>
        let w := Num.width e.fmt
        let rw := Num.width (wideResult e.fmt)
        let g := wideGroup e.fmt
        let old := s.gget d g rw
        let n := 4096 / w
        let outs := ((old.take n).zip ((s.vget a w).zip (s.vget b w))).zipIdx.map fun x =>
          if (s.vact o).getLsbD x.2 then
            if isFlt e.fmt then
              wideFp op e.fmt e.mode (s.vdaz o) (fcwFtz s.me.fcw) (s.vsr e.mode x.2) x.1.2.1 x.1.2.2 x.1.1
            else { bits := wideInt op e.fmt x.1.2.1 x.1.2.2 x.1.1 }
          else { bits := x.1.1 }
        s.vFinish false outs fun s => s.gput d g rw (vBits outs ++ old.drop n)
      if fmt = 15 then
        s.vEntry fun e =>
          let f : Fmt := fld e 0 4
          if f = fld e 4 4 && wideTypes.contains f && fld e 8 4 = wideResult f then
            if o.ok (arithAcc f) && groupOk d (wideGroup f) then body (State.entryEnv e f) else .trapped s.illegal
          else s.ftInvalid
      else body (s.ownEnv o fmt) }

/-! ### Conversion (R169, R170) -/

/-- Everything is accepted. -/
def fullAcc : VAcc := { pred := true, rm := true, ovf := true, daz := true }
/-- The ratio of two widths when the first is at least the second. -/
def ratio (wide narrow : Fmt) : Nat :=
  if Num.width wide < Num.width narrow then 0 else Num.width wide / Num.width narrow
/-- The types and ratio of a `VCVT`: the group size of the destination (R169). -/
def cvtOk (dst src : Fmt) : Bool :=
  vAll.contains dst && vAll.contains src && [1, 2, 4].contains (ratio dst src)
/-- Those of a `VNRW` (R170). -/
def nrwOk (dst src : Fmt) : Bool := vAll.contains dst && vAll.contains src && [2, 4].contains (ratio src dst)

/-- The elements converted, with their inputs where active. -/
def convert (s : State) (o : VOpt) (e : VEnv) (src : Fmt) (old xs : List Nat) : List Num.Cvt × List Num.Val :=
  let act := s.vact o
  let vals := xs.map fun x => Num.decodeDaz (s.vdaz o) src x
  let outs := (old.zip vals).zipIdx.map fun x =>
    if act.getLsbD x.2 then Num.cvt e.fmt e.mode e.pol (fcwFtz s.me.fcw) (s.vsr e.mode x.2) x.1.2
    else { bits := x.1.1 }
  (outs, (vals.zipIdx.filter fun x => act.getLsbD x.2).map (·.1))

/-- `VCVT`. -/
def vCvt (d a : VReg) (src fmt : Fmt) : VPlan :=
  { legal := fun o =>
      if fmt = 15 then src = 0 && o.rm = 0 && o.ovf = 0
      else cvtOk fmt src && o.ok fullAcc && groupOk d (ratio fmt src)
    run := fun o s =>
      let body := fun (e : VEnv) (src : Fmt) =>
        let g := ratio e.fmt src
        let wd := Num.width e.fmt
        let old := s.gget d g wd
        let xs := s.vget a (Num.width src)
        let r := convert s o e src (old.take xs.length) xs
        s.vFinish true r.1 fun s => (s.gput d g wd (vBits r.1 ++ old.drop xs.length)).amaxOver r.2
      if fmt = 15 then
        s.vEntryCvt fun e =>
          let sf : Fmt := fld e 0 4
          let df : Fmt := fld e 8 4
          if cvtOk df sf then
            if groupOk d (ratio df sf) then body (State.entryEnv e df) sf else .trapped s.illegal
          else s.ftInvalid
      else body (s.ownEnv o fmt) src }

/-- `VNRW`. -/
def vNrw (d a : VReg) (src fmt : Fmt) : VPlan :=
  { legal := fun o =>
      if fmt = 15 then src = 0 && o.rm = 0 && o.ovf = 0 && groupOk a 2
      else nrwOk fmt src && o.ok fullAcc && groupOk a (ratio src fmt)
    run := fun o s =>
      let body := fun (e : VEnv) (src : Fmt) =>
        let wd := Num.width e.fmt
        let r := convert s o e src (s.vget d wd) (s.gget a (ratio src e.fmt) (Num.width src))
        s.vFinish true r.1 fun s => (s.vput d wd (vBits r.1)).amaxOver r.2
      if fmt = 15 then
        s.vEntryCvt fun e =>
          let sf : Fmt := fld e 0 4
          let df : Fmt := fld e 8 4
          if nrwOk df sf then
            if groupOk a (ratio sf df) then body (State.entryEnv e df) sf else .trapped s.illegal
          else s.ftInvalid
      else body (s.ownEnv o fmt) src }

/-! ### The 4-bit code family (R171, R172) -/

/-- The group of 512 elements of a type. -/
def group512 (f : Fmt) : Nat := if f = 0 then 4 else 2
/-- The blocks of a list of elements. -/
def chunks (n : Nat) : Nat → List α → List (List α)
  | 0, _ => []
  | k + 1, xs => xs.take n :: chunks n k (xs.drop n)
/-- What `VQNT` accepts. -/
def qntAcc : VAcc := { rm := true, ovf := true, daz := true }

/-- `VQNT`. -/
def vQnt (d a : VReg) (ty : BitVec 2) (fmt : Fmt) : VPlan :=
  { legal := fun o =>
      if fmt = 15 then o.rm = 0 && o.ovf = 0 && o.ok qntAcc && groupOk a 2
      else vFloats.contains fmt && o.ok qntAcc && groupOk a (group512 fmt)
    run := fun o s =>
      let body := fun (e : VEnv) =>
        let vals := (s.gget a (group512 e.fmt) (Num.width e.fmt)).map fun x => Num.decodeDaz (s.vdaz o) e.fmt x
        let hs := (List.range 512).map fun i => s.vsr e.mode i
        let blocks := List.zipWith (fun xs h => Num.f4Block ty.toNat e.mode e.pol xs h) (chunks 32 16 vals) (chunks 32 16 hs)
        let outs : List Num.Cvt := blocks.map fun b => { bits := b.scale, flags := b.flags, trap := b.trap }
        let codes := (blocks.map fun b => b.codes).flatten
        let value := ofElems 4 codes ||| (ofElems 8 (blocks.map fun b => b.scale) <<< 2048)
        s.vFinish true outs fun s => (s.setVreg d.toNat value).amaxOver vals
      if fmt = 15 then
        s.vEntryCvt fun e =>
          let sf : Fmt := fld e 0 4
          if vFloats.contains sf && fld e 8 4 = (0xD : Fmt) then
            if groupOk a (group512 sf) then body (State.entryEnv e sf) else .trapped s.illegal
          else s.ftInvalid
      else body (s.ownEnv o fmt) }

/-- What `VDQT` accepts. -/
def dqtAcc : VAcc := { pred := true, rm := true, ovf := true }

/-- `VDQT`: a NaN block's elements are NaN inputs under R54 (R172, entry 43). -/
def vDqt (d a : VReg) (fmt : Fmt) : VPlan :=
  { legal := fun o =>
      if fmt = 15 then o.rm = 0 && o.ovf = 0 && o.ok dqtAcc && groupOk d 2
      else vFloats.contains fmt && o.ok dqtAcc && groupOk d (group512 fmt)
    run := fun o s =>
      let body := fun (e : VEnv) =>
        let g := group512 e.fmt
        let w := Num.width e.fmt
        let src := s.vreg a.toNat
        let codes := (elems 4 src).take 512
        let scales := ((elems 8 src).drop 256).take 16
        let vals := (List.zipWith (fun sc cs => cs.map (Num.f4Val sc)) scales (chunks 32 16 codes)).flatten
        let outs := ((s.gget d g w).zip vals).zipIdx.map fun x =>
          if (s.vact o).getLsbD x.2 then Num.cvt e.fmt e.mode e.pol (fcwFtz s.me.fcw) (s.vsr e.mode x.2) x.1.2
          else { bits := x.1.1 }
        s.vFinish true outs fun s => s.gput d g w (vBits outs)
      if fmt = 15 then
        s.vEntryCvt fun e =>
          let df : Fmt := fld e 8 4
          if fld e 0 4 = (0xD : Fmt) && vFloats.contains df then
            if groupOk d (group512 df) then body (State.entryEnv e df) else .trapped s.illegal
          else s.ftInvalid
      else body (s.ownEnv o fmt) }

/-! ### Special functions (R184) -/

/-- Major 40: FTZ flushes the final result where Round produces it, and raises no flag; a result that is the operand
itself (`VTANH` of a small one) is not produced by Round and stays (R164, R184). -/
def vSpecial (f : W32 → Num.Spec) (d a : VReg) : VPlan :=
  { legal := fun o => o.ok { pred := true, daz := true }
    run := fun o s =>
      let outs := ((s.vget d 32).zip (s.vget a 32)).zipIdx.map fun x =>
        if (s.vact o).getLsbD x.2 then
          let a : W32 := BitVec.ofNat 32 (dazCode (s.vdaz o) Num.fp32 x.1.2)
          let r := f a
          ({ bits := if r.1 = a then r.1.toNat else dazCode (fcwFtz s.me.fcw) Num.fp32 r.1.toNat
             flags := r.2 } : Num.Cvt)
        else { bits := x.1.1 }
      s.vFinish false outs fun s => s.vput d 32 (vBits outs) }

/-! ### Hash and dropout (R185, R186) -/

/-- `VHASH`. -/
def vHash (d : VReg) (fmt : Fmt) : VPlan :=
  { legal := vLegal vInts (fun _ => { pred := true }) false fmt
    run := fun o s =>
      let w := Num.width fmt
      let outs := (s.vget d w).zipIdx.map fun x =>
        if (s.vact o).getLsbD x.2 then (s.vhash x.2).toNat % 2 ^ w else x.1
      .done (s.vput d w outs) }

/-- What `VDROP` accepts. -/
def dropAcc : Fmt → VAcc := fun _ => { pred := true, rm := true, daz := true }

/-- `VDROP`. -/
def vDrop (d a : VReg) (b : GReg) (fmt : Fmt) : VPlan :=
  { legal := vLegal vFloats dropAcc true fmt
    run := fun o s =>
      s.vWith vFloats dropAcc fmt o fun e =>
        let w := Num.width e.fmt
        let x := fltFmt e.fmt
        let t := (fld (s.g b) 0 16).toNat
        let scale := Num.decodeDaz (s.vdaz o) 0 (fld (s.g b) 32 32).toNat
        let outs := ((s.vget d w).zip (s.vget a w)).zipIdx.map fun y =>
          if (s.vact o).getLsbD y.2 then
            let h := s.vhash y.2
            if t ≤ (fld h 32 16).toNat then
              fpRound x e.mode (fcwFtz s.me.fcw) (h.toNat % 65536)
                (Num.mulV (Num.decodeDaz (s.vdaz o) e.fmt y.1.2) scale)
            else { bits := 0 }
          else { bits := y.1.1 }
        s.vFinish false outs fun s => s.vput d w (vBits outs) }

end Sys2Proof.Machine
end

