-- ==== Sys2Proof/Machine/VecMove.lean ====
section
/-! DEFINITION.  Vector compares, selection and predicates (R173 to R177), permutes (R178), reductions (R179 to R181), sort
and unique (R182, R183), rotation (R191) and the deferral queue (R192 to R194). -/

namespace Sys2Proof.Machine

/-- Only PRED is accepted. -/
def predOnly : Fmt → VAcc := fun _ => { pred := true }
/-- Nothing is accepted. -/
def noAcc : Fmt → VAcc := fun _ => {}
/-- The 16- and 32-bit types. -/
def vWide16 : List Fmt := [0, 1, 2, 7, 8, 9, 10]
/-- The types of 8, 16 and 32 bits. -/
def vTypes8 : List Fmt := [0, 1, 2, 3, 4, 5, 6, 7, 8, 9, 10]
/-- The types of sums. -/
def vSums : List Fmt := [0, 9, 10]

/-! ### Compare, select and predicates -/

/-- The condition of `VCMP` on two codes; a NaN is not equal and neither less nor less-or-equal (R173). -/
def vCond (c : BitVec 2) (daz : Bool) (f : Fmt) (a b : Nat) : Bool :=
  let r : Bool × Ordering :=
    if isFlt f then
      let x := Num.decodeDaz daz f a
      let y := Num.decodeDaz daz f b
      (x.isNan || y.isNan, Num.cmpV x y)
    else (false, compare (intCode f a) (intCode f b))
  match c.toNat with
  | 0 => !r.1 && r.2 == .eq
  | 1 => r.1 || r.2 != .eq
  | 2 => !r.1 && r.2 == .lt
  | _ => !r.1 && r.2 != .gt

/-- A predicate from its low bits. -/
def predOf (bs : List Bool) : PBits := BitVec.ofNat 1024 (bs.foldr (fun b r => 2 * r + (if b then 1 else 0)) 0)

/-- `VCMP` (R173). -/
def vCmp (c : BitVec 2) (p : PReg) (a b : VReg) (fmt : Fmt) : VPlan :=
  { legal := vLegal vTypes8 (fun _ => { pred := true, daz := true }) false fmt
    run := fun o s =>
      let w := Num.width fmt
      let old := s.p p
      let bs := ((s.vget a w).zip (s.vget b w)).zipIdx.map fun x =>
        if (s.vact o).getLsbD x.2 then vCond c (s.vdaz o) fmt x.1.1 x.1.2 else old.getLsbD x.2
      .done (s.setP p (predOf bs)) }

/-- `VSEL` (R174): PRED selects, and every element is written. -/
def vSel (d a b : VReg) (fmt : Fmt) : VPlan :=
  { legal := vLegal vAll predOnly false fmt
    run := fun o s =>
      let w := Num.width fmt
      let outs := ((s.vget a w).zip (s.vget b w)).zipIdx.map fun x =>
        if (s.vact o).getLsbD x.2 then x.1.1 else x.1.2
      .done (s.vput d w outs) }

/-- Major 24 (R175). -/
def vPred (f : State → PBits) (d : PReg) : VPlan :=
  { legal := fun o => o.ok {}
    run := fun _ s => .done (s.setP d (f s)) }

/-- The element count of a size code (R176). -/
def sizeCount (sz : BitVec 2) : Nat := 1024 / 2 ^ sz.toNat
/-- `PCNT` (R176). -/
def vPcnt (d : GReg) (a : PReg) (sz : BitVec 2) : VPlan :=
  { legal := fun o => o.ok {}
    run := fun _ s =>
      .done (s.setG d (BitVec.ofNat 64 (((List.range (sizeCount sz)).filter fun i => (s.p a).getLsbD i).length))) }
/-- `PFIRST` (R176). -/
def vPfirst (d : GReg) (a : PReg) (sz : BitVec 2) : VPlan :=
  { legal := fun o => o.ok {}
    run := fun _ s =>
      .done (s.setG d (match (List.range (sizeCount sz)).find? fun i => (s.p a).getLsbD i with
        | some i => BitVec.ofNat 64 i
        | none => BitVec.allOnes 64)) }
/-- `PSTAGE` (R177). -/
def vPstage (p : PReg) (a : GReg) (sz : BitVec 2) (m : BitVec 3) : VPlan :=
  { legal := fun o => o.ok {} && m.toNat ≤ 4
    run := fun _ s =>
      let x := (s.g a).toNat
      let valid := (fld (tget 0 s.me.pm (m.toNat - 1) : Word) 0 32).toNat
      let bs := (List.range (sizeCount sz)).map fun i => if m = 0 then decide (i < x) else decide (x + i < valid)
      .done (s.setP p (predOf bs)) }

/-! ### Permutes (R178) -/

/-- A permute that gives each active result element a code. -/
def vPermute (types : List Fmt) (fmt : Fmt) (d : VReg) (f : State → Nat → Nat → Nat) : VPlan :=
  { legal := vLegal types predOnly false fmt
    run := fun o s =>
      let w := Num.width fmt
      let outs := (s.vget d w).zipIdx.map fun x => if (s.vact o).getLsbD x.2 then f s w x.2 else x.1
      .done (s.vput d w outs) }

/-- An element of a register by its index. -/
def State.velem (s : State) (r : VReg) (w i : Nat) : Nat := ((s.vreg r.toNat).extractLsb' (w * i) w).toNat

/-- `VPERM`. -/
def vPerm (d a b : VReg) (fmt : Fmt) : VPlan :=
  vPermute vWide16 fmt d fun s w i => s.velem a w (s.velem b w i % (4096 / w))
/-- `VSHUF`. -/
def vShuf (d a b : VReg) : VPlan :=
  vPermute [5] 5 d fun s w i => s.velem a w (64 * (i / 64) + s.velem b w i % 64)
/-- `VBCAST`. -/
def vBcast (d : VReg) (a : GReg) (fmt : Fmt) : VPlan := vPermute vAll fmt d fun s w _ => (s.g a).toNat % 2 ^ w
/-- `VSLIDE`. -/
def vSlide (d a : VReg) (b : GReg) (fmt : Fmt) : VPlan :=
  vPermute vAll fmt d fun s w i =>
    let j : Int := i + (s.g b).toInt
    if 0 ≤ j ∧ j < (4096 / w : Nat) then s.velem a w j.toNat else 0
/-- `VEXTR`. -/
def vExtr (d : GReg) (a : VReg) (b : GReg) (fmt : Fmt) : VPlan :=
  { legal := vLegal vAll noAcc false fmt
    run := fun _ s =>
      let w := Num.width fmt
      let x := s.velem a w ((s.g b).toNat % (4096 / w))
      .done (s.setG d (if isFlt fmt then BitVec.ofNat 64 x else BitVec.ofInt 64 (intCode fmt x))) }
/-- `VINS`. -/
def vIns (d : VReg) (a b : GReg) (fmt : Fmt) : VPlan :=
  { legal := vLegal vAll noAcc false fmt
    run := fun _ s =>
      let w := Num.width fmt
      let j := (s.g b).toNat % (4096 / w)
      .done (s.vput d w ((s.vget d w).zipIdx.map fun x => if x.2 = j then (s.g a).toNat % 2 ^ w else x.1)) }
/-- `VZIP`: the plain concatenation. -/
def vZip (d a b : VReg) (fmt : Fmt) : VPlan :=
  { legal := fun o => vLegal vAll noAcc false fmt o && groupOk d 2
    run := fun _ s =>
      let w := Num.width fmt
      let n := 4096 / w
      let z := weave n [s.vget a w, s.vget b w]
      .done ((s.vput d w (z.take n)).vput (d + 1) w (z.drop n)) }
/-- `VUZP`. -/
def vUzp (d a : VReg) (fmt : Fmt) : VPlan :=
  { legal := fun o => vLegal vAll noAcc false fmt o && groupOk d 2 && groupOk a 2
    run := fun _ s =>
      let w := Num.width fmt
      let y := s.vget a w ++ s.vget (a + 1) w
      .done ((s.vput d w (unweave 2 0 y)).vput (d + 1) w (unweave 2 1 y)) }

/-! ### Reductions (R179 to R181) -/

/-- What a reduction accepts: PRED and DAZ (entry 23). -/
def redAcc : Fmt → VAcc := fun _ => { pred := true, daz := true }

/-- A sum of two codes: FP32 under RNE, or modulo 2^32. -/
def sumOp (f : Fmt) (ftz : Bool) (a b : Nat) : Num.Cvt :=
  if f = 0 then fpRound Num.fp32 .rne ftz 0 (Num.addV false (Num.decodeFlt Num.fp32 a) (Num.decodeFlt Num.fp32 b))
  else { bits := (a + b) % 2 ^ 32 }
/-- The contributions: 0 for an inactive element, and DAZ. -/
def contribs (s : State) (o : VOpt) (f : Fmt) (a : VReg) : List Nat :=
  (s.vget a 32).zipIdx.map fun x =>
    if (s.vact o).getLsbD x.2 then (if f = 0 then dazCode (s.vdaz o) Num.fp32 x.1 else x.1) else 0

/-- One level of the pairwise tree. -/
def treeLevel (f : Fmt) (ftz : Bool) : List Nat → List Num.Cvt
  | a :: b :: xs => sumOp f ftz a b :: treeLevel f ftz xs
  | [a] => [{ bits := a }]
  | [] => []
/-- The pairwise tree, with the results of every addition.  DEDUCED from R164 (entry 78): every addition is a result
of Round, and FTZ acts on each. -/
def treeSum (f : Fmt) (ftz : Bool) : Nat → List Nat → List Num.Cvt → Nat × List Num.Cvt
  | 0, xs, outs => (xs.headD 0, outs)
  | n + 1, xs, outs =>
    let l := treeLevel f ftz xs
    treeSum f ftz n (vBits l) (outs ++ l)

/-- `VRSUM` (R179). -/
def vRsum (d a : VReg) (fmt : Fmt) : VPlan :=
  { legal := vLegal vSums redAcc false fmt
    run := fun o s =>
      let r := treeSum fmt (fcwFtz s.me.fcw) 7 (contribs s o fmt a) []
      s.vFinish false r.2 fun s => s.vput d 32 [r.1] }

/-- The largest or smallest of a list of codes, or what an empty one gives (R179). -/
def extreme (wantMax : Bool) (f : Fmt) (xs : List Nat) : Nat :=
  let w := Num.width f
  if isFlt f then
    let x := fltFmt f
    match xs with
    | [] => x.signBit wantMax + x.infCode
    | c :: cs =>
      if (c :: cs).any fun c => (Num.decodeFlt x c).isNan then x.nanCode else cs.foldl (fpMinMax wantMax x) c
  else
    match xs.map (intCode f) with
    | [] =>
      let signed := (Num.intOf f).any fun p => p.2
      if wantMax then (if signed then 2 ^ (w - 1) else 0) else (if signed then 2 ^ (w - 1) - 1 else 2 ^ w - 1)
    | i :: is => wrapInt w (is.foldl (fun a b => if wantMax then max a b else min a b) i)
/-- `VRMAX` and `VRMIN` (R179). -/
def vRext (wantMax : Bool) (d a : VReg) (fmt : Fmt) : VPlan :=
  { legal := vLegal (vFloats ++ vInts) redAcc false fmt
    run := fun o s =>
      let w := Num.width fmt
      let xs := ((s.vget a w).zipIdx.filter fun x => (s.vact o).getLsbD x.2).map fun x =>
        if isFlt fmt then dazCode (s.vdaz o) (fltFmt fmt) x.1 else x.1
      .done (s.vput d w [extreme wantMax fmt xs]) }

/-- The running sums of a list. -/
def scanSums (f : Fmt) (ftz : Bool) : Nat → List Nat → List Num.Cvt
  | _, [] => []
  | t, x :: xs =>
    let r := sumOp f ftz t x
    r :: scanSums f ftz r.bits xs
/-- `VSCAN` (R180). -/
def vScan (d a : VReg) (fmt : Fmt) : VPlan :=
  { legal := vLegal vSums redAcc false fmt
    run := fun o s =>
      let outs := scanSums fmt (fcwFtz s.me.fcw) 0 (contribs s o fmt a)
      s.vFinish false outs fun s => s.vput d 32 (vBits outs) }

/-- The running sums within segments: each with whether its element ends a segment and the index of its start.
DEDUCED from R164 (entry 78): FTZ acts on each running sum. -/
def segSums (f : Fmt) (ftz : Bool) (starts : PBits) : Nat → Nat → Nat → List Nat → List (Num.Cvt × Nat)
  | _, _, _, [] => []
  | i, start, t, x :: xs =>
    let fresh := i = 0 || starts.getLsbD i
    let start := if fresh then i else start
    let r := sumOp f ftz (if fresh then 0 else t) x
    (r, start) :: segSums f ftz starts (i + 1) start r.bits xs
/-- `VSEGR` (R181). -/
def vSegr (d a : VReg) (p : PReg) (fmt : Fmt) : VPlan :=
  { legal := vLegal vSums redAcc false fmt
    run := fun o s =>
      let outs := segSums fmt (fcwFtz s.me.fcw) (s.p p) 0 0 0 (contribs s o fmt a)
      let sums : Tab Nat := outs.foldl (fun t x => tset t x.2 x.1.bits) []
      s.vFinish false (outs.map (·.1)) fun s => s.vput d 32 ((List.range 128).map fun i => tget 0 sums i) }

/-! ### Sort and unique (R182, R183) -/

/-- The order key of a code. -/
def sortKey (f : Fmt) (c : Nat) : Int :=
  if isFlt f then
    let x := fltFmt f
    let top := 2 ^ (x.eb + x.fb)
    if (Num.decodeFlt x c).isNan then (2 * top : Nat)
    else if top ≤ c then -((c - top : Nat) : Int) - 1 else c
  else intCode f c
/-- Inserts an element behind those that may not follow it. -/
def sortInsert (lt : Int → Int → Bool) (x : Int × Nat × Nat) : List (Int × Nat × Nat) → List (Int × Nat × Nat)
  | [] => [x]
  | y :: ys => if lt x.1 y.1 then x :: y :: ys else y :: sortInsert lt x ys
/-- A stable sort by key. -/
def sortStable (lt : Int → Int → Bool) (xs : List (Int × Nat × Nat)) : List (Int × Nat × Nat) :=
  xs.foldl (fun acc x => sortInsert lt x acc) []
/-- `VSORT` and `VSORT.DESC` (R182). -/
def vSort (desc : Bool) (d a : VReg) (fmt : Fmt) : VPlan :=
  { legal := fun o => vLegal vWide16 predOnly false fmt o && groupOk d 2 && groupOk a 2
    run := fun o s =>
      let w := Num.width fmt
      let kv := ((s.vget a w).zip (s.vget (a + 1) w)).zipIdx
      let act := (kv.filter fun x => (s.vact o).getLsbD x.2).map fun x => (sortKey fmt x.1.1, x.1.1, x.1.2)
      let idle := (kv.filter fun x => !(s.vact o).getLsbD x.2).map (·.1)
      let lt := fun (x y : Int) => if desc then decide (y < x) else decide (x < y)
      let r := (sortStable lt act).map (·.2) ++ idle
      .done ((s.vput d w (r.map (·.1))).vput (d + 1) w (r.map (·.2))) }

/-- Whether each active element differs from the active one before it. -/
def uniqBits : Option Nat → List (Nat × Bool) → List Bool
  | _, [] => []
  | prev, (x, act) :: xs =>
    if act then (prev != some x) :: uniqBits (some x) xs else false :: uniqBits prev xs
/-- `VUNIQ` (R183). -/
def vUniq (p : PReg) (a : VReg) (fmt : Fmt) : VPlan :=
  { legal := vLegal vWide16 predOnly false fmt
    run := fun o s =>
      let xs := (s.vget a (Num.width fmt)).zipIdx.map fun x => (x.1, (s.vact o).getLsbD x.2)
      .done (s.setP p (predOf (uniqBits none xs))) }

/-! ### Rotation and deferral (R191 to R194) -/

/-- `VROTB` (R191). -/
def vRotb (a : GReg) : VPlan :=
  { legal := fun o => o.ok {}
    run := fun _ s =>
      .done (s.modMe fun t => { t with vrb := setFld t.vrb 0 5 (fld t.vrb 0 5 - fld (s.g a) 0 5) }) }

/-- `VDEFER` (R192). -/
def vDefer (k1 : BitVec 2) (a : VReg) (p : PReg) (fmt : Fmt) : VPlan :=
  { legal := fun o => vLegal vSums predOnly false fmt o && a.toNat + k1.toNat ≤ 63
    run := fun o s =>
      let sel := (List.range 128).filter fun i => (s.p p).getLsbD i && (s.vact o).getLsbD i
      let val := fun (j i : Nat) =>
        if j ≤ k1.toNat then BitVec.ofNat 32 (s.velem (a + BitVec.ofNat 6 j) 32 i) else (0 : W32)
      if 4096 < s.curBank.dq.length + sel.length then .trapped (s.trap 0x1D 0)
      else
        .done (s.modCurBank fun b =>
          { b with dq := b.dq ++ sel.map fun i => (val 0 i, val 1 i, val 2 i, val 3 i) }) }

/-- `VDRAIN` (R193). -/
def vDrain (d : VReg) (a : GReg) (fmt : Fmt) : VPlan :=
  { legal := fun o => o.ok {} && vSums.contains fmt && groupOk d 4
    run := fun _ s =>
      let es := s.curBank.dq.take 128
      let s := s.vput d 32 (es.map fun e => e.1.toNat)
      let s := s.vput (d + 1) 32 (es.map fun e => e.2.1.toNat)
      let s := s.vput (d + 2) 32 (es.map fun e => e.2.2.1.toNat)
      let s := s.vput (d + 3) 32 (es.map fun e => e.2.2.2.toNat)
      .done ((s.modCurBank fun b => { b with dq := b.dq.drop 128 }).setG a (BitVec.ofNat 64 es.length)) }
/-- `VDQN` (R194). -/
def vDqn (d a : GReg) : VPlan :=
  { legal := fun o => o.ok {}
    run := fun _ s =>
      let n := min (s.g a).toNat s.curBank.dq.length
      .done ((s.modCurBank fun b => { b with dq := b.dq.drop n }).setG d (BitVec.ofNat 64 n)) }

end Sys2Proof.Machine
end

