-- ==== Sys2Proof/Machine/VecMem.lean ====
section
/-! DEFINITION.  Vector loads and stores (R187, R188), with remote handles (R436), and the accumulator joins (R189,
R190). -/

namespace Sys2Proof.Machine

/-- The types of `VLD` and `VST`. -/
def vMem : List Fmt := vAll ++ [13]

/-- For each byte of a register the bits that belong to active elements. -/
def byteMasks (w : Nat) (act : PBits) : List Byte :=
  (List.range 512).map fun j =>
    if w = 4 then
      (if act.getLsbD (2 * j) then 0x0F#8 else 0) ||| (if act.getLsbD (2 * j + 1) then 0xF0#8 else 0)
    else if act.getLsbD (j / (w / 8)) then 0xFF#8 else 0
/-- The bytes of a register. -/
def regBytes (x : VBits) : List Byte := (List.range 512).map fun j => x.extractLsb' (8 * j) 8
/-- A register from its bytes. -/
def ofBytes (bs : List Byte) : VBits := BitVec.ofNat 4096 (leNat bs)
/-- The bytes of a vector load put into a register from byte `lo` on, where elements are active. -/
def vecReply (old : VBits) (fmt : Fmt) (act : PBits) (lo : Nat) (data : List Byte) : VBits :=
  ofBytes (((byteMasks (Num.width fmt) act).zip (regBytes old)).zipIdx.map fun x =>
    if lo ≤ x.2 ∧ x.2 < lo + data.length then maskByte x.1.1 (data.getD (x.2 - lo) 0) x.1.2 else x.1.2)

/-- The 64-byte units of a 512-byte access that hold bytes of active elements: for each its number, its first such byte,
and how many bytes from there to its last. -/
def maskUnits (masks : List Byte) : List (Nat × Nat × Nat) :=
  (List.range 8).filterMap fun u =>
    let used := (List.range 64).filter fun j => masks.getD (64 * u + j) 0 ≠ 0
    match used with
    | [] => none
    | lo :: _ => some (u, 64 * u + lo, used.getLastD lo + 1 - lo)

namespace State

/-- The check of a 512-byte access: the local or the handle form (R187). -/
def vChk (s : State) (a : GReg) (hf : Bool) (h : HReg) (perm : BitVec 3) : Chk :=
  if hf then s.chkHandle h (s.g a).toInt 512 64 perm else s.chkScratch (s.g a).toNat 512 64
/-- The physical address of a local access. -/
def vAddr (s : State) (a : GReg) (hf : Bool) (h : HReg) : Nat :=
  if hf then handlePhys (s.h h) (s.g a).toInt else s.scratchPhys (s.g a).toNat

/-- Sends several remote accesses of one instruction, which share its place in issue order, its handle and its signals, or
none where the ticket table has no room. -/
def remoteAll (s : State) (path : Path) (via : Handle) (sig : Sig) (dest : Nat → RemDest) (base : BitVec 57) (grp : Nat) :
    List (Nat × RemOp) → Option State
  | [] => some s
  | (off, op) :: rest =>
    match s.cur with
    | .eng c e =>
      match s.remoteSend c (s.core c).runB e s.me.pc (s.reportedWords s.me.pc) path
          (base + BitVec.ofNat 57 off) op (dest off) (some grp) (some via) sig with
      | some t => remoteAll t path via sig dest base grp rest
      | none => none
    | _ => none
/-- The remote form of a vector access; a load finishes with its last reply (R148). -/
def vRemote (s : State) (h : HReg) (off : Int) (load : Option Sig) (dest : Nat → RemDest) (ops : List (Nat × RemOp)) : End :=
  let base := fabAddr (s.h h) off
  if ops.isEmpty then .done s
  else if !s.mgmt.peerid.getLsbD 12 then .trapped (s.trap 0x6A (zext base))
  else
    let (grp, t) := s.fresh
    match t.remoteAll .vec (s.h h) (load.getD {}) dest base grp ops with
    | some t => if load.isSome then .issued t else .done t
    | none => .wait s false

/-- The parts of a remote vector store: each the bytes from its first to its last in one window page, which the owner writes
whole or not at all (R187). -/
def pageParts (base : BitVec 57) (masks : List Byte) : List (Nat × Nat) :=
  let page := fun (j : Nat) => (base.toNat + j) / 4096
  let used := (List.range masks.length).filter fun j => masks.getD j 0 ≠ 0
  ((used.map page).eraseDups).filterMap fun p =>
    match used.filter fun j => page j = p with
    | [] => none
    | lo :: js => some (lo, js.getLastD lo + 1 - lo)

/-- Whether a range has to be read now: the stream has not read it ahead (R381). -/
def readsNow (s : State) (a n : Nat) : Bool := (s.me.ahead a n).isNone
/-- Some bytes, read ahead or read now. -/
def aheadBytes (s : State) (a n : Nat) : List Byte := (s.me.ahead a n).getD (s.loadBytes s.party s.ownPath a n)

end State

/-- `VLD` (R187): only the units that hold bytes of active elements are read; each takes its read step at once, or has taken
it before its turn (R381), or is issued into the path buffer (R371). -/
def vLd (d : VReg) (a : GReg) (hf : Bool) (h : HReg) (fmt : Fmt) : VPlan :=
  { legal := fun o => vLegal vMem predOnly false fmt o && (hf || h = 0)
    run := fun o s =>
      s.afterChk (s.vChk a hf h 1) fun _ =>
        let act := s.vact o
        let units := maskUnits (byteMasks (Num.width fmt) act)
        let r : VReg := BitVec.ofNat 6 (s.vphys d.toNat)
        if hf && Handle.remote (s.h h) then
          s.vRemote h (s.g a).toInt (some o.sig) (fun off => .vec r fmt act off) (units.map fun u => (u.2.1, .load u.2.2))
        else
          let pa := s.vAddr a hf h
          if s.me.lazy then
            let via := if hf then some (s.h h) else none
            let (grp, s) := s.fresh
            .done (units.foldl (fun s u =>
              s.deferLoad
                { id := 0, pc := 0, addr := pa + 64 * u.1, n := 64, dest := .vec r fmt act (64 * u.1), grp := grp, via := via }) s)
          else if units.any fun u => s.readFirst (pa + 64 * u.1) 64 then .wait s false
          else
            match units.find? fun u => s.readsNow (pa + 64 * u.1) 64 && s.eccHit (pa + 64 * u.1) 64 with
            | some u => .trapped (s.memUncorr (pa + u.2.1))
            | none =>
              let new := units.foldl (fun x u => vecReply x fmt act (64 * u.1) (s.aheadBytes (pa + 64 * u.1) 64)) (s.vreg d.toNat)
              let now := units.filter fun u => s.readsNow (pa + 64 * u.1) 64
              .done (((units.foldl (fun s u => s.forget (pa + 64 * u.1) 64) s).ask (now.map fun u => (pa + 64 * u.1, 64))).setVreg
                d.toNat new) }

namespace State

/-- The local stores of a `VST`: one single-copy atomic unit of 64 bytes at a time, in which a byte with one active and one
inactive nibble keeps the inactive one (R187, R188, R384). -/
def vStore (s : State) (pa : Nat) (masks data : List Byte) (via : Option Handle := none) : State :=
  let p := s.party
  (List.range 8).foldl (fun s u =>
    let x := maskCells (pa + 64 * u) ((masks.drop (64 * u)).take 64) ((data.drop (64 * u)).take 64)
    if x.1.isEmpty && x.2.isEmpty then s else s.putWrite p .vec x.1 x.2 false via) (s.forget pa 512)

end State

/-- `VST` (R187): only the bytes of active elements are written; a byte that is read and written back may meet an
uncorrectable error (R283). -/
def vSt (d : VReg) (a : GReg) (hf : Bool) (h : HReg) (fmt : Fmt) : VPlan :=
  { legal := fun o => vLegal vMem predOnly false fmt o && (hf || h = 0)
    run := fun o s =>
      s.afterChk (s.vChk a hf h 2) fun _ =>
        let masks := byteMasks (Num.width fmt) (s.vact o)
        let data := regBytes (s.vreg d.toNat)
        if hf && Handle.remote (s.h h) then
          s.vRemote h (s.g a).toInt none (fun _ => .none)
            ((State.pageParts (State.fabAddr (s.h h) (s.g a).toInt) masks).map fun u =>
              let ms := (masks.drop u.1).take u.2
              let bs := (data.drop u.1).take u.2
              (u.1, if ms.all fun m => m = 0xFF#8 then RemOp.store bs else RemOp.bits ms bs))
        else
          let pa := s.vAddr a hf h
          match masks.zipIdx.find? fun m => m.1 ≠ 0 && m.1 ≠ 0xFF#8 && s.eccHit (pa + m.2) 1 with
          | some m => .trapped (s.memUncorr (pa + m.2))
          | none => .done (s.vStore pa masks data (if hf then some (s.h h) else none)) }

namespace State

/-- The addresses of the active elements of a strided or indexed access, checked in ascending order (R164, R187). -/
def vElems (s : State) (o : VOpt) (w : Nat) (addr : Nat → Word) (k : List (Nat × Nat) → End) : End :=
  let n := w / 8
  let es := ((List.range (4096 / w)).filter fun i => (s.vact o).getLsbD i).map fun i => (i, (addr i).toNat)
  s.afterChk (Chk.all (fun e => s.chkScratch e.2 n n) es) fun _ => k (es.map fun e => (e.1, s.scratchPhys e.2))
/-- A gather of elements. -/
def vLoadElems (s : State) (o : VOpt) (d : VReg) (w : Nat) (addr : Nat → Word) : End :=
  s.vElems o w addr fun es =>
    let n := w / 8
    if es.any fun e => s.readFirst e.2 n then .wait s false
    else
      match es.find? fun e => s.readsNow e.2 n && s.eccHit e.2 n with
      | some e => .trapped (s.memUncorr e.2)
      | none =>
        let new : Tab Nat := es.map fun e => (e.1, leNat (s.aheadBytes e.2 n))
        .done ((es.foldl (fun s e => s.forget e.2 n) s).vput d w ((s.vget d w).zipIdx.map fun x => tget x.1 new x.2))
/-- A scatter of elements, ascending, so that the higher index prevails. -/
def vStoreElems (s : State) (o : VOpt) (d : VReg) (w : Nat) (addr : Nat → Word) : End :=
  s.vElems o w addr fun es =>
    .done (es.foldl (fun t e =>
      (t.forget e.2 (w / 8)).storeBytes s.party s.ownPath e.2 (natBytes (w / 8) (s.velem d w e.1))) s)
/-- The address of an element of the strided forms. -/
def strideAddr (s : State) (a b : GReg) (i : Nat) : Word := s.g a + BitVec.ofNat 64 i * s.g b
/-- The address of an element of the indexed forms. -/
def indexAddr (s : State) (a : GReg) (b : VReg) (w i : Nat) : Word :=
  s.g a + BitVec.ofNat 64 (s.velem b w i * (w / 8))

end State

/-- `VLDS` (R187). -/
def vLds (d : VReg) (a b : GReg) (fmt : Fmt) : VPlan :=
  { legal := vLegal vTypes8 predOnly false fmt
    run := fun o s => s.vLoadElems o d (Num.width fmt) (s.strideAddr a b) }
/-- `VSTS` (R187). -/
def vSts (d : VReg) (a b : GReg) (fmt : Fmt) : VPlan :=
  { legal := vLegal vTypes8 predOnly false fmt
    run := fun o s => s.vStoreElems o d (Num.width fmt) (s.strideAddr a b) }
/-- `VGTH` (R187). -/
def vGth (d : VReg) (a : GReg) (b : VReg) (fmt : Fmt) : VPlan :=
  { legal := vLegal vWide16 predOnly false fmt
    run := fun o s => s.vLoadElems o d (Num.width fmt) (s.indexAddr a b (Num.width fmt)) }
/-- `VSCT` (R187). -/
def vSct (d : VReg) (a : GReg) (b : VReg) (fmt : Fmt) : VPlan :=
  { legal := vLegal vWide16 predOnly false fmt
    run := fun o s => s.vStoreElems o d (Num.width fmt) (s.indexAddr a b (Num.width fmt)) }

/-! ### Accumulator joins (R189, R190) -/

/-- The rows that a queued command touches: the first and their number. -/
def mxRows (i : Instr) : Nat × Nat :=
  let rows := fun (r0 : BitVec 9) (m : BitVec 6) => (r0.toNat, 8 * (m.toNat + 1))
  match i with
  | .mma r => rows r.row0 r.mrows
  | .mmaz r => rows r.row0 r.mrows
  | .abank r => rows r.row0 r.mrows
  | .accz r => rows r.tile.row0 r.tile.mrows
  | .drain r => rows r.tile.row0 r.tile.mrows
  | .prj r => rows r.drain.tile.row0 r.drain.tile.mrows
  | .prjadj r => rows r.tile.row0 r.tile.mrows
  | _ => (0, 0)
/-- Whether a command is pending on a row. -/
def rowPending (b : Bank) (row : Nat) : Bool := b.mq.any fun m =>
  match decodeMx m.record with
  | some i => (mxRows i).1 ≤ row && row < (mxRows i).1 + (mxRows i).2
  | none => false

/-- The row of an accumulator join, checked against the partition (R189, R422), once no command is pending on it. -/
def State.accJoin (s : State) (a : GReg) (k : Nat → End) : End :=
  let row := (s.g a).toNat
  if row < (partRows s.part).1 ∨ (partRows s.part).2 ≤ row then .trapped (s.trap 0x20 0)
  else if rowPending s.curBank row then .wait s false
  else k row

/-- `ACCRD` (R189). -/
def vAccrd (d : VReg) (a : GReg) : VPlan :=
  { legal := fun o => o.ok { pred := true } && groupOk d 2
    run := fun o s =>
      s.accJoin a fun row =>
        .done (s.gput d 2 32 ((s.gget d 2 32).zipIdx.map fun x =>
          if (s.vact o).getLsbD x.2 then (s.accGet s.curCore row x.2).toNat else x.1)) }
/-- `ACCWR` (R189). -/
def vAccwr (d : VReg) (a : GReg) : VPlan :=
  { legal := fun o => o.ok { pred := true } && groupOk d 2
    run := fun o s =>
      s.accJoin a fun row =>
        .done ((s.gget d 2 32).zipIdx.foldl (fun t x =>
          if (s.vact o).getLsbD x.2 then
            t.accPut s.curCore row x.2 (if Num.isNan32 (BitVec.ofNat 32 x.1) then Num.nan32 else BitVec.ofNat 32 x.1)
          else t) s) }

end Sys2Proof.Machine
end

