-- ==== Sys2Proof/Machine/Loads.lean ====
section
/-! DEFINITION.  The read steps of loads that wait in a path buffer (R371, R373), and reads ahead of a load's turn
(R381). -/

namespace Sys2Proof.Machine

namespace State

/-- Something done for an agent, which does not change whose turn comes next. -/
def asAgent (s : State) (a : Agent) (f : State → State) : State := { f { s with cur := a } with cur := s.cur }

/-- What a read step or a reply writes into a register of a stream (R436). -/
def putDest (s : State) (c : Nat) (bankB : Bool) (e : Eng) (d : RemDest) (data : List Byte) : State :=
  match d with
  | .greg d sz => s.modBankStrm c bankB e fun t => t.wg d (extendLoad sz data)
  | .acq d sz => s.modBankStrm c bankB e fun t => { t.wg d (extendLoad sz data) with pre := [] }
  | .old d ty => s.modBankStrm c bankB e fun t => t.wg d (amoOld ty data)
  | .vec v fmt act lo =>
    s.modCore c fun k =>
      let b := k.get bankB
      k.set bankB { b with v := tset b.v v.toNat (vecReply (tget 0 b.v v.toNat) fmt act lo data) }
  | _ => s

/-- The schedule asks for the stream's next load or atomic to be issued into its path buffer (R371). -/
def deferTurn (s : State) (c : Nat) (e : Eng) : State :=
  if s.mayIssue c e then s.modStrm (.eng c e) fun t => { t with lazy := true } else s

/-- MEM_UNCORR at a load that program-later instructions have passed (R283): what they have done to the stream is undone
with the job, and their writes that have not taken their steps are dropped. -/
def lateUncorr (s : State) (l : PLoad) : State :=
  let p := s.party
  State.memUncorr
    ({ s with buf := s.buf.filter fun w => !(w.party = p && l.id < w.no) }.modMe fun t =>
      { t with loads := [], pre := [], pc := l.pc })
    l.addr
/-- A part of a load has read its bytes: the register is written once every part of the load has (R187). -/
def readPart (s : State) (c : Nat) (e : Eng) (l : PLoad) (bs : List Byte) : State :=
  let mine := fun (x : PLoad) => x.id = l.id || (l.grp ≠ 0 && x.grp = l.grp)
  if s.me.loads.any fun x => mine x && x.id ≠ l.id && x.got.isNone then
    s.modMe fun t => { t with loads := t.loads.map fun x => if x.id = l.id then { x with got := some bs } else x }
  else
    (s.me.loads.filter mine).foldl (fun s x => s.putDest c (s.core c).runB e x.dest (x.got.getD bs))
      (s.modMe fun t => { t with loads := t.loads.filter fun x => !mine x })
/-- Load `n` of the stream's path buffer takes its read step (R373): after the older ones that share a byte with it, and an
atomic after the writes that do (R372, R375). -/
def readStep (s : State) (c : Nat) (e : Eng) (n : Nat) : State :=
  let t := s.me
  let p := s.party
  let q := s.ownPath
  match t.loads[n]? with
  | none => s
  | some l =>
    let older := (t.loads.take n).filter fun x => x.got.isNone
    if l.got.isSome || (older.any fun x => overlap x.addr x.n l.addr l.n) || s.awayOpen p q l.id [(l.addr, l.n)] then s
    else if s.eccHit l.addr l.n then (if older.isEmpty then s.lateUncorr l else s)
    else
      match l.amo with
      | none => (s.ask [(l.addr, l.n)]).readPart c e l (s.loadAsOf p q l.id l.addr l.n)
      | some (op, ty, x, cmp) =>
        if s.landHeld p q l.id [(l.addr, l.n)] then s
        else
          let r := (s.stepOver p q l.id [(l.addr, l.n)]).rmw p q l.addr l.n (amoBytes op ty x cmp) false
          r.2.readPart c e l r.1
/-- The turn of a read step. -/
def readTurn (s : State) (c : Nat) (e : Eng) (n : Nat) : State :=
  if drainHeld (s.bank c) (drainPlace e) then s else s.asAgent (.eng c e) fun s => s.readStep c e n

/-- Whether the stream waits for a remote acquire, before which nothing later is read (R379). -/
def acqOpen (s : State) : Bool := s.me.rems.any fun r =>
  match r.dest with
  | .acq _ _ => true
  | _ => false
/-- A stream reads bytes of one unit for a load still to come (R381): not bytes that a load which it has issued has still to
read, none that an uncorrectable error holds, and none while an acquire is on its way. -/
def peekTurn (s : State) (c : Nat) (e : Eng) (a n : Nat) : State :=
  s.asAgent (.eng c e) fun s =>
    if s.mayIssue c e && !s.acqOpen && decide (0 < n) && decide (a % 64 + n ≤ 64) && !s.readFirst a n && !s.eccHit a n then
      let bs := s.loadBytes s.party s.ownPath a n
      ((s.forget a n).ask [(a, n)]).modMe fun t => { t with pre := t.pre ++ [(a, bs)] }
    else s

end State

end Sys2Proof.Machine
end

