-- ==== Sys2Proof/Machine/Outposts.lean ====
section
/-! DEFINITION.  The outposts (R357 to R359): their private instructions, how a call starts and ends in a frame, and its
reply on the way to its caller (R361 to R363). -/

namespace Sys2Proof.Machine

namespace State

/-- An instruction that only an outpost executes, given the outpost, the frame and the call. -/
def inFrame (s : State) (k : Nat → Nat → OCall → End) : Answer :=
  .next (State.ends 4 (match s.cur with
    | .frame o f =>
      match (s.frame o f).call with
      | some c => k o f c
      | none => .trapped s.illegal
    | _ => .trapped s.illegal))

/-! ### The target page (R358) -/

/-- The physical address that the offset in a register names, when its checks pass. -/
def inPage (s : State) (a : GReg) (n : Nat) (perm : BitVec 3) (k : OCall → Nat → End) : Answer :=
  s.inFrame fun _ _ c =>
    let off := (s.g a).toInt
    let w := BitVec.ofInt 64 (c.base + off)
    if off < 0 ∨ (c.bytes : Int) < off + n then .trapped (s.trap 0x07 w)
    else if off % (min n 64 : Nat) ≠ 0 then .trapped (s.trap 0x04 w)
    else if perm &&& ~~~c.perm ≠ 0 then .trapped (s.trap 0x08 w)
    else k c (c.base + off).toNat
/-- A write of a call, performed at the memory at once (R359). -/
def callStore (s : State) (a : Nat) (bs : List Byte) : State := s.appendWrite s.party .rem (cellsAt a bs) [(Path.rem.bit, 2)]

/-- A `w` register of the frame that executes. -/
def wreg (s : State) (r : WReg) : BitVec 512 :=
  match s.cur with
  | .frame o f => tget 0 (s.frame o f).w r.toNat
  | _ => 0
/-- Writes it. -/
def setWreg (s : State) (r : WReg) (v : BitVec 512) : State :=
  match s.cur with
  | .frame o f => s.setFrame o f { s.frame o f with w := tset (s.frame o f).w r.toNat v }
  | _ => s

end State

/-- The 16 lanes of a `w` register. -/
def wLanes (v : BitVec 512) : List W32 := (List.range 16).map fun i => fld v (32 * i) 32
/-- A `w` register from its lanes. -/
def wOf (xs : List W32) : BitVec 512 := BitVec.ofNat 512 (leNat (xs.flatMap fun x => natBytes 4 x.toNat))

namespace State

/-- A lane by lane operation of three registers, the destination's old lanes last. -/
def wOp (s : State) (d a b : WReg) (f : W32 → W32 → W32 → W32) : Answer :=
  s.inFrame fun _ _ _ =>
    let xs := List.zipWith (fun (p : W32 × W32) z => f p.1 p.2 z) (List.zip (wLanes (s.wreg a)) (wLanes (s.wreg b)))
      (wLanes (s.wreg d))
    .done (s.setWreg d (wOf xs))
/-- `OAMO` (R358). -/
def oamo (s : State) (op : AtomOp) (ty : BitVec 2) (a b : GReg) : Answer :=
  s.inPage a (amoSize ty) 4 fun _ pa =>
    if s.eccHit pa (amoSize ty) then .trapped (s.memUncorr pa)
    else
      let cmp := if op = .cas then s.g (b + 1) else 0
      let r := s.rmw s.party .rem pa (amoSize ty) (amoBytes op ty (s.g b) cmp)
      .done (r.2.setG b (amoOld ty r.1))

end State

/-! ### The instructions -/

/-- `OLD` (R358). -/
def execOld (d a : GReg) (sz : BitVec 3) (s : State) : Answer := s.inPage a (sizeBytes sz) 1 fun _ pa => s.loadNow d sz pa
/-- `OST` (R358). -/
def execOst (d a : GReg) (sz : BitVec 3) (s : State) : Answer :=
  s.inPage a (sizeBytes sz) 2 fun _ pa => .done (s.callStore pa (natBytes (sizeBytes sz) (s.g d).toNat))
/-- `OAMO.add` (R358). -/
def execOamoAdd (ty : BitVec 2) (a b : GReg) (s : State) : Answer := s.oamo .add ty a b
/-- `OAMO.max` (R358). -/
def execOamoMax (ty : BitVec 2) (a b : GReg) (s : State) : Answer := s.oamo .max ty a b
/-- `OAMO.swap` (R358). -/
def execOamoSwap (ty : BitVec 2) (a b : GReg) (s : State) : Answer := s.oamo .swap ty a b
/-- `OAMO.cas` (R358). -/
def execOamoCas (ty : BitVec 2) (a b : GReg) (s : State) : Answer := s.oamo .cas ty a b
/-- `OVADD` (R358). -/
def execOvadd (d a b : WReg) (s : State) : Answer := s.wOp d a b fun x y _ => Num.add32 x y
/-- `OVMUL` (R358). -/
def execOvmul (d a b : WReg) (s : State) : Answer := s.wOp d a b fun x y _ => Num.mul32 x y
/-- `OVFMA` (R358). -/
def execOvfma (d a b : WReg) (s : State) : Answer := s.wOp d a b fun x y z => Num.fma32 x y z
/-- `OVMAX` (R358). -/
def execOvmax (d a b : WReg) (s : State) : Answer := s.wOp d a b fun x y _ => minMax32 true x y
/-- `OVLD` (R358). -/
def execOvld (d : WReg) (a : GReg) (s : State) : Answer :=
  s.inPage a 64 1 fun _ pa =>
    if s.eccHit pa 64 then .trapped (s.memUncorr pa)
    else .done ((s.ask [(pa, 64)]).setWreg d (BitVec.ofNat 512 (s.loadNat s.party .rem pa 64)))
/-- `OVST` (R358). -/
def execOvst (d : WReg) (a : GReg) (s : State) : Answer :=
  s.inPage a 64 2 fun _ pa => .done (s.callStore pa (natBytes 64 (s.wreg d).toNat))
/-- What a call from another package has written is visible before its reply leaves (R363, R388). -/
def State.showCall (s : State) (c : OCall) : State :=
  match c.caller with
  | .peer _ _ => s.widenWrites (fun w => w.party = c.party && w.path = .rem) 0x3F 5
  | _ => s
/-- `OREPLY` (R358): the reply leaves and the call ends. -/
def execOreply (n : BitVec 3) (a : GReg) (s : State) : Answer :=
  s.inFrame fun o f c => .trapped (((s.showCall c).sendReply c.caller (.ready ((regRange a n.toNat).map s.g))).endFrame o f)

/-! ### Calls as they start and end -/

namespace State

/-- A call that no declared function answers (R361). -/
def entryBad (s : State) (c : OCall) : State :=
  match c.caller with
  | .none => s.depositKind 1 8 c.off
  | who => s.sendReply who (.fault 0x57 0 0 0)
/-- The `g` registers of a call's start (R357). -/
def callRegs (c : OCall) : Tab Word :=
  let t := c.payload.zipIdx.foldl (fun t (v, i) => tset t (i + 1) v) ([] : Tab Word)
  tset (tset t 9 c.off) 10 (BitVec.ofNat 64 c.bytes)
/-- A frame as a call starts in it. -/
def callFrame (s : State) (c : OCall) (code : Memory) (entry : Word) : Frame :=
  { busy := true, call := some c, st := { life := .running, pc := entry, g := callRegs c, imem := code }, started := s.cyc }
/-- The oldest call of an outpost's queue starts in a free frame. -/
def startCall (s : State) (o f : Nat) : State :=
  let x := s.outpost o
  match x.queue with
  | [] => s
  | c :: rest =>
    if (s.frame o f).busy then s
    else
      let s := s.setOutpost o { x with queue := rest }
      match s.entryWord c.ctx c.entry with
      | none => s.entryBad c
      | some (k, w) => s.setFrame o f (s.callFrame c k.code (kitPc (fld w 0 14).toNat))

/-- The bank and the reply that has come for a tag. -/
def findReply (s : State) (c : Nat) (e : Eng) (tag : Nat) : Option CallReply :=
  s.replies.find? fun r => r.core = c && r.eng = e && r.tag = tag
/-- A reply reaches its tag, unless the tag's GEN has moved on or its time is over (R363). -/
def takeReply (s : State) (r : CallReply) : State :=
  let s := { s with replies := s.replies.erase r }
  s.modBankStrm r.core r.bankB r.eng fun t =>
    let x := t.call r.tag
    if x.st = .flight ∧ x.gen = r.gen ∧ !s.callTimedOut x then { t with calls := tset t.calls r.tag { x with st := r.st } } else t

end State

/-- An outpost starts a call in a frame (R357). -/
def execRemoteCallStart (o : OutId) (f : FrameId) (s : State) : Answer := .next (s.startCall o.val f.val)
/-- An outpost ends a call that has run for 10,000,000 ticks (R359). -/
def execCallRunTimeout (o : OutId) (f : FrameId) (s : State) : Answer :=
  .next (let x := s.frame o.val f.val
    if x.busy && decide (x.started + Config.tenMs ≤ s.cyc) then s.endFrame o.val f.val else s)
/-- A call's reply arrives (R363). -/
def execCallReply (c : CoreId) (e : Eng) (tag : BitVec 4) (s : State) : Answer :=
  .next (match s.findReply c.val e tag.toNat with
    | some r => s.takeReply r
    | none => s)
/-- A waiting `RWAIT` times out (R363): it is looked at again and raises CALL_LOST. -/
def execCallLost (c : CoreId) (e : Eng) (s : State) : Answer :=
  .next (if s.mayIssue c.val e && ((s.bank c.val).get e).blocked then
      let late := fun (t : State) (a : GReg) => let x := t.me.call (t.tagOf a); x.st = .flight && t.callTimedOut x
      match { s with cur := .eng c.val e }.fetch with
      | .exec (.rwait a tk) t => if late t a then t.withPattern tk 4 fun _ u => u.waitCall a else s
      | .exec (.rwaitAe a tk) t => if late t a then t.withPattern tk 4 fun _ u => u.waitCall a else s
      | _ => s
    else s)

end Sys2Proof.Machine
end

