-- ==== Sys2Proof/Machine/Slots.lean ====
section
/-! DEFINITION.  The fabric slots of the copy engine (R444 to R447): slot descriptors, bookings, sends, armed receives,
and the hop. -/

namespace Sys2Proof.Machine

/-! ### Slot descriptors (R444) -/

/-- The fields of a slot descriptor in 64 bytes; none where a reserved bit is set. -/
def parseSlot (b : List Byte) : Option SlotDesc :=
  let hop := recNat b 22 1
  let bar := recNat b 36 4
  if recNat b 8 2 < 4096 && recNat b 10 2 < 512 && recNat b 12 2 < 256 && recZero b 14 2 && recNat b 20 1 < 16 &&
      recNat b 21 1 < 16 && hop / 4 % 32 = 0 && recZero b 23 1 && recNat b 24 4 < 2 ^ 21 && recNat b 28 4 < 2 ^ 21 &&
      recNat b 32 4 < 2 ^ 21 && bar / 2 ^ 21 % 2 ^ 10 = 0 && recZero b 40 24 then
    some
      { t := BitVec.ofNat 64 (recNat b 0 8), peer := BitVec.ofNat 12 (recNat b 8 2), rcore := recNat b 10 2
        chan := BitVec.ofNat 8 (recNat b 12 2), n := recNat b 16 4, ifmt := BitVec.ofNat 4 (recNat b 20 1)
        ofmt := BitVec.ofNat 4 (recNat b 21 1), ty := BitVec.ofNat 2 hop, add := decide (128 ≤ hop), buf := recNat b 24 4
        acc := recNat b 28 4, out := recNat b 32 4, bar := if bar / 2 ^ 31 = 1 then some (bar % 2 ^ 21) else none
        barOk := bar % 16 = 0 && (bar / 2 ^ 31 = 1 || bar = 0) }
  else none

/-- A format of a slot. -/
def slotFmt (f : Fmt) : Bool := f = 0 || f = 3 || f = 4 || f = 13
/-- The length of a buffer of `n` elements (R444). -/
def slotLen (f : Fmt) (n : Nat) : Nat := if f = 0 then 4 * n else n * Num.width f / 8 + n / 32
/-- The limits of N. -/
def SlotDesc.countOk (d : SlotDesc) : Bool := d.n % 2048 = 0 && 2048 ≤ d.n && d.n ≤ 262144
/-- The limits of the fields that a hop reads. -/
def SlotDesc.hopOk (d : SlotDesc) : Bool := d.countOk && slotFmt d.ifmt && slotFmt d.ofmt && (!d.add || d.acc % 64 = 0) && d.barOk

/-! ### The hop (R446) -/

/-- The values of 32 codes under a scale byte. -/
def slotVals (f : Fmt) (codes : List Nat) (scale : Nat) : List Num.Val :=
  if f = 13 then codes.map (Num.f4Val scale)
  else if f = 0 then codes.map (Num.decodeVal f)
  else if scale % 64 = 63 then codes.map fun _ => Num.Val.nan
  else codes.map fun c => (Num.decodeVal f c).scale ((scale % 64 : Nat) - 32)
/-- SE of a block in an 8-bit format: 7 × 2^k is the format's largest value. -/
def slotScale (f : Fmt) (xs : List Num.Val) : Nat :=
  let k : Int := if f = 3 then 6 else 13
  let best := xs.foldl (fun (b : Option Int) v =>
    match v with
    | .fin _ m e =>
      if m = 0 then b
      else
        let y := Num.f4Exp 0 m e - k
        some (max y (b.getD y))
    | _ => b) none
  match best with
  | none => 32
  | some e => (min (max (32 + e) 0) 62).toNat
/-- A block of results as codes' bytes and its scale byte, if the format has one. -/
def slotBlock (f : Fmt) (ty : BitVec 2) (ys : List W32) : List Byte × List Byte :=
  let vs := ys.map Num.val32
  if f = 0 then (bytes32 ys, [])
  else if f = 13 then
    let q := Num.f4Block ty.toNat .rne 0 vs (vs.map fun _ => 0)
    (packCodes 4 q.codes, [BitVec.ofNat 8 q.scale])
  else if vs.any Num.Val.isNan then (List.replicate 32 0, [63])
  else
    let se := slotScale f vs
    (packCodes 8 (vs.map fun v => (Num.cvt f .rne 0 false 0 (v.scale (32 - (se : Int)))).bits), [BitVec.ofNat 8 se])
where
  /-- Bytes of 32-bit words. -/
  bytes32 (ws : List W32) : List Byte := ws.flatMap fun w => natBytes 4 w.toNat

namespace Recv

/-- The input goes through unchanged. -/
def through (r : Recv) : Bool := r.desc.ifmt = r.desc.ofmt && !r.desc.add
/-- The blocks whose input has arrived. -/
def ready (r : Recv) : Nat :=
  if r.desc.ifmt = 0 then r.got.length / 128 else r.got.length - r.desc.n * Num.width r.desc.ifmt / 8
/-- The blocks that have been hopped. -/
def hopped (r : Recv) : Nat := if r.desc.ofmt = 0 then r.codes.length / 128 else r.scales.length
/-- The result bytes that stand so far. -/
def result (r : Recv) : List Byte :=
  if r.through then r.got else r.codes ++ (if r.desc.n / 32 ≤ r.hopped then r.scales else [])
/-- The input values of a block. -/
def input (r : Recv) (b : Nat) : List Num.Val :=
  let w := Num.width r.desc.ifmt
  slotVals r.desc.ifmt ((List.range 32).map fun i => bitsAt r.got (w * (32 * b + i)) w)
    (r.got.getD (r.desc.n * w / 8 + b) 0).toNat

end Recv

namespace State

/-- A block is hopped for an XE stream: its input is widened, the core's array added, and the result narrowed. -/
def hopBlock (s : State) (p : Party) (r : Recv) : Recv :=
  let b := r.hopped
  let c := p.core
  let acc := s.loadBytes p .cp (windowBase c + r.desc.acc + 128 * b) 128
  let ys := (r.input b).zipIdx.map fun (x, i) =>
    if r.desc.add then
      Num.rne32 (Num.addV false x (Num.val32 (BitVec.ofNat 32 (leNat ((acc.drop (4 * i)).take 4))))).1
    else Num.rne32 x
  let o := slotBlock r.desc.ofmt r.desc.ty ys
  { r with codes := r.codes ++ o.1, scales := r.scales ++ o.2 }
/-- Every complete unit of the result that has not landed lands and is counted; `work` says that the stream has handed the
hop off. -/
def landResult (s : State) (p : Party) (work : Bool) (r : Recv) : State × Recv :=
  let res := r.result
  let n := res.length / 64
  ((List.range (n - r.out)).foldl (fun s i =>
      let u := r.out + i
      s.landScratch p p.core (r.desc.out + 64 * u) r.desc.bar ((res.drop (64 * u)).take 64) work) s,
    { r with out := max r.out n })
/-- A number of blocks, each landed as it is complete. -/
def hopBlocks (p : Party) (work : Bool) : Nat → State × Recv → State × Recv
  | 0, x => x
  | n + 1, (s, r) => hopBlocks p work n (s.landResult p work (s.hopBlock p r))
/-- All that the input which has arrived allows. -/
def hop (s : State) (p : Party) (work : Bool) (r : Recv) : State × Recv :=
  if r.through then s.landResult p work r else hopBlocks p work (r.ready - r.hopped) (s, r)
/-- The ranges that a hop writes in a core's scratch. -/
def hopRanges (c : Nat) (d : SlotDesc) : List (Nat × Nat) :=
  (windowBase c + d.out, slotLen d.ofmt d.n) ::
    (match d.bar with
      | some b => [(windowBase c + b, 16)]
      | none => [])

/-! ### Bookings (R445) -/

/-- The bookings of a bank that have not lapsed. -/
def liveBooks (s : State) (b : Bank) : List Booking := b.books.filter fun x => s.cyc < x.at_ + x.dur
/-- What the sends of a bank that have not gone keep of their lanes: a tick for each unit from T on. -/
def sendBooks (b : Bank) : List Booking :=
  (b.sends.filter fun x => let y := b.copy x.1; y.busy && y.seq = x.2.seq).map fun x =>
    { id := x.2.seq, peer := x.2.peer, chan := x.2.chan, at_ := x.2.at_, dur := x.2.len / 64 }
/-- The bookings of the package on a lane, with the sends that have consumed theirs and have still to go. -/
def laneBooks (s : State) (lane : Nat) : List Booking :=
  s.cores.flatMap fun k => [k.2.a, k.2.b].flatMap fun b =>
    (s.liveBooks b ++ sendBooks b).filter fun x => Config.laneOf x.peer.toNat x.chan.toNat = lane

end State

/-- Whether a lane is free for some ticks. -/
def laneFree (bs : List Booking) (at0 dur : Nat) : Bool := bs.all fun x => x.at_ + x.dur ≤ at0 || at0 + dur ≤ x.at_
/-- The earliest tick from one on at which a lane is free: that tick, or the end of a booking. -/
def earliestFree (bs : List Booking) (from_ dur : Nat) : Option Nat :=
  ((from_ :: bs.map fun x => x.at_ + x.dur).filter fun t => decide (from_ ≤ t) && laneFree bs t dur).foldl
    (fun m t => some (min t (m.getD t))) none

namespace State

/-- The descriptor that a register names, checked but for the limits of its fields. -/
def withSlot (s : State) (a : GReg) (ok : SlotDesc → Bool) (k : SlotDesc → End) : End :=
  let at0 := (s.g a).toNat
  s.afterChk (s.chkRead .cp at0 64 64) fun _ =>
    match parseSlot (s.scratchBytes .cp at0 64) with
    | none => .trapped (s.trap 0x48 0)
    | some d => if ok d then k d else .trapped (s.trap 0x48 0)
/-- The checks of what a hop reads and writes. -/
def hopChecks (s : State) (d : SlotDesc) (buf : Bool) : Chk :=
  (if buf then s.chkScratch d.buf (slotLen d.ifmt d.n) 64 else .ok).and fun _ =>
  (if d.add then s.chkScratch d.acc (4 * d.n) 64 else .ok).and fun _ =>
  (s.chkScratch d.out (slotLen d.ofmt d.n) 64).and fun _ =>
  match d.bar with
  | some a => s.chkScratch a 16 16
  | none => .ok

end State

/-! ### The instructions -/

/-- `FREQ` (R445). -/
def execFreq (d a : GReg) (tk : Tk) (dur : BitVec 24) (s : State) : Answer :=
  .next (s.withPattern tk 8 fun _ s =>
    s.withSlot a (fun _ => true) fun x =>
      if 16 ≤ (s.liveBooks s.curBank).length then .wait s false
      else
        let from_ := max x.t.toNat (s.cyc + 2000)
        match earliestFree (s.laneBooks (Config.laneOf x.peer.toNat x.chan.toNat)) from_ dur.toNat with
        | none => .done (s.setG d (BitVec.allOnes 64))
        | some t =>
          if from_ + 2 ^ 24 < t then .done (s.setG d (BitVec.allOnes 64))
          else
            let (id, s) := s.fresh
            .done ((s.modCurBank fun b =>
              { b with books := b.books ++ [{ id := id, peer := x.peer, chan := x.chan, at_ := t, dur := dur.toNat }] }).setG d
                (BitVec.ofNat 64 t)))
/-- `FSEND` (R445). -/
def execFsend (a b : GReg) (tk : Tk) (s : State) : Answer :=
  .next (s.withPattern tk 4 fun g s =>
    s.withSlot a (fun x => x.countOk && slotFmt x.ifmt && x.rcore < 384) fun x =>
      s.afterChk (s.chkScratch x.buf (slotLen x.ifmt x.n) 64) fun _ =>
        match (s.liveBooks s.curBank).find? fun y => y.peer = x.peer && y.chan = x.chan && y.at_ = x.t.toNat with
        | none => .trapped (s.trap 0x6B 0)
        | some y =>
          let free := fun (s : State) => s.modCurBank fun b => { b with books := b.books.filter fun z => z.id ≠ y.id }
          if decide (x.t.toNat ≤ s.cyc) then .trapped ((free s).trap 0x6C 0)
          else if y.dur * 64 < slotLen x.ifmt x.n then .trapped (s.trap 0x48 0)
          else
            match State.freeSlot s.curBank with
            | none => .wait s false
            | some n =>
              let c : Copy :=
                { kind := .send, src := BitVec.ofNat 64 x.buf, len := slotLen x.ifmt x.n, at_ := x.t.toNat, peer := x.peer
                  rcore := x.rcore, chan := x.chan }
              let s := (free s).takeSlot n c g
              .issued ((s.modCurBank fun b => { b with sends := b.sends ++ [(n, b.copy n)] }).setG b (BitVec.ofNat 64 n)))
/-- `FRECV` (R445). -/
def execFrecv (a : GReg) (tk : Tk) (s : State) : Answer :=
  .next (s.withPattern tk 4 fun _ s =>
    s.withSlot a (fun x => x.hopOk) fun x =>
      s.afterChk (s.hopChecks x false) fun _ =>
        if 8 ≤ s.curBank.recvs.length then .wait s false
        else
          let (id, s) := s.fresh
          .done (s.modCurBank fun b => { b with recvs := b.recvs ++ [{ id := id, desc := x }] }))
/-- `FWIDEN` (R445, R446). -/
def execFwiden (a : GReg) (tk : Tk) (s : State) : Answer :=
  .next (s.withPattern tk 4 fun _ s =>
    s.withSlot a (fun x => x.hopOk) fun x =>
      s.afterChk (s.hopChecks x true) fun _ =>
        let rs := State.hopRanges s.curCore x
        let ins := (windowBase s.curCore + x.buf, slotLen x.ifmt x.n) ::
          (if x.add then [(windowBase s.curCore + x.acc, 4 * x.n)] else [])
        if s.landHeld s.party .cp s.nextId rs || s.awayOpen s.party .cp s.nextId ins then .wait s false
        else
          let got := s.scratchBytes .cp x.buf (slotLen x.ifmt x.n)
          .done ((s.stepOver s.party .cp s.nextId rs).hop s.party false { id := 0, desc := x, got := got }).1)

/-! ### The events -/

namespace State

/-- The next unit of a send leaves, one a tick from T on (R445); while `PEERID.V` is 0 the gateway answers
PEER_UNREACH (R442). -/
def sendUnit (s : State) (c : Nat) (bankB : Bool) (n : Nat) : State :=
  let x := ((s.core c).get bankB).copy n
  let a := windowBase c + x.src.toNat + 64 * x.unit
  if !x.busy || x.kind ≠ .send || s.cyc < x.at_ + x.unit then s
  else if !s.mgmt.peerid.getLsbD 12 then s.faultCopy c bankB n 0x6A 0
  else if s.awayOpen (Party.stream c bankB .xe) .cp x.seq [(a, 64)] then s
  else if s.eccHit a 64 then s.faultCopy c bankB n 0x3D (BitVec.ofNat 64 a)
  else
    let s := s.emit (.slot x.peer x.rcore x.chan (s.loadAsOf (Party.stream c bankB .xe) .cp x.seq a 64))
    ((s.modCopy c bankB n fun x => { x with rotOn := true }).landedUnit c bankB n).doneUnit c bankB n

/-- The first armed receive of a core that matches, by arming order: its bank and itself. -/
def armed (s : State) (c : Nat) (peer : BitVec 12) (chan : BitVec 8) : Option (Bool × Recv) :=
  let k := s.core c
  let f := fun (b : Bank) => b.recvs.find? fun r => r.desc.peer = peer && r.desc.chan = chan
  match f k.a, f k.b with
  | some x, some y => some (if x.id < y.id then (false, x) else (true, y))
  | some x, none => some (false, x)
  | none, some y => some (true, y)
  | none, none => none
/-- A receive takes a unit; the stream's stores to the result from before the receive was armed come first (R375). -/
def arrive (s : State) (c : Nat) (bankB : Bool) (r : Recv) (data : List Byte) : State :=
  let p := Party.stream c bankB .xe
  let x := (s.stepOver p .cp r.id (State.hopRanges c r.desc)).hop p true { r with got := r.got ++ data }
  x.1.modCore c fun k =>
    let b := k.get bankB
    let full := decide (slotLen r.desc.ifmt r.desc.n ≤ x.2.got.length)
    let rest := if full then b.recvs.filter fun y => y.id ≠ r.id else b.recvs.map fun y => if y.id = r.id then x.2 else y
    k.set bankB { b with recvs := rest }

end State

/-- A send's slot starts, and each later tick sends its next unit (R445). -/
def execSlotSendStart (c : CoreId) (slot : BitVec 4) (s : State) : Answer :=
  .next (match s.bankWhere c.val fun b => (b.copy slot.toNat).busy with
    | some bankB => if State.drainHeld ((s.core c.val).get bankB) 1 then s else s.sendUnit c.val bankB slot.toNat
    | none => s)
/-- Slot data arrives at a core (R445, R446); where no receive is armed it lands nothing and its sender is told. -/
def execSlotArrival (c : CoreId) (peer : BitVec 12) (chan : BitVec 8) (data : BitVec 512) (s : State) : Answer :=
  .next (match s.armed c.val peer chan with
    | some (bankB, r) => s.arrive c.val bankB r (natBytes 64 data.toNat)
    | none => s.emit (.unarmed peer chan))
/-- A booking lapses (R445). -/
def execBookingLapse (c : CoreId) (n : Nat) (s : State) : Answer :=
  .next (s.modCore c.val fun k =>
    let f := fun (b : Bank) => { b with books := b.books.filter fun x => !(x.id = n && decide (x.at_ + x.dur ≤ s.cyc)) }
    { k with a := f k.a, b := f k.b })

end Sys2Proof.Machine
end

