-- ==== Sys2Proof/Machine/Fabric.lean ====
section
/-! DEFINITION.  Remote accesses as they return to their requesters (R436 to R442), tickets (R438 to R440), and the
package as the owner of exported memory (R435, R439, R441), also for itself (R434). -/

namespace Sys2Proof.Machine

/-- The window address of a fabric address (R410, R439). -/
def fabWindow (a : BitVec 57) : Word := zext (fld a 0 45)

namespace State

/-! ### The requester -/

/-- The bank whose stream has a remote access of a number. -/
def remBank (s : State) (c : Nat) (e : Eng) (id : Nat) : Option Bool :=
  s.bankWhere c fun b => (b.get e).rems.any fun r => r.id = id
/-- The step of a remote access of a stream, by its number. -/
def remStep (s : State) (c : Nat) (e : Eng) (id : Nat) (f : Bool → RemAcc → State) : State :=
  match s.remBank c e id with
  | none => s
  | some bankB =>
    match (((s.core c).get bankB).get e).rems.find? fun r => r.id = id with
    | none => s
    | some r => f bankB r

/-! ### Tickets at the requester (R438) -/

/-- The accesses of a stream that reserve or share an entry. -/
def atEntry (s : State) (c : Nat) (bankB : Bool) (e : Eng) (n : Nat) : List RemAcc :=
  (((s.core c).get bankB).get e).rems.filter fun x => x.entry = n
/-- Changes an entry. -/
def modTicket (s : State) (c n : Nat) (f : Ticket → Ticket) : State :=
  s.modCore c fun k => { k with tickets := tset k.tickets n (f (k.ticket n)) }
/-- Changes a remote access of a stream. -/
def modRem (s : State) (c : Nat) (bankB : Bool) (e : Eng) (id : Nat) (f : RemAcc → RemAcc) : State :=
  s.modBankStrm c bankB e fun t => { t with rems := t.rems.map fun x => if x.id = id then f x else x }
/-- After the notice the held accesses are sent again in program order: the first, once no earlier one and no other that has been
sent again is on its way. -/
def pump (s : State) (c : Nat) (bankB : Bool) (e : Eng) (n : Nat) : State :=
  let t := (s.core c).ticket n
  let mine := s.atEntry c bankB e n
  if !t.v || !t.notice then s
  else
    match mine.find? fun x => x.held with
    | none => s
    | some r =>
      if mine.any fun x => !x.held && (x.replayed || decide (x.id < r.id)) then s
      else
        (s.modRem c bankB e r.id fun x => { x with held := false, ticketed := false, replayed := true }).send c bankB e r
/-- An entry's hold is over: the held accesses leave in program order. -/
def release (s : State) (c : Nat) (bankB : Bool) (e : Eng) (n : Nat) : State :=
  ((s.atEntry c bankB e n).filter fun x => x.held).foldl (fun s r =>
    (s.modRem c bankB e r.id fun x => { x with held := false, ticketed := false }).send c bankB e r)
    (s.modTicket c n fun t => { t with v := false, notice := false })
/-- An access that shared an entry has been answered: the entry is free once no access shares it.  One that waits for a notice
goes on while it holds a ticketed access; without one, as after FN_RESET (R440), its hold is over. -/
def leaveEntry (s : State) (c : Nat) (bankB : Bool) (e : Eng) (n : Nat) : State :=
  let t := (s.core c).ticket n
  let mine := s.atEntry c bankB e n
  if mine.isEmpty then s.modCore c fun k => { k with tickets := tdel k.tickets n }
  else if t.v && !t.notice && !(mine.any fun x => x.held && x.ticketed) then s.release c bankB e n
  else s.pump c bankB e n
/-- A remote access is over, and the count of a command's elements goes with its last part. -/
def dropRem (s : State) (c : Nat) (bankB : Bool) (e : Eng) (r : RemAcc) : State :=
  (s.modBankStrm c bankB e fun t =>
    let rems := t.rems.filter fun x => x.id ≠ r.id
    { t with rems := rems, nadds := if rems.any fun x => x.seq = r.seq then t.nadds else tdel t.nadds r.seq }).leaveEntry
    c bankB e r.entry
/-- Whether no answer can come for an access: it is held, or has been answered. -/
def unanswered (r : RemAcc) : Bool := r.held || r.got.isSome

end State

/-- The registers that a reply carries. -/
def replyWords : Nat → List Byte → List Word
  | 0, _ => []
  | n + 1, bs => if bs.isEmpty then [] else BitVec.ofNat 64 (leNat (bs.take 8)) :: replyWords n (bs.drop 8)

namespace State

/-- A call's tag receives an answer, unless its GEN has moved on or its time is over. -/
def answerTag (s : State) (c : Nat) (bankB : Bool) (e : Eng) (tag : Nat) (gen : BitVec 8) (st : CallState) : State :=
  s.takeReply { core := c, bankB := bankB, eng := e, tag := tag, gen := gen, st := st }
/-- More elements of a remote `NADD` sent in parts have been performed: its count, and that of a report of it that is owed
(R449). -/
def countPart (s : State) (c : Nat) (bankB : Bool) (e : Eng) (seq n : Nat) : State :=
  s.modBankStrm c bankB e fun t =>
    if t.nadds.any fun x => x.1 = seq then
      let k := tget 0 t.nadds seq + n
      { t with
        nadds := tset t.nadds seq k
        owed := t.owed.map fun o => if o.seq = seq ∧ o.cls = 1 then { o with words := o.words.set 4 (BitVec.ofNat 64 k) } else o }
    else t
/-- What a reply or an acknowledgement does at its stream (R436). -/
def deliver (s : State) (c : Nat) (bankB : Bool) (e : Eng) (r : RemAcc) (data : List Byte) : State :=
  match r.dest with
  | .call tag gen => s.answerTag c bankB e tag gen (.ready (replyWords 4 data))
  | .part n => s.countPart c bankB e r.seq n
  | .unit slot ack => s.unitReply c bankB slot ack data
  | d => s.putDest c bankB e d data
/-- The words of a report of a remote access (R310, R410, R437). -/
def remWords (r : RemAcc) (window last : Word) : List Word :=
  [r.pc, window, zext (fld r.words 0 32), zext (fld r.words 32 32), last]
/-- A stream comes to owe a report of a remote access. -/
def oweRem (s : State) (c : Nat) (bankB : Bool) (e : Eng) (r : RemAcc) (code cls : Nat) (window last : Word) : State :=
  s.owe c bankB e { seq := r.seq, code := code, cls := cls, words := remWords r window last, since := s.coreCycles c }
/-- A part of a vector access, or a store, has been answered, perhaps with a fault: code, class and window address.  The access
ends with its last part: with the fault of its lowest element that has one, or with its register written and its signals
(R148, R164, R187). -/
def joinPart (s : State) (c : Nat) (bankB : Bool) (e : Eng) (r : RemAcc) (data : List Byte) (bad : Option (Nat × Nat × Word)) :
    State :=
  let s := s.modRem c bankB e r.id fun x => { x with got := some data, bad := bad, held := false, ticketed := false, entry := 32 }
  let all := (((s.core c).get bankB).get e).rems.filter fun x => x.seq = r.seq
  let s :=
    if all.any fun x => x.got.isNone then s
    else
      let t := s.modBankStrm c bankB e fun t => { t with rems := t.rems.filter fun x => x.seq ≠ r.seq }
      match all.findSome? fun x => x.bad.map fun y => (x, y) with
      | some (x, code, cls, window) => t.oweRem c bankB e x code cls window (zext (fabPeer x.addr))
      | none => (all.foldl (fun s x => s.putDest c bankB e x.dest (x.got.getD [])) t).finish c bankB e r.sig
  s.leaveEntry c bankB e r.entry
/-- Whether an access ends with its last part: a vector load, or a store. -/
def inParts : RemDest → Bool
  | .vec _ _ _ _ => true
  | .none => true
  | _ => false
/-- A reply or an acknowledgement returns (R436); an instruction that finishes with it signals (R148). -/
def remReply (s : State) (c : Nat) (e : Eng) (id : Nat) (data : List Byte) : State :=
  s.remStep c e id fun bankB r =>
    if unanswered r then s
    else if inParts r.dest then s.joinPart c bankB e r data none
    else ((s.deliver c bankB e r data).dropRem c bankB e r).finish c bankB e r.sig

/-- A fault of a remote access, which its stream owes, its call receives, or the error log (R361, R437, R449); the access is
over.  The words carry the fabric address and the owner's peer number. -/
def remFault (s : State) (c : Nat) (bankB : Bool) (e : Eng) (r : RemAcc) (code cls : Nat) (window addr pc word : Word) : State :=
  let t := ((s.core c).get bankB).get e
  let peer : Word := zext (fabPeer r.addr)
  let owed := fun (s : State) (last : Word) => s.oweRem c bankB e r code cls window last
  let gone := fun (s : State) => s.dropRem c bankB e r
  match r.op, r.dest with
  | .call _ _ true _, _ => gone (s.depositKind 1 8 addr)
  | _, .call tag gen => gone (if cls = 1 then s.answerTag c bankB e tag gen (.fault code addr pc word) else owed s peer)
  | _, .unit slot _ =>
    let x := ((s.core c).get bankB).copy slot
    gone (if x.canc then s.endCopy c bankB slot
      else if cls = 1 then s.faultCopy c bankB slot code window
      else owed ((s.modCopy c bankB slot fun x => { x with flt := true }).endCopy c bankB slot) peer)
  | _, .part _ =>
    gone (owed s (if cls = 1 && t.nadds.any fun x => x.1 = r.seq then BitVec.ofNat 64 (tget 0 t.nadds r.seq) else peer))
  | _, d => if inParts d then s.joinPart c bankB e r [] (some (code, cls, window)) else gone (owed s peer)
/-- A send's fault reaches its stream, also once a later copy has taken its slot (R445, R442). -/
def sendFault (s : State) (c id code : Nat) (addr : Word) : State :=
  match s.bankWhere c fun b => b.sends.any fun y => y.2.seq = id with
  | none => s
  | some bankB =>
    match ((s.core c).get bankB).sends.find? fun y => y.2.seq = id with
    | none => s
    | some (n, y) =>
      let x := ((s.core c).get bankB).copy n
      if x.seq = id && x.busy then s.faultCopy c bankB n code addr
      else
        let t := s.modCore c fun k =>
          let b := k.get bankB
          k.set bankB { b with sends := b.sends.filter fun z => z.2.seq ≠ id }
        let landed := if x.seq = id then x.landed else y.len
        (if x.seq = id then t.modCopy c bankB n fun x => { x with flt := true } else t).owe c bankB .xe
          { seq := id, code := code, cls := 1
            words := [y.pc, addr, zext y.w1, zext y.w2, BitVec.ofNat 64 landed, BitVec.ofNat 64 n], since := s.coreCycles c }

/-- The window address that the report of a fault reply names: that of the access, or, for an uncorrectable error, of the byte
in it that the reply names (R283). -/
def faultWindow (a : BitVec 57) (code : Nat) (addr : Word) : Word :=
  if code = 0x3D then zext (a &&& ~~~0xFFF) ||| zext (fld addr 0 12) else zext a
/-- A fault reply returns (R437, R363), also for an access behind a ticket (R440). -/
def remFaulted (s : State) (c : Nat) (e : Eng) (id code : Nat) (addr pc word : Word) : State :=
  if (s.remBank c e id).isSome then
    s.remStep c e id fun bankB r =>
      if r.got.isSome then s else s.remFault c bankB e r code 1 (faultWindow r.addr code addr) addr pc word
  else s.sendFault c id code addr

/-! ### Tickets as they come and go (R438, R410) -/

/-- A ticket for an access arrives: its entry becomes valid, and the access is held; the entry's age runs from the first.  A
replayed access that meets a ticket again waits for another notice; one that was on its way before keeps the notice. -/
def takeTicket (s : State) (c : Nat) (bankB : Bool) (e : Eng) (r : RemAcc) : State :=
  State.pump ((s.modRem c bankB e r.id fun x => { x with held := true, ticketed := true, replayed := false }).modTicket c r.entry
    fun t =>
      { t with v := true, reserved := true, notice := t.v && t.notice && !r.replayed, first := if t.v then t.first else s.cyc })
    c bankB e r.entry
/-- A replay notice for a page of a peer reaches a core. -/
def takeNotice (s : State) (c : Nat) (peer : BitVec 12) (page : BitVec 33) : State :=
  ((List.range 32).filter fun n =>
    let t := (s.core c).ticket n
    t.v && t.peer = peer && t.page = page).foldl (fun s n =>
      let t := (s.core c).ticket n
      (s.modTicket c n fun t => { t with notice := true }).pump c t.bankB t.eng n) s
/-- An entry expires once no notice has come in 10,000,000 ticks: the ticketed access faults, and the younger ones are
released; a notice in the same tick prevails (R410, R440). -/
def expireTicket (s : State) (c n : Nat) : State :=
  let t := (s.core c).ticket n
  if t.v && !t.notice && decide (t.first + Config.tenMs ≤ s.cyc) then
    match (s.atEntry c t.bankB t.eng n).find? fun r => r.held with
    | none => s.modCore c fun k => { k with tickets := tdel k.tickets n }
    | some r =>
      ((s.modTicket c n fun t => { t with v := false }).remFault c t.bankB t.eng r 0x60 3 (fabWindow r.addr) 0 0 0).release c
        t.bankB t.eng n
  else s

/-! ### The owner (R435, R439, R441) -/

/-- The permissions that an operation needs. -/
def opNeed : RemOp → BitVec 3
  | .load _ => 1
  | .store _ => 2
  | .bits _ _ => 2
  | .atom _ _ _ _ => 4
  | .add _ _ => 4
  | .call _ _ _ _ => 1
/-- Whether an operation reads byte `i` of what it touches. -/
def opReads (i : Nat) : RemOp → Bool
  | .store _ => false
  | .bits m _ => m.getD i 0 ≠ 0 && m.getD i 0 ≠ 0xFF#8
  | .call _ _ _ _ => false
  | _ => true
/-- The first byte that an operation at an address reads and that an uncorrectable error holds (R283). -/
def opEcc (s : State) (pa : Nat) (op : RemOp) : Option Nat :=
  ((List.range (opBytes op)).find? fun i => opReads i op && s.eccHit (pa + i) 1).map fun i => pa + i

/-- A fault reply to a peer. -/
def refuse (s : State) (r : RemReq) (code : Nat) (addr : Word) : State := s.toPeer r.peer (.faultReply r.peer r.tag code addr 0 0)
/-- A reply to a peer. -/
def answerPeer (s : State) (r : RemReq) (data : List Byte) : State := s.toPeer r.peer (.reply r.peer r.tag data)
/-- An access has been performed whose acknowledgement waits for its writes, those from a number on (R389). -/
def ackLater (s : State) (r : RemReq) (lo : Nat) (data : List Byte) : State :=
  { s with acks := s.acks ++ [{ req := r, lo := lo, hi := s.nextId, data := data }] }
/-- The core and the engine whose stream has a remote access of a number. -/
def remHome (s : State) (id : Nat) : Option (Nat × Eng) :=
  s.cores.findSome? fun k => (engines.find? fun e => (s.remBank k.1 e id).isSome).map fun e => (k.1, e)
/-- The place in its stream's issue order of an access that reaches the gateway: for one of this package that of its
instruction (R368, R434). -/
def remPlace (s : State) (r : RemReq) : Nat :=
  ((engines.filter fun e => e.num = r.strm % 4).findSome? fun e =>
    ((((s.core (r.strm / 8)).get (decide (r.strm / 4 % 2 = 1))).get e).rems.find? fun x =>
      x.id = r.tag && s.ownFabric r.addr && r.peer = fabPeer r.addr).map fun x => x.seq).getD r.tag

/-- The operation of an admitted and translated access is performed at its home, for the requesting stream; its writes are
visible as any write step's (R372, R389). -/
def performRemote (s : State) (r : RemReq) (ctx : CtxId) (pgsz : BitVec 4) (perm : BitVec 3) (page off : Nat) : State :=
  let pa := page + off
  let p := s.peerParty r.peer r.strm
  let no := s.remPlace r
  let s := (s.stepOver p r.path no [(pa, opBytes r.op)]).ask [(pa, opBytes r.op)]
  let lo := s.nextId
  match s.opEcc pa r.op with
  | some a => (s.depositSev 0 4 1 (BitVec.ofNat 64 a)).refuse r 0x3D (BitVec.ofNat 64 a)
  | none =>
    match r.op with
    | .load n => s.answerPeer r (s.loadAsOf p r.path no pa n)
    | .store d => (s.performPieces p r.path (wholePieces (cellsAt pa d)) false).ackLater r lo []
    | .bits m v =>
      (s.performPieces p r.path ((((cellsAt pa v).zip m).filter fun x => x.2 ≠ 0).map fun x => (x.1.1, x.2, x.1.2)) false).ackLater
        r lo []
    | .atom op ty x cmp =>
      let t := s.rmw p r.path pa (amoSize ty) (amoBytes op ty x cmp) false
      t.2.ackLater r lo t.1
    | .add int d => (s.addElems p none int pa d 0).1.ackLater r lo []
    | .call entry ws nr hperm =>
      if inWindow page then (if nr then (s.depositKind 1 8 0).answerPeer r [] else s.refuse r 0x58 0)
      else
        let (id, s) := s.fresh
        let s := s.queueCall (outpostOf page)
          { id := id, caller := if nr then .none else .peer r.peer r.tag, party := p, ctx := ctx, entry := entry, payload := ws
            base := page, bytes := pageBytes pgsz, perm := perm &&& hperm, off := BitVec.ofNat 64 off }
        if nr then s.answerPeer r [] else s
/-- An acknowledgement leaves: what it acknowledges is visible as any fence or release requires (R389, entry 46). -/
def ackTurn (s : State) (n : Nat) : State :=
  match s.acks[n]? with
  | none => s
  | some a =>
    (({ s with acks := s.acks.take n ++ s.acks.drop (n + 1) }).widenWrites (fun w => a.lo ≤ w.no ∧ w.no < a.hi) 0x3F 5).answerPeer
      a.req a.data

/-- A remote access reaches this package's gateway: it is admitted, translated, and performed or ticketed.  It is also
ticketed while an earlier one of its stream to the page has a ticket that is not used up; its own is used up, with those of
earlier ones that have expired, when it comes again after the notice (R390, R438). -/
def arriveRemote (s : State) (r : RemReq) : State :=
  let fn := fabFn r.addr
  let va := fabVa r.addr
  let w := fabWindow r.addr
  let page : BitVec 24 := fld r.addr 12 24
  if !s.mgmt.peerid.getLsbD 12 then s
  else if h : fn < 385 then
    let ctx : CtxId := ⟨fn, h⟩
    let x := s.ctx ctx
    let peer := r.peer.toNat
    let mine := fun (t : OwnTicket) => t.peer = r.peer && t.strm = r.strm && t.ctx = ctx && t.page = page
    let replay := s.tickets.any fun t => mine t && t.tag = r.tag
    let s := if replay then { s with tickets := s.tickets.filter fun t => !(mine t && t.tag ≤ r.tag) } else s
    let ticketed :=
      let t : OwnTicket := { peer := r.peer, strm := r.strm, tag := r.tag, ctx := ctx, page := page, addr := r.addr }
      State.toPeer { s with tickets := s.tickets ++ [t] } r.peer (.ticket r.peer r.strm r.tag page)
    if x.reset.isSome then s.refuse r 0x63 w
    else if !x.exctl.getLsbD 24 ∨ peer < (fld x.exctl 0 12).toNat ∨ (fld x.exctl 12 12).toNat < peer then s.refuse r 0x69 w
    else if s.tickets.any fun t => mine t && t.tag < r.tag then ticketed
    else
      match s.exportEntry ctx va with
      | some d =>
        if opNeed r.op &&& ~~~d.perm ≠ 0 then s.refuse r 0x69 w
        else s.performRemote r ctx d.pgsz d.perm d.addr.toNat (va % pageBytes d.pgsz)
      | none => ticketed
  else s.refuse r 0x69 w
/-- A requester's cancel notice: the records of its tickets for a page are dropped (R440). -/
def cancelOwn (s : State) (peer : BitVec 12) (strm : Nat) (c : CtxId) (page : BitVec 24) : State :=
  { s with tickets := s.tickets.filter fun t => !(t.peer = peer && t.strm = strm && t.ctx = c && t.page = page) }

/-- The walk of an export table: levels 2 to 4 (R435). -/
def exportWalk (s : State) (ctx : CtxId) (va : Nat) : WalkEnd :=
  match s.walkFrom va 3 2 ((fld (s.ctx ctx).exroot 12 33).toNat * 4096) with
  | .leaf _ _ true _ => .badEntry
  | w => w
/-- An export walk ends (R439): the translation is entered and notices leave, or one record is posted. -/
def endExport (s : State) (ctx : CtxId) (page : BitVec 24) : State :=
  let mine := fun (t : OwnTicket) => t.ctx = ctx && t.page = page && !t.noticed
  match s.tickets.find? fun t => mine t && t.walking with
  | none => s
  | some first =>
    let va := page.toNat * 4096
    let w := s.exportWalk ctx va
    let s := s.ask (s.walkReads va 3 2 ((fld (s.ctx ctx).exroot 12 33).toNat * 4096))
    match w with
    | .leaf pgsz perm _ addr =>
      let who := ((s.tickets.filter mine).map fun t => (t.peer, t.strm)).eraseDups
      let s := { s with
        tickets := s.tickets.map fun t => if mine t then { t with walking := false, noticed := true } else t
        dir := (s.dir.filter fun d => !d.covers 4 ctx va) ++
          [{ die := 4, ctx := ctx, page := va / pageBytes pgsz, pgsz := pgsz, perm := perm, rem := false
             addr := BitVec.ofNat 57 addr }] }
      who.foldl (fun s x => s.toPeer x.1 (.notice x.1 x.2 (BitVec.ofNat 33 (2 ^ 24 * ctx.val + page.toNat)))) s
    | w =>
      let s := match w with
        | .uncorr a => s.depositSev 0 4 1 (BitVec.ofNat 64 a)
        | _ => s
      let s := { s with tickets := s.tickets.map fun t => if mine t then { t with walking := false } else t }
      s.postRec ctx
        { code := 0x68, cls := 5, src := 0xFFF, words := [zext first.peer, fabWindow first.addr, BitVec.ofNat 64 ctx.val] }

/-! ### The package as its own peer (R434) -/

/-- The engine of a stream's number. -/
def strmEng (n : Nat) : Eng := (engines.find? fun e => e.num = n % 4).getD .ce
/-- What the gateway carries to the package itself takes its effect; an access while `PEERID.V` is 0 is answered
PEER_UNREACH (R442). -/
def loop (s : State) (o : Out) : State :=
  match o with
  | .request peer tag strm path addr op =>
    if s.mgmt.peerid.getLsbD 12 then
      s.arriveRemote { peer := peer, tag := tag, strm := strm, path := path, addr := addr, op := op }
    else s.remFaulted (strm / 8) (strmEng strm) tag 0x6A (zext addr) 0 0
  | .reply _ tag data =>
    match s.remHome tag with
    | some (c, e) => s.remReply c e tag data
    | none => s
  | .faultReply _ tag code addr pc word =>
    match s.remHome tag with
    | some (c, e) => s.remFaulted c e tag code addr pc word
    | none => s
  | .ticket _ strm tag _ =>
    s.remStep (strm / 8) (strmEng strm) tag fun bankB r =>
      if unanswered r then s else s.takeTicket (strm / 8) bankB (strmEng strm) r
  | .notice peer strm page => s.takeNotice (strm / 8) peer page
  | .cancel peer strm page => if h : page.toNat / 2 ^ 24 < 385 then s.cancelOwn peer strm ⟨page.toNat / 2 ^ 24, h⟩ (fld page 0 24) else s
  | _ => s
/-- Whether an item of the gateway must wait for one before it: accesses on one channel keep their order (R389). -/
def sameChannel (a b : Out) : Bool :=
  match a, b with
  | .request _ _ strm path _ _, .request _ _ strm' path' _ _ => strm = strm' && path = path'
  | _, _ => false
/-- Whether an access that the gateway carries to the package itself must wait for an older one of its stream to the same bytes:
one that has still to read, a write or a remote access on its path (R375), or a near-memory operation on its words (R332). -/
def arriveHeld (s : State) (o : Out) : Bool :=
  match o with
  | .request peer tag strm path addr op =>
    let r : RemReq := { peer := peer, tag := tag, strm := strm, path := path, addr := addr, op := op }
    let p := s.peerParty peer strm
    let no := s.remPlace r
    let t := s.partyStrm p
    s.ownFabric addr &&
      match s.fabHome addr with
      | none => false
      | some pa =>
        let rs := [(pa, opBytes op)]
        rangesMeet rs (s.streamReads p path no) || (s.forceHeld fun w => (s.stepFirst p path no rs).contains w.no) ||
          s.remsOpen p path no rs ||
          (path = .near && t.near.any fun x =>
            decide (x.seq < no) && !x.performed && (x.kind.ranges p.core).any fun y => sameWord y (pa, opBytes op))
  | _ => false
/-- Item `n` of the gateway's own traffic is served. -/
def gatewayTurn (s : State) (n : Nat) : State :=
  match s.loops[n]? with
  | none => s
  | some o =>
    if ((s.loops.take n).any fun x => sameChannel x o) || s.arriveHeld o then s
    else State.loop { s with loops := s.loops.take n ++ s.loops.drop (n + 1) } o

end State

/-! ### The events -/

/-- A remote access arrives at the owner's gateway (R435). -/
def execRemoteAccessArrival (r : RemReq) (s : State) : Answer := .next (s.arriveRemote r)
/-- A reply or an acknowledgement returns (R436). -/
def execRemoteReply (c : CoreId) (e : Eng) (id : Nat) (data : List Byte) (s : State) : Answer :=
  .next (s.remReply c.val e id data)
/-- A fault reply returns (R437, R363, R445). -/
def execRemoteFaultReply (c : CoreId) (e : Eng) (id : Nat) (code : BitVec 16) (addr pc word : Word) (s : State) : Answer :=
  .next (s.remFaulted c.val e id code.toNat addr pc word)
/-- A ticket for an access arrives (R438). -/
def execFaultTicket (c : CoreId) (e : Eng) (id : Nat) (s : State) : Answer :=
  .next (s.remStep c.val e id fun bankB r => if State.unanswered r then s else s.takeTicket c.val bankB e r)
/-- A replay notice arrives (R438). -/
def execReplayNotice (c : CoreId) (peer : BitVec 12) (page : BitVec 33) (s : State) : Answer :=
  .next (s.takeNotice c.val peer page)
/-- A ticket expires (R410). -/
def execTicketExpired (c : CoreId) (entry : BitVec 5) (s : State) : Answer := .next (s.expireTicket c.val entry.toNat)
/-- An export walk ends (R439). -/
def execExportWalkEnd (c : CtxId) (page : BitVec 24) (s : State) : Answer := .next (s.endExport c page)
/-- A requester's cancel notice arrives (R440). -/
def execTicketCancelNotice (peer : BitVec 12) (strm : Nat) (c : CtxId) (page : BitVec 24) (s : State) : Answer :=
  .next (s.cancelOwn peer strm c page)
/-- The gateway answers an access or a send to a peer that does not (R442). -/
def execPeerUnreach (c : CoreId) (e : Eng) (id : Nat) (s : State) : Answer :=
  .next (if (s.remBank c.val e id).isSome then
      s.remStep c.val e id fun bankB r =>
        if State.unanswered r then s else s.remFault c.val bankB e r 0x6A 1 (zext r.addr) (zext r.addr) 0 0
    else s.sendFault c.val id 0x6A 0)
/-- A peer's host-loss notice is entered in the error log of the links (R442). -/
def execHostLossNotice (peer : BitVec 12) (s : State) : Answer := .next (s.depositKind 2 5 (zext peer))

end Sys2Proof.Machine
end

