-- ==== Sys2Proof/Machine/Graphs.lean ====
section
/-! DEFINITION.  Submission queues as the device serves them (R245 to R247) and the nodes of graphs as they run (R248 to
R252), with the faults of this layer (R264). -/

namespace Sys2Proof.Machine

namespace State

/-- A record of this layer (R264, R407): the queue, the graph pointer, and the node or 0xFFFF. -/
def postSched (s : State) (c : CtxId) (code : Nat) (q : BitVec 4) (graph : Word) (node : Nat) : State :=
  s.postRec c { code := code, cls := 5, src := 0xFFF, words := [zext q, graph, BitVec.ofNat 64 node] }

/-- The pieces of a range that a page boundary cuts: offset and number of bytes. -/
def pieces (p : Word) (n : Nat) : List (Nat × Nat) :=
  let k := min n (4096 - ptrVa p % 4096)
  if k < n then [(0, k), (k, n - k)] else [(0, n)]
/-- A copy or event node writes bytes at a pointer of a context, whole or not at all; at most a page of them. -/
def ctxWrite (s : State) (c : CtxId) (p : Word) (bs : List Byte) : Option State :=
  let ps := pieces p bs.length
  let as := ps.map fun x => s.ctxAddr c (p + BitVec.ofNat 64 x.1) 2
  if as.all Option.isSome then
    some ((List.zip ps as).foldl (fun s x =>
      match x.2 with
      | some a => s.storeFor Party.graph a ((bs.drop x.1.1).take x.1.2)
      | none => s) s)
  else none

/-! ### Queues (R245 to R247, R263) -/

/-- Queue `q` of a context. -/
def sq (s : State) (c : CtxId) (q : BitVec 4) : Sq := tget {} (s.ctx c).sqs q.toNat
/-- Changes it. -/
def modSq (s : State) (c : CtxId) (q : BitVec 4) (f : Sq → Sq) : State :=
  s.modCtx c fun x => { x with sqs := tset x.sqs q.toNat (f (tget {} x.sqs q.toNat)) }
/-- The fetched entries of a queue whose graphs have not started. -/
def subs (s : State) (c : CtxId) (q : BitVec 4) : List SubEntry := tget [] (s.ctx c).subs q.toNat
/-- Replaces them. -/
def setSubs (s : State) (c : CtxId) (q : BitVec 4) (es : List SubEntry) : State :=
  s.modCtx c fun x => { x with subs := if es.isEmpty then tdel x.subs q.toNat else tset x.subs q.toNat es }
/-- The control plane serves a context: it is not under reset, the module is ready, and no hold is in force. -/
def serves (s : State) (c : CtxId) : Bool := (s.ctx c).reset.isNone && s.mgmt.ready && !s.mgmt.hold

/-- QUEUE_BAD: the queue stops (R264). -/
def queueBad (s : State) (c : CtxId) (q : BitVec 4) : State :=
  (s.modSq c q fun x => { x with err := true, en := false }).postSched c 0x30 q 0 0xFFFF

end State

/-- A submission entry in 32 bytes, and whether it obeys R247. -/
def parseSub (b : List Byte) : SubEntry × Bool :=
  let flags := recNat b 24 1
  let e : SubEntry :=
    { graph := BitVec.ofNat 64 (recNat b 0 8), done := BitVec.ofNat 64 (recNat b 8 8)
      doneval := BitVec.ofNat 64 (recNat b 16 8), int := flags % 2 = 1, ser := flags / 2 % 2 = 1 }
  (e, recNat b 0 8 % 16 = 0 && recNat b 8 8 % 8 = 0 && flags < 4 && recZero b 25 7)

namespace State

/-- GRAPH_BAD for a whole entry or graph: it completes as an abandoned one (R247, R251). -/
def graphBad (s : State) (c : CtxId) (q : BitVec 4) (e : SubEntry) (node : Nat) : State :=
  (s.postSched c 0x31 q e.graph node).writeDone c q e (abandonWord 0x31)
/-- A queue's tail is replaced; one beyond the queue's capacity is QUEUE_BAD at once (R246). -/
def ringDoorbell (s : State) (c : CtxId) (q : BitVec 4) (tail : W32) : State :=
  let s := s.modSq c q fun x => { x with tail := tail }
  let x := s.sq c q
  if s.serves c && x.en && decide (2 ^ x.log2n.toNat < (x.tail - x.head).toNat) then s.queueBad c q else s
/-- The device fetches the next entry of a queue, or finds QUEUE_BAD (R246). -/
def fetchEntry (s : State) (c : CtxId) (q : BitVec 4) : State :=
  let x := s.sq c q
  if !s.serves c ∨ !x.en ∨ x.head = x.tail then s
  else if 2 ^ x.log2n.toNat < (x.tail - x.head).toNat then s.queueBad c q
  else
    let at0 := x.base + BitVec.ofNat 64 (32 * (x.head.toNat % 2 ^ x.log2n.toNat))
    let s := s.ctxNote c at0 32
    match s.ctxLoad c at0 32 with
    | none => s.queueBad c q
    | some b =>
      let s := s.modSq c q fun x => { x with head := x.head + 1 }
      let e := parseSub b
      if e.2 then s.setSubs c q (s.subs c q ++ [e.1]) else s.graphBad c q e.1 0xFFFF

end State

/-! ### Graph records (R248, R251) -/

/-- A node in 64 bytes, and whether its own fields obey R251. -/
def parseNode (b : List Byte) : Node × Bool :=
  let ty := recNat b 0 1
  let cc := recNat b 1 1
  let nsucc := recNat b 4 1
  let eflg := recNat b 5 1
  let const := recNat b 32 8
  let tests := ty = 2 || ty = 3
  let x : Node :=
    { ty := ty, cc := BitVec.ofNat 4 cc, npred := recNat b 2 2
      succ := (List.range nsucc).map fun i => recNat b (8 + 2 * i) 2
      int := eflg = 1, word := BitVec.ofNat 64 (recNat b 24 8), const := BitVec.ofNat 64 const }
  (x, ty ≤ 5 && (if tests then cc ≤ 9 else cc = 0) && nsucc ≤ 8 && (if ty = 5 then eflg ≤ 1 else eflg = 0) &&
    recZero b 6 2 && recZero b 40 24 && (tests || ty = 5 || const = 0) && (ty ≠ 2 || nsucc = 2) &&
    (ty ≠ 4 || 1 ≤ nsucc) && (ty ≠ 3 || 2 ≤ nsucc))
/-- The edges out of a node, those of R250 apart. -/
def Node.edges (x : Node) : List Nat := if x.ty = 3 then x.succ.drop 2 else x.succ
/-- Whether two loop bodies are disjoint or one contains the other. -/
def loopsNest (x y : Node) : Bool :=
  let a := x.succ.getD 0 0
  let b := x.succ.getD 1 0
  let c := y.succ.getD 0 0
  let d := y.succ.getD 1 0
  x.ty ≠ 3 || y.ty ≠ 3 || b < c || d < a || b < a || d < c || (a ≤ c && d ≤ b) || (c ≤ a && b ≤ d)
/-- Whether a node obeys R251 among its graph's nodes. -/
def nodeOk (ns : List Node) (n : Nat) (x : Node) : Bool :=
  (x.succ.all fun m => m < ns.length) &&
  x.npred = (ns.flatMap Node.edges).count n &&
  !x.bodyHas n &&
  ns.zipIdx.all fun (y, k) =>
    loopsNest x y && (!y.bodyHas n || (x.edges.all fun m => y.bodyHas m || m = k) && (x.ty ≠ 3 || (x.succ.take 2).all y.bodyHas))

namespace State

/-- The nodes of a graph record, or the first node that is wrong, 0xFFFF for none. -/
def readGraph (s : State) (c : CtxId) (p : Word) : Except Nat (List Node) :=
  match s.ctxLoad c p 16 with
  | none => .error 0xFFFF
  | some r =>
    let nodes := recNat r 0 8
    let n := recNat r 8 2
    if nodes % 64 ≠ 0 ∨ n = 0 ∨ !recZero r 10 6 then .error 0xFFFF
    else
      match s.ctxLoad c (BitVec.ofNat 64 nodes) (64 * n) with
      | none => .error 0xFFFF
      | some b =>
        let xs := (List.range n).map fun i => parseNode ((b.drop (64 * i)).take 64)
        let ns := xs.map (·.1)
        match xs.zipIdx.find? fun (x, i) => !(x.2 && nodeOk ns i x.1) with
        | some (_, i) => .error i
        | none => .ok ns

/-- The reads of a graph record: of its header, and of the nodes that it names. -/
def graphNote (s : State) (c : CtxId) (p : Word) : State :=
  match s.ctxLoad c p 16 with
  | none => s.ctxNote c p 16
  | some r => (s.ctxNote c p 16).ctxNote c (BitVec.ofNat 64 (recNat r 0 8)) (64 * recNat r 8 2)

/-- The next graph of a queue starts (R247, R248). -/
def startGraph (s : State) (c : CtxId) (q : BitVec 4) : State :=
  match s.subs c q with
  | [] => s
  | e :: es =>
    let last := tget 0 (s.ctx c).lastGraph q.toNat
    if !s.serves c ∨ (e.ser ∧ (s.graph last).isSome) then s
    else
      let s := (s.setSubs c q es).graphNote c e.graph
      match s.readGraph c e.graph with
      | .error n => (s.modCtx c fun x => { x with lastGraph := tdel x.lastGraph q.toNat }).graphBad c q e n
      | .ok ns =>
        let g : Graph :=
          { id := s.nextId, ctx := c, sq := q, sub := e, nodes := ns
            pending := (ns.zipIdx.filter fun x => x.1.npred ≠ 0).map fun x => (x.2, x.1.npred) }
        let s := { s with nextId := s.nextId + 1, graphs := s.graphs ++ [g] }
        ((s.modCtx c fun x => { x with lastGraph := tset x.lastGraph q.toNat g.id }).numberReady g.id).graphCheck g.id

/-! ### Nodes as they run (R249, R250) -/

/-- A ready node of a type, of a graph that is not abandoned and whose context is served or only held. -/
def readyNode (s : State) (gid n ty : Nat) (k : Graph → Node → State) : State :=
  match s.graph gid with
  | none => s
  | some g =>
    match g.nodes[n]? with
    | none => s
    | some x => if x.ty = ty && g.abandoned.isNone && g.ready n && (s.ctx g.ctx).reset.isNone then k g x else s
/-- A node that fails: its record is posted and its graph abandoned (R251, R264). -/
def nodeBad (s : State) (g : Graph) (n code : Nat) : State :=
  (((s.postSched g.ctx code g.sq g.sub.graph n).modGraph g.id fun g => g.mark n .ran)).abandonGraph g.id code

/-- Whether a walk node's record may enter the pool at once (R256). -/
def poolOpen (s : State) (gid n : Nat) : Bool :=
  256 < s.poolFree && (!s.cands.any fun c => c.place ≠ .pool) && s.firstReady (gid, n)
/-- A ready walk node (R249): its walk becomes a candidate, or waits for a pool entry. -/
def runWalk (s : State) (gid n : Nat) : State :=
  s.readyNode gid n 0 fun g x =>
    if s.cands.any fun c => c.node = some (gid, n) then s
    else
      let s := s.ctxNote g.ctx x.word 64
      match s.ctxLoad g.ctx x.word 64 with
      | none => s.nodeBad g n 0x31
      | some b =>
        match parseWalk b with
        | none => s.nodeBad g n 0x32
        | some w =>
          if s.poolOpen gid n then (s.addCand g.ctx g.sq w .pool none (some (gid, n))).modGraph gid fun g => g.mark n .running
          else s.addCand g.ctx g.sq w .node none (some (gid, n))

/-- The read of a copy node's next unit. -/
def copyNote (s : State) (c : CtxId) (x : GCopy) : State := s.ctxNote c (x.src + BitVec.ofNat 64 (64 * x.done)) 64
/-- One 64-byte unit of a copy node; none where a pointer does not translate. -/
def copyOne (s : State) (c : CtxId) (x : GCopy) : Option State :=
  let off := BitVec.ofNat 64 (64 * x.done)
  match s.ctxLoad c (x.src + off) 64 with
  | none => none
  | some b => s.ctxWrite c (x.dst + off) b
/-- The copy of a running copy node. -/
def nodeCopy (s : State) (gid n : Nat) (k : Graph → GCopy → State) : State :=
  match s.graph gid with
  | none => s
  | some g =>
    match g.copies.find? fun x => x.1 = n with
    | none => s
    | some (_, x) => k g x
/-- A copy is over. -/
def dropCopy (s : State) (gid n : Nat) : State := s.modGraph gid fun g => { g with copies := tdel g.copies n }
/-- A ready copy node starts; the copy of a running one writes its next unit, but not its last. -/
def runCopy (s : State) (gid n : Nat) : State :=
  match s.graph gid with
  | none => s
  | some g =>
    if g.nodeSt n = .running then
      s.nodeCopy gid n fun g x =>
        if x.done + 1 < x.units then
          let s := s.copyNote g.ctx x
          match s.copyOne g.ctx x with
          | none => (s.dropCopy gid n).nodeBad g n 0x31
          | some t => t.modGraph gid fun g => { g with copies := tset g.copies n { x with done := x.done + 1 } }
        else s
    else
      s.readyNode gid n 1 fun g x =>
        let s := s.ctxNote g.ctx x.word 24
        match s.ctxLoad g.ctx x.word 24 with
        | none => s.nodeBad g n 0x31
        | some b =>
          let len := recNat b 16 8
          if len % 64 ≠ 0 then s.nodeBad g n 0x31
          else
            let y : GCopy := { src := BitVec.ofNat 64 (recNat b 0 8), dst := BitVec.ofNat 64 (recNat b 8 8), units := len / 64 }
            s.modGraph gid fun g => { g.mark n .running with copies := tset g.copies n y }
/-- The last unit of a copy node is written, and the node completes. -/
def endCopyNode (s : State) (gid n : Nat) : State :=
  s.nodeCopy gid n fun g x =>
    if x.units ≤ x.done + 1 then
      let s := if x.units = 0 then s else s.copyNote g.ctx x
      match (if x.units = 0 then some s else s.copyOne g.ctx x) with
      | none => (s.dropCopy gid n).nodeBad g n 0x31
      | some t => (t.dropCopy gid n).nodeDone gid n (t.nodeSuccs gid n)
    else s

/-- The word that a condition, switch or loop node reads. -/
def nodeWord (s : State) (g : Graph) (x : Node) : Option Word := (s.ctxLoadNat g.ctx x.word 8).map (BitVec.ofNat 64)
/-- A ready condition node. -/
def runCondition (s : State) (gid n : Nat) : State :=
  s.readyNode gid n 2 fun g x =>
    let s := s.ctxNote g.ctx x.word 8
    match s.nodeWord g x with
    | none => s.nodeBad g n 0x31
    | some w => s.nodeDone gid n [x.succ.getD (if condHolds x.cc w x.const then 0 else 1) 0]
/-- A ready switch node. -/
def runSwitch (s : State) (gid n : Nat) : State :=
  s.readyNode gid n 4 fun g x =>
    let s := s.ctxNote g.ctx x.word 8
    match s.nodeWord g x with
    | none => s.nodeBad g n 0x31
    | some w => s.nodeDone gid n [x.succ.getD (min w.toNat (x.succ.length - 1)) 0]
/-- A ready event node. -/
def runEvent (s : State) (gid n : Nat) : State :=
  s.readyNode gid n 5 fun g x =>
    match s.publish.ctxWrite g.ctx x.word (natBytes 8 x.const.toNat) with
    | none => s.nodeBad g n 0x31
    | some t => (if x.int then t.raise g.ctx 16 else t).nodeDone gid n x.succ

end State

/-- The body of a loop node begins an iteration. -/
def Graph.iterate (g : Graph) (n : Nat) (x : Node) : Graph :=
  (List.range g.nodes.length).foldl (fun h m =>
    if x.bodyHas m then
      { h.mark m .idle with pending := tset h.pending m ((h.nodes[m]?.map (·.npred)).getD 0) }
    else h) (g.mark n .running)
/-- Whether no body node is running or ready. -/
def Graph.bodyIdle (g : Graph) (x : Node) : Bool :=
  (List.range g.nodes.length).all fun m => !x.bodyHas m || (g.nodeSt m ≠ .running && !g.ready m)

namespace State

/-- A loop node evaluates its word (R250): when it is ready, and again whenever no node of its body is running or
ready. -/
def runLoop (s : State) (gid n : Nat) : State :=
  match s.graph gid with
  | none => s
  | some g =>
    match g.nodes[n]? with
    | none => s
    | some x =>
      let due := g.ready n || (g.nodeSt n = .running && g.bodyIdle x)
      if x.ty = 3 && g.abandoned.isNone && due && (s.ctx g.ctx).reset.isNone then
        let s := s.ctxNote g.ctx x.word 8
        match s.nodeWord g x with
        | none => s.nodeBad g n 0x31
        | some w =>
          if condHolds x.cc w x.const then (s.modGraph gid fun g => g.iterate n x).numberReady gid
          else s.nodeDone gid n (x.succ.drop 2)
      else s

end State

/-! ### The events -/

/-- The host writes a queue's tail (R246). -/
def execDoorbellWrite (c : CtxId) (q : BitVec 4) (tail : BitVec 32) (s : State) : Answer :=
  .next (if (s.ctx c).reset.isSome ∨ !s.mgmt.ready then s else s.ringDoorbell c q tail)
/-- The device fetches a submission entry (R246). -/
def execSubmissionFetch (c : CtxId) (q : BitVec 4) (s : State) : Answer := .next (s.fetchEntry c q)
/-- A graph starts (R248). -/
def execGraphStart (c : CtxId) (q : BitVec 4) (s : State) : Answer := .next (s.startGraph c q)
/-- A ready walk node (R249). -/
def execGraphNodeWalk (g n : Nat) (s : State) : Answer := .next (s.runWalk g n)
/-- A copy node starts, or its copy goes on (R249). -/
def execGraphNodeCopy (g n : Nat) (s : State) : Answer := .next (s.runCopy g n)
/-- A copy node completes (R249). -/
def execCopyNodeComplete (g n : Nat) (s : State) : Answer := .next (s.endCopyNode g n)
/-- A condition node (R249). -/
def execGraphNodeCondition (g n : Nat) (s : State) : Answer := .next (s.runCondition g n)
/-- A switch node (R249). -/
def execGraphNodeSwitch (g n : Nat) (s : State) : Answer := .next (s.runSwitch g n)
/-- An event node (R249). -/
def execGraphNodeEvent (g n : Nat) (s : State) : Answer := .next (s.runEvent g n)
/-- A loop node (R250). -/
def execGraphNodeLoop (g n : Nat) (s : State) : Answer := .next (s.runLoop g n)

end Sys2Proof.Machine
end

