-- ==== Sys2Proof/Machine/Select.lean ====
section
/-! DEFINITION.  The pending pool as it is allocated (R256), the decision and the start of a gang (R257, R258, R141,
R266), the energy budget (R259), and pre-emption as it is requested, carried out and withdrawn (R260, R416, R421). -/

namespace Sys2Proof.Machine

namespace State

/-! ### Pool allocation (R256) -/

/-- Whether a record that waits outside the pool can take an entry now. -/
def canEnter (s : State) (c : Cand) : Bool :=
  match c.place with
  | .pool => false
  | .spilled => 256 < s.poolFree || (0 < s.poolFree && c.parent.any s.resident)
  | .node => 256 < s.poolFree
/-- The record that takes the next entry: spilled children, oldest first, before walk nodes in the order in which they
became ready; a walk node whose record has not been read yet holds those that became ready after it. -/
def nextEntry (s : State) : Option Cand :=
  match s.cands.find? fun c => c.place = .spilled && s.canEnter c with
  | some c => some c
  | none => s.cands.find? fun c => c.place = .node && s.canEnter c && c.node.any s.firstReady
/-- It takes the entry and becomes a candidate. -/
def enterPool (s : State) (c : Cand) : State :=
  let n := s.nextId
  let s := State.modCand { s with nextId := n + 1 } c.id fun x =>
    { x with place := .pool, entry := n, eff := x.walk.prio, age := 0, ready := s.cyc, since := s.cyc, waited := 0 }
  match c.place, c.node with
  | .node, some (gid, k) => s.modGraph gid fun g => g.mark k .running
  | _, _ => s

/-! ### The start of a gang (R141, R142, R254, R266, R412, R422) -/

/-- Core scratch and accumulator memory as a job finds them (R266), within its half: what the previous job left, or
zeros where that job was of another context. -/
def clearCore (s : State) (c : Nat) (ctx : CtxId) (part : Nat) : State :=
  let k := s.core c
  if k.lastCtx = some ctx then s
  else
    let r := (partHalf part).1
    let lo := windowBase c + r.1
    let hi := windowBase c + r.2
    let keep := fun (w : Write) => { w with
      cells := w.cells.filter fun e => !(lo ≤ e.1 && e.1 < hi)
      half := w.half.filter fun e => !(lo ≤ e.1 && e.1 < hi) }
    let s := { s with
      mem := s.mem.filter fun e => !(lo ≤ e.1 && e.1 < hi)
      log := s.log.map keep
      buf := s.buf.map keep
      eccBad := s.eccBad.filter fun e => !(lo ≤ 64 * e.1 && 64 * e.1 < hi) }
    s.modCore c fun k => k.clearRows part
/-- The kit's data image is written over core scratch (R97), visible on every path (R219). -/
def writeImage (s : State) (c : Nat) (kit : Kit) : State :=
  if kit.data.isEmpty then s else s.devStore (windowBase c + kit.daddr) kit.data

end State

/-- The `g` registers at a job's start (R254, R27). -/
def startRegs (w : WalkRec) (seq : Nat) : Tab Word :=
  let put := fun (t : Tab Word) (n : Nat) (v : Word) => if v = 0 then t else tset t n v
  put (put ((List.range 6).foldl (fun t d => put t (d + 1) (BitVec.ofNat 64 (w.index seq d))) []) 7 (BitVec.ofNat 64 seq)) 8 w.arg
/-- A stream as its job starts (R27), or starts again from its region record (R133, R418). -/
def startStream (w : WalkRec) (seq : Nat) (k : KitStream) (r : RegionRec) : Stream :=
  { life := if r.done then .done else .running
    pc := r.rpc
    g := r.regs.foldl (fun t x => if x.2 = 0 then tdel t x.1 else tset t x.1 x.2) (startRegs w seq)
    lc := r.loops
    order := r.order
    imem := k.code
    ft := k.ft
    tk := k.tk
    entry := k.entry
    trapEntry := k.trap }

namespace State

/-- The checkpoint slot of a job of a gang, when it holds one already, or has ended (R418). -/
def heldSlot (s : State) (cand seq rank : Nat) : Option CkSlot :=
  s.slots.find? fun x => x.cand = cand && x.seq = seq && x.rank = rank
/-- The lowest free checkpoint slot of a context. -/
def freeSlotOf (s : State) (c : CtxId) : Nat :=
  ((List.range ((s.ctx c).ckcnt.toNat + s.slots.length + 1)).find? fun i => !s.slots.any fun x => x.ctx = c && x.idx = i && !x.ended).getD 0
/-- The checkpoint slot of a job: the one it holds, or a new one with each stream's implicit region (R132, R412). -/
def takeCkSlot (s : State) (c : Cand) (kit : Kit) (seq rank : Nat) : CkSlot × State :=
  match s.heldSlot c.id seq rank with
  | some x => (x, s)
  | none =>
    let recs := (kit.streams.zipIdx.filterMap fun (k, e) => k.map fun x => (e, ({ rpc := x.entry } : RegionRec)))
    let x : CkSlot := { ctx := c.ctx, idx := s.freeSlotOf c.ctx, cand := c.id, seq := seq, rank := rank, recs := recs }
    (x, (List.range 4).foldl (fun s e => s.saveRec c.ctx x.idx e) { s with slots := s.slots ++ [x] })

/-- One job of a gang starts on a core (R141, R421): in bank A, or in the EMPTY bank of a half-free core.  Every stream has
a snapshot of the health word (R38). -/
def startJob (s : State) (c : Cand) (kit : Kit) (gang seq core rank : Nat) : State :=
  let bankB := (s.core core).a.busy
  let (slot, s) := s.takeCkSlot c kit seq rank
  let s := (s.clearCore core c.ctx kit.part).writeImage core kit
  let job : Job :=
    { ctx := c.ctx, sq := c.sq, prio := BitVec.ofNat 4 c.eff, ecls := BitVec.ofNat 3 c.walk.ecls, seq := BitVec.ofNat 32 seq
      rank := BitVec.ofNat 2 rank, gsize := BitVec.ofNat 2 (c.walk.gang - 1), gang := gang, part := kit.part, slot := slot.idx }
  let old := (s.core core).get bankB
  let strm := fun (e : Eng) =>
    let calls := (old.get e).calls
    match kit.streams.getD e.num none with
    | some k => { startStream c.walk seq k (tget {} slot.recs e.num) with health := s.healthSnapshot, calls := calls }
    | none => { calls := calls }
  let b : Bank := { st := .run, job := job, ce := strm .ce, ae := strm .ae, ve := strm .ve, xe := strm .xe }
  s.modCore core fun k => { k.set bankB b with runB := bankB, lastCtx := some c.ctx }

/-- A gang starts on a cluster's lowest-numbered free cores, all of its jobs in one step (R257, R142); a job none of whose
streams starts, because the kit has none or all have completed `RDV`, ends at once (R134, R418). -/
def startGang (s : State) (c : Cand) (kit : Kit) (cluster : Nat) : State :=
  match candSeq c with
  | none => s
  | some seq =>
    let cores := (s.freeCores c.walk.gang kit.part cluster).take c.walk.gang
    let (gid, s) := s.fresh
    let g : Gang := { id := gid, cand := c.id, seq := seq, ctx := c.ctx, cluster := cluster, cores := cores, eff := c.eff
                      started := s.cyc }
    let s := { s with gangs := s.gangs ++ [g] }
    let s := s.modCand c.id fun x =>
      { x with
        kit := some kit
        next := if x.again.isEmpty then x.next + 1 else x.next
        again := x.again.drop 1
        running := x.running + 1
        eff := x.walk.prio
        age := 0
        ready := s.cyc
        since := s.cyc
        waited := 0 }
    let s := cores.zipIdx.foldl (fun s x => s.startJob c kit gid seq x.1 x.2) s
    (s.gangBanks g).foldl (fun s x =>
      if engines.any fun e => (((s.core x.1).get x.2).get e).life = .running then s else s.jobEnd x.1 x.2) s

/-- A kit that cannot be resolved (R264): the record is posted, the walk is over, and a graph's walk abandons its
graph. -/
def kitBad (s : State) (c : Cand) : State :=
  let s := { s with cands := s.cands.filter fun x => x.id ≠ c.id }
  match c.node with
  | some (gid, n) =>
    match s.graph gid with
    | some g => s.nodeBad g n 0x32
    | none => s
  | none => s.postSched c.ctx 0x32 c.sq 0 0xFFFF

/-! ### The decision (R257, R258) -/

/-- Ageing of a candidate that was placeable but not eligible (R258). -/
def aged (c : Cand) : Cand :=
  if 64 ≤ c.age + 1 then { c with age := 0, eff := min 15 (c.eff + 1) } else { c with age := c.age + 1 }
/-- The candidate that a decision chooses among the eligible ones. -/
def chosen (s : State) : Option Cand :=
  let es := s.cands.filter s.eligible
  let p := es.foldl (fun m c => max m c.eff) 0
  let es := es.filter fun c => c.eff = p
  let first := es.foldl (fun m c => min m c.ready) (es.foldl (fun m c => max m c.ready) 0)
  let es := es.filter fun c => c.ready = first
  let from_ := tget 0 s.ptr p
  let key := fun (c : Cand) => [(c.ctx.val + 385 - from_) % 385, c.sq.toNat, s.nextId - c.entry, (candSeq c).getD 0]
  es.foldl (fun m c =>
    match m with
    | none => some c
    | some x => if key c < key x then some c else some x) none
/-- The placeable cluster with the greatest headroom, the lowest number first. -/
def bestCluster (s : State) (c : Cand) : Option Nat :=
  (s.placeOn c).foldl (fun m n =>
    match m with
    | none => some n
    | some k => if tget 0 s.mgmt.headroom k < tget 0 s.mgmt.headroom n then some n else some k) none
/-- One decision. -/
def decide_ (s : State) : State :=
  match s.chosen with
  | none => s
  | some c =>
    match s.bestCluster c with
    | none => s
    | some n =>
      let old := s.cands.filter fun v => v.id ≠ c.id && s.placeable v && !s.eligible v
      let s' := { s with ptr := tset s.ptr c.eff ((c.ctx.val + 1) % 385) }
      let s' := if c.kit.isSome then s' else s'.kitNote c.ctx c.walk.kit
      let s' := match (match c.kit with
          | some k => some k
          | none => s.readKit c.ctx c.walk.kit) with
        | some kit => s'.startGang c kit n
        | none => s'.kitBad c
      old.foldl (fun s v => s.modCand v.id aged) s'

/-! ### The energy budget (R259) -/

/-- EBENV of an operating point. -/
def ebenv (s : State) (op : BitVec 2) : W32 :=
  tget (if op = 0 then 2400 else if op = 1 then 1850 else if op = 2 then 1350 else 950) s.mgmt.ebenv op.toNat
/-- BAL held to a range. -/
def clampBal (x : Int) (m : W32) : Int := max (min x m.toNat) (-(m.toNat : Int))
/-- The update of a multiple of 1,000 ticks; ΔE is what the module's counter has gained between the last two. -/
def updateBudget (s : State) : State :=
  if !s.mgmt.ready ∨ s.cyc < s.mgmt.ebTick + 1000 then s
  else
    let now := s.enMark
    let d : Int := (now - s.mgmt.ebLast).toNat
    let bal := max (min (s.mgmt.ebbal + (s.ebenv s.mgmt.opCur).toNat) s.mgmt.ebmax.toNat - d) (-(s.mgmt.ebmax.toNat : Int))
    { s with mgmt := { s.mgmt with ebbal := bal, ebLast := now, ebTick := s.mgmt.ebTick + 1000 } }

/-! ### Pre-emption (R260, R416, R421) -/

/-- Whether a core that holds a job of a gang would be free for a gang of another candidate once it is discarded. -/
def freedCore (s : State) (g : Gang) (gang part c : Nat) : Bool :=
  let k := s.core c
  let inA := k.a.busy && k.a.job.gang = g.id
  let other := if inA then k.b else k.a
  (inA || (k.b.busy && k.b.job.gang = g.id)) && !s.fenced c && (other.st = .empty || (gang = 1 && other.st = .wait && partsDisjoint other.job.part part))
/-- Whether the discard of a gang makes a candidate placeable. -/
def helps (s : State) (c : Cand) (g : Gang) : Bool :=
  g.eff + 4 ≤ c.eff && s.clusterOpen g.cluster &&
    decide (c.walk.gang ≤ (s.freeCores c.walk.gang (s.candPart c) g.cluster).length +
      (g.cores.filter fun k => s.freedCore g c.walk.gang (s.candPart c) k && !s.coreFree c.walk.gang (s.candPart c) k).length)
/-- The gang that the scheduler pre-empts for a candidate that has waited for cores (R260). -/
def victim (s : State) : Option Gang :=
  let cs := s.cands.filter fun c => s.waitsForCores c && decide (Config.oneMs < c.waited)
  let gs := s.gangs.filter fun g => !g.failing && cs.any fun c => s.helps c g
  gs.foldl (fun m g =>
    match m with
    | none => some g
    | some x =>
      if g.eff < x.eff ∨ (g.eff = x.eff ∧ (x.started < g.started ∨ (g.started = x.started ∧ g.cluster < x.cluster))) then some g
      else some x) none
/-- The request; only one is in progress at a time. -/
def requestLong (s : State) : State :=
  if s.gangs.any fun g => g.longWait && g.preempt.isSome then s
  else
    match s.victim with
    | none => s
    | some g => (s.requestPreempt g.id).modGang g.id fun g => { g with longWait := true }

/-- Whether every sealing request of a gang has finished (R416, R311). -/
def sealingDone (s : State) (g : Gang) : Bool :=
  (s.gangBanks g).all fun x =>
    engines.all fun e => (((s.core x.1).get x.2).get e).reqs.all fun r =>
      match r.kind with
      | .wrel .. => false
      | .update .. => false
      | _ => true
/-- Whether the copy engines of a gang with a failed job have nothing more to send: no copy still has to land, and every XE
stream has ended, waits in a `BARR` or without a deadline for the failed job, or is held by a page fault (R394, R405, entry
90). -/
def gangQuiet (s : State) (g : Gang) : Bool :=
  (s.gangBanks g).all fun x =>
    let b := (s.core x.1).get x.2
    (b.st = .wait || b.xe.life ≠ .running || b.barrDone < b.barrs || ((s.core x.1).runB = x.2 && s.waitsShort x.1)) &&
      b.copies.all fun y => !y.2.busy || (y.2.kind = .rot && !y.2.rotOn)
/-- The discard of a gang with a pending pre-emption (R416), or of what is left of one with a failed job (R405). -/
def carryOut (s : State) (gid : Nat) : State :=
  match s.gang gid with
  | none => s
  | some g =>
    if g.failing then (if s.gangQuiet g then s.failOver gid else s)
    else if g.preempt.isSome && !s.gangSealed g && s.sealingDone g then s.discardGang g
    else s
/-- A pre-emption that was not carried out in time (R416). -/
def withdraw (s : State) (gid : Nat) : State :=
  match s.gang gid with
  | none => s
  | some g =>
    match g.preempt with
    | none => s
    | some t =>
      if !g.noWithdraw && decide (t + Config.tenMs ≤ s.cyc) then
        s.modGang gid fun g => { g with preempt := none, longWait := false }
      else s

/-- A bank that has been READY for 1,000,000 ticks (R421): the other bank's job is pre-empted. -/
def readyLate (s : State) (c : Nat) : State :=
  let k := s.core c
  let late := fun (b o : Bank) => b.st = .ready && o.st = .run && decide (b.readySince + Config.oneMs ≤ s.cyc)
  if late k.a k.b then s.requestPreempt k.b.job.gang
  else if late k.b k.a then s.requestPreempt k.a.job.gang
  else s

/-- A page-fault record that was dropped is offered again (R408). -/
def reoffer (s : State) (c : Nat) (bankB : Bool) : State :=
  let b := (s.core c).get bankB
  match b.pf with
  | none => s
  | some p =>
    if b.st = .wait && !p.posted && !p.draining && decide (p.offered + Config.oneMs ≤ s.cyc) then s.postPf c bankB p else s

end State

/-! ### The events -/

/-- A record that waits outside the pool takes an entry (R256). -/
def execPoolAllocation (s : State) : Answer :=
  .next (match s.nextEntry with
    | some c => s.enterPool c
    | none => s)
/-- A decision (R257). -/
def execPlacementDecision (s : State) : Answer := .next s.decide_
/-- The update of the energy budget (R259). -/
def execEnergyBudgetUpdate (s : State) : Answer := .next s.updateBudget
/-- A cluster's thermal headroom is read (R259). -/
def execHeadroomReading (cluster : Fin 96) (h : BitVec 32) (s : State) : Answer :=
  .next { s with mgmt := { s.mgmt with headroom := tset s.mgmt.headroom cluster.val h } }
/-- A long wait for cores causes a pre-emption (R260). -/
def execPreemptionRequest (s : State) : Answer := .next s.requestLong
/-- A gang is discarded (R416, R417). -/
def execGangDiscard (g : Nat) (s : State) : Answer := .next (s.carryOut g)
/-- A pre-emption is withdrawn (R416). -/
def execPreemptionWithdrawn (g : Nat) (s : State) : Answer := .next (s.withdraw g)
/-- A bank has been READY too long (R421). -/
def execBankReadyTimeout (c : CoreId) (s : State) : Answer := .next (s.readyLate c.val)
/-- A page-fault record is offered again (R408). -/
def execPageFaultRecordReoffer (c : CoreId) (bankB : Bool) (s : State) : Answer := .next (s.reoffer c.val bankB)

end Sys2Proof.Machine
end

