-- ==== Sys2Proof/Machine/Watch.lean ====
section
/-! DEFINITION.  What the device does when a job makes no progress or is late: token deadlock (R151), the late report of
an owed fault (R310), and the length limit of a sealed region (R414). -/

namespace Sys2Proof.Machine

/-! ### Token deadlock (R151) -/

/-- Whether a stream is stuck or not started: it waits so at its instruction, or a signal of a pattern waits for room while
it waits for nothing else; an AE whose tile waits for a place in the operand queue is stuck too (R317). -/
def Bank.streamStuck (b : Bank) (e : Eng) : Bool :=
  let t := b.get e
  t.life ≠ .running || t.stuck || (!t.sigs.isEmpty && !t.blocked) ||
    (e = .ae && t.blocked && !b.oqOrder.isEmpty && decide (4 ≤ b.oq.length) && b.mq.head?.any fun m => m.waitedSem)
/-- Whether the ME is stuck. -/
def Bank.meStuck (b : Bank) : Bool :=
  match b.mq with
  | [] => true
  | m :: _ => m.waitedSem && !m.started && b.sem (mxHdr m.record).swi = 0
/-- Whether every started stream and the ME are stuck, with a stream that has not completed `RDV`. -/
def Bank.allStuck (b : Bank) : Bool :=
  b.st = .run && b.meStuck && engines.all b.streamStuck && engines.any fun e => (b.get e).life = .running
/-- The count of R151 begins or goes on: every stream is looked at again (entry 29). -/
def Bank.beginStuck (b : Bank) (now : Nat) : Bank :=
  { b.modAll fun t => { t with stuck := false, blocked := false } with stuckSince := some now }

/-- Two PCs in one word of a record. -/
def pcPair (x y : Word) : Word := zext (fld x 0 32) ||| (zext (fld y 0 32) <<< 32)
/-- The twelve token counts, 5 bits each, in the order of R145. -/
def Bank.lineWord (b : Bank) : Word :=
  BitVec.ofNat 64 ((engines.flatMap fun p => (List.range 3).map fun i => b.line p (lineOf p i)).foldr
    (fun n acc => n % 32 + 32 * acc) 0)
/-- Eight semaphores, 8 bits each. -/
def Bank.semWord (b : Bank) (n : Nat) : Word :=
  BitVec.ofNat 64 ((List.range 8).foldr (fun i acc => tget 0 b.sems (n + i) % 256 + 256 * acc) 0)
/-- The five words of a TOKEN_DEADLOCK record (R407). -/
def Bank.deadlockWords (b : Bank) : List Word :=
  [pcPair b.ce.pc b.ae.pc, pcPair b.ve.pc b.xe.pc, b.lineWord, b.semWord 0, b.semWord 8]

namespace State

/-- The device looks at the count of R151 of a core: it begins, goes on, or ends the job. -/
def deadlock (s : State) (c : Nat) : State :=
  let b := s.bank c
  if b.allStuck then
    match b.stuckSince with
    | none => s.setBank c (b.beginStuck (s.coreCycles c))
    | some n =>
      if n + Config.cycleBound ≤ s.coreCycles c + b.stuckFor then
        s.jobFail c (s.core c).runB { code := 0x18, cls := 4, src := srcField c 7, words := b.deadlockWords }
      else s
  else s

/-! ### The late report (R310, R222, R348, R437) -/

/-- Whether the instruction that a stream holds is complete: a `BARR` of the XE that every member has issued (R353), or an
`XLTW` whose translation has ended. -/
def barrComplete (s : State) (c : Nat) (e : Eng) : Bool :=
  let b := s.bank c
  let t := b.get e
  (t.undo.isSome && !t.xlates.any fun x => x.id = t.waitId) || e = .xe && (b.get e).waitId = 1 && decide (b.barrs ≤ b.barrDone) &&
    match { s with cur := .eng c e }.fetch with
    | .exec (.barr _) _ => true
    | _ => false
/-- A `BARR` whose wait is abandoned takes no effect: it no longer counts as issued. -/
def abandonBarr (s : State) (c : Nat) (e : Eng) : State := if e = .xe then s.dropBarr c else s
/-- A fault that a stream has owed for 2^20 cycles is reported at the instruction that the stream holds. -/
def lateReport (s : State) (c : Nat) (e : Eng) : State :=
  let due := ((s.bank c).get e).owed.any fun o => decide (o.since + Config.cycleBound ≤ s.coreCycles c)
  match firstOwed ((s.bank c).get e).owed with
  | none => s
  | some o =>
    if s.mayIssue c e && due && !s.barrComplete c e then
      let s := (s.abandonBarr c e).modBank c fun b => { b with stuckSince := none, stuckFor := 0 }
      State.report { s with cur := .eng c e }.noteIssue o
    else s

/-- The 65,537th instruction of a sealed region (R414): what its fetch comes to. -/
def longRegion (s : State) (c : Nat) (e : Eng) : State :=
  let t := (s.bank c).get e
  if s.mayIssue c e && t.sealed && decide (Config.regionLimit < t.sealCount) then
    match { s with cur := .eng c e }.fetch with
    | .other u => u
    | .exec _ _ => s
  else s

end State

/-- A job has been stuck for 2^20 cycles (R151). -/
def execTokenDeadlock (c : CoreId) (s : State) : Answer := .next (s.deadlock c.val)
/-- An owed fault has not been reported within 2^20 cycles (R310). -/
def execImpreciseReportTimeout (c : CoreId) (e : Eng) (s : State) : Answer := .next (s.lateReport c.val e)
/-- A sealed region exceeds its length limit (R414). -/
def execRegionLong (c : CoreId) (e : Eng) (s : State) : Answer := .next (s.longRegion c.val e)

end Sys2Proof.Machine
end

