-- ==== Sys2Proof/Machine/Resets.lean ====
section
/-! DEFINITION.  Function-level and module reset (R22, R425, R426, R458), loss of the host link (R428), thermal trips
(R460), operating points (R21), the health word and fences (R20, R429), refresh errors (R282) and the power states of
memory channels (R281). -/

namespace Sys2Proof.Machine

/-- Every context. -/
def allCtx : List CtxId := List.finRange 385

namespace State

/-- The banks that hold a job of a context, by core. -/
def banksOf (s : State) (x : CtxId) : List (Nat × Bool) :=
  s.cores.flatMap fun k =>
    ([false, true].filter fun b => (k.2.get b).busy && (k.2.get b).job.ctx = x).map fun b => (k.1, b)

/-! ### Operating points (R21, R22, R459) -/

/-- Whether a reset is in progress. -/
def inReset (s : State) : Bool := !s.mgmt.ready || s.ctxs.any fun x => x.2.reset.isSome
/-- An operating point is requested. -/
def requestOp (s : State) (op : BitVec 2) : State :=
  { s with mgmt := { s.mgmt with opReq := op, opBusy := op ≠ s.mgmt.opCur } }
/-- A write of `OPCTL`: held during a reset. -/
def writeOp (s : State) (op : BitVec 2) : State :=
  if s.inReset then { s with mgmt := { s.mgmt with opHeld := some op } } else s.requestOp op
/-- A held command is carried out when no reset is left. -/
def releaseOp (s : State) : State :=
  match s.mgmt.opHeld with
  | none => s
  | some op => if s.inReset then s else State.requestOp { s with mgmt := { s.mgmt with opHeld := none } } op
/-- The new clock takes effect. -/
def changeOp (s : State) : State :=
  if s.mgmt.opBusy then { s with mgmt := { s.mgmt with opCur := s.mgmt.opReq, opBusy := false } } else s

/-! ### Function-level reset (R425 to R427, R440) -/

/-- A function's work is discarded and its state cleared; its recorded tickets are answered with FN_RESET. -/
def resetFn (s : State) (c : CtxId) : State :=
  let s := (s.banksOf c).foldl (fun s x => s.discardBank x.1 x.2) s
  let s := (s.invalidate c .all).2
  let s := (s.tickets.filter fun t => t.ctx = c).foldl
    (fun s t => s.toPeer t.peer (.faultReply t.peer t.tag 0x63 (zext (fld t.addr 0 45)) 0 0)) s
  let s := { s with
    gangs := s.gangs.filter fun g => g.ctx ≠ c
    cands := s.cands.filter fun x => x.ctx ≠ c
    graphs := s.graphs.filter fun g => g.ctx ≠ c
    slots := s.slots.filter fun x => x.ctx ≠ c
    tickets := s.tickets.filter fun t => t.ctx ≠ c
    invals := s.invals.map fun (v : Inval) => if v.ctx = c then { v with driver := false } else v
    dir := s.dir.filter fun d => !(d.die = 4 && d.ctx = c) }
  s.setCtx c { reset := some s.cyc }
/-- The functions that a reset of a function includes (R22). -/
def resetSet (c : CtxId) : List CtxId := if c = 0 then allCtx else [c]
/-- A call of a function that runs or waits in an outpost. -/
def callOf (s : State) (c : CtxId) : Bool :=
  s.outposts.any fun o =>
    (o.2.queue.any fun x => x.ctx = c) || o.2.frames.any fun f => f.2.busy && f.2.call.any fun x => x.ctx = c
/-- The reset of a function has nothing left to wait for. -/
def fnQuiet (s : State) (c : CtxId) : Bool := !s.callOf c && s.invals.all fun v => v.ctx ≠ c
/-- A function-level reset ends. -/
def endFnReset (s : State) (c : CtxId) : State :=
  let cs := resetSet c
  if (s.ctx c).reset.isSome && (c = 0 || (s.ctx 0).reset.isNone) && cs.all s.fnQuiet then
    (cs.foldl (fun s x => s.setCtx x {}) s).releaseOp
  else s

/-! ### Module reset (R458, R464, R465) -/

end State

/-- The image as a module reset finds it, and whether it is admitted (R464): a write that was cut short leaves none. -/
def Firmware.admitImage (f : Firmware) : Firmware × Bool :=
  let f := { f with good := f.good && !f.writing, writing := false }
  let ok := f.good && f.minSvn.ule f.svn
  ({ f with admDigest := if ok then f.digest else 0, admSvn := if ok then f.svn else 0 }, ok)

namespace State

/-- All work ended, every register at its reset value, the health word and the energy counters cleared, and zeros in
HBM, the LPDDR tier and the vaults.  An operating-point command that is held stays held (R22). -/
def moduleClear (s : State) : State :=
  let s := (s.stepWrites fun _ => true).publish
  { s with
    cores := s.cores.map fun k => (k.1, { acc := k.2.acc })
    mem := s.mem.filter fun e => inWindow e.1
    eccBad := s.eccBad.filter fun e => inWindow (64 * e.1)
    tpbs := [], outposts := [], kits := [], replies := [], ctxs := [], dir := [], invals := [], graphs := []
    cands := [], gangs := [], slots := [], ptr := [], tickets := [], acks := [], loops := [], temperQ := [], nearQ := []
    mgmt :=
      { ready := false, linkUp := s.mgmt.linkUp, opHeld := s.mgmt.opHeld, chanFrom := s.cyc, headroom := s.mgmt.headroom
        logs := s.mgmt.logs, fw := s.mgmt.fw, temps := s.mgmt.temps, hotAt := s.mgmt.hotAt }
    enMark := 0 }
/-- A module reset begins. -/
def resetNow (s : State) : State :=
  let f := s.mgmt.fw.admitImage
  let t := s.moduleClear
  { t with mgmt := { t.mgmt with fw := f.1, recovery := !f.2, resetAt := some s.cyc } }
/-- It ends, unless the module is in recovery. -/
def resetDone (s : State) : State :=
  if s.mgmt.resetAt.isSome && !s.mgmt.ready && !s.mgmt.recovery then
    State.releaseOp { s with mgmt := { s.mgmt with
      ready := true, resetAt := none, ebTick := s.cyc / 1000 * 1000, ebLast := s.enMark } }
  else s
/-- Power is lost: nothing is left but what flash and the logs hold, and a write of an image in progress is cut short. -/
def losePower (s : State) : State :=
  let t := s.moduleClear
  let f := s.mgmt.fw
  { t with
    cores := [], mem := [], eccBad := []
    mgmt := { t.mgmt with opHeld := none, fw := { f with good := f.good && !f.writing, writing := false } } }

/-! ### The host link (R428) -/

/-- The hold ends. -/
def endHold (s : State) : State := { s with mgmt := { s.mgmt with hold := false } }
/-- The link drops: nothing more is fetched or placed, every gang's pre-emption is requested, and every peer is told. -/
def loseLink (s : State) : State :=
  if !s.mgmt.linkUp then s
  else
    let s := { s with mgmt := { s.mgmt with linkUp := false } }
    if !s.mgmt.ready then s
    else
      State.emit
        { s with
          mgmt := { s.mgmt with hold := true, lossAt := s.cyc }
          gangs := s.gangs.map fun g =>
            if g.failing then g else { g with preempt := some (g.preempt.getD s.cyc), noWithdraw := true } }
        .hostLoss
/-- A gang that was not discarded in time: discarded, or failed where it has sealed work. -/
def lossDiscard (s : State) (gid : Nat) : State :=
  match s.gang gid with
  | none => s
  | some g =>
    if s.mgmt.hold && decide (s.mgmt.lossAt + Config.tenMs ≤ s.cyc) then
      match (s.gangBanks g).find? fun x => ((s.core x.1).get x.2).sealedAny with
      | some x => (s.jobFail x.1 x.2 { code := 0x64, cls := 4, src := srcField x.1 7 }).failOver gid
      | none => s.discardGang g
    else s

/-! ### Thermal trips and the health word (R20, R429, R460, R461) -/

/-- What a temperature sensor shows. -/
def temp (s : State) (n : Nat) : Nat := tget 0 s.mgmt.temps n
/-- The sensors of a compute die: those of its clusters and its own (R460). -/
def dieSensors (d : Nat) : List Nat := (List.range 24).map (fun i => 24 * d + i) ++ [96 + d]
/-- The compute die whose sensor a number names. -/
def sensorDie (n : Nat) : Option Nat := if n < 96 then some (n / 24) else if n < 100 then some (n - 96) else none
/-- A sensor shows a new value; the tick is kept up to which a die's sensor has shown 95 °C or more (R460). -/
def sensorTurn (s : State) (n v : Nat) : State :=
  let m := { s.mgmt with temps := tset s.mgmt.temps n v }
  { s with mgmt :=
      match sensorDie n with
      | some d => if 95 ≤ max v (s.temp n) then { m with hotAt := tset m.hotAt d s.cyc } else m
      | none => m }
/-- Whether the hottest sensor of a die shows 105 °C or more. -/
def dieHot (s : State) (d : Nat) : Bool := (dieSensors d).any fun n => 105 ≤ s.temp n
/-- Whether every sensor of a die has shown less than 95 °C for 1,000,000 ticks. -/
def dieCool (s : State) (d : Nat) : Bool :=
  ((dieSensors d).all fun n => s.temp n < 95) && decide (tget 0 s.mgmt.hotAt d + Config.oneMs ≤ s.cyc)
/-- A thermal trip of a die begins or ends. -/
def setTrip (s : State) (die : BitVec 2) (on : Bool) : State :=
  let bit : BitVec 4 := 1 <<< die.toNat
  let t := if on then s.mgmt.trips ||| bit else s.mgmt.trips &&& ~~~bit
  if t = s.mgmt.trips then s else State.raise { s with mgmt := { s.mgmt with trips := t } } 0 17
/-- A new version of the health word is published. -/
def newHealth (s : State) (f : Health → Health) : State :=
  let h := f s.mgmt.health
  let h := { h with ver := h.ver + 1, hold := s.mgmt.hold, tbl := s.mgmt.tbl, trip := s.mgmt.trips, op := s.mgmt.opCur }
  State.raise { s with mgmt := { s.mgmt with health := h } } 0 17

end State

/-- A core's bit is set, with the replace request (R20). -/
def Health.fence (h : Health) (c : Nat) : Health := { h with rr := true, fenced := tset h.fenced c true }

namespace State

/-- What becomes of the job of a bank of a core that was fenced at once (R429). -/
def fenceJob (s : State) (c : Nat) (bankB : Bool) : State :=
  let b := (s.core c).get bankB
  if !b.busy then s
  else if b.sealedAny then s.jobFail c bankB { code := 0x62, cls := 4, src := srcField c 7 }
  else
    match s.gang b.job.gang with
    | some g => s.discardGang g
    | none => s.discardBank c bankB

/-- The power state of a memory channel: 0 active, 1 power-down, 2 self-refresh. -/
def setChan (s : State) (n st : Nat) : State := { s with mgmt := { s.mgmt with chans := tset s.mgmt.chans n st } }
/-- The ticks that a channel has been without a request. -/
def chanIdle (s : State) (n : Nat) : Nat := s.cyc - tget s.mgmt.chanFrom s.mgmt.chanReq n
/-- A channel enters a power state when it has been idle for a bound of ticks; it leaves one for a deeper one only (R281). -/
def enterChan (s : State) (n st : Nat) (bound : W32) : State :=
  if bound.toNat ≤ s.chanIdle n ∧ tget 0 s.mgmt.chans n < st then s.setChan n st else s
/-- A request reaches a channel, which is active from then on (R281). -/
def requestTurn (s : State) (n : Nat) : State :=
  { s with mgmt := { s.mgmt with chans := tset s.mgmt.chans n 0, chanReq := tset s.mgmt.chanReq n s.cyc } }

/-- An uncorrectable error in a core's anvil macros or scratch: the core is fenced at once, and what its banks hold is
discarded or fails (R20, R429). -/
def coreError (s : State) (c : Nat) : State := ((s.newHealth fun x => x.fence c).fenceJob c false).fenceJob c true
/-- A correctable error in them is corrected and logged, and does not fence the core (R429). -/
def coreCorrected (s : State) (a : Nat) : State := s.depositSev 1 10 0 (BitVec.ofNat 64 a)
/-- An uncorrectable error befalls a 64-byte unit of memory; one in a core's scratch is that core's (R283, R429). -/
def memErrorTurn (s : State) (a : Nat) : State := if inWindow a then s.coreError (windowCore a) else s.badUnit a

end State

/-! ### The events -/

/-- A function-level reset is requested (R425): of the physical function with every virtual one. -/
def execFunctionLevelReset (c : CtxId) (s : State) : Answer :=
  .next (if !s.mgmt.ready then s else (State.resetSet c).foldl State.resetFn s)
/-- A function-level reset completes (R425). -/
def execFunctionLevelResetDone (c : CtxId) (s : State) : Answer := .next (s.endFnReset c)
/-- A module reset begins (R458). -/
def execModuleReset (s : State) : Answer := .next s.resetNow
/-- A module reset completes (R458). -/
def execModuleResetDone (s : State) : Answer := .next s.resetDone
/-- The host link drops (R428). -/
def execHostLinkLoss (s : State) : Answer := .next s.loseLink
/-- The 10,000,000 ticks of a gang are over (R428). -/
def execHostLossDiscardTimeout (g : Nat) (s : State) : Answer := .next (s.lossDiscard g)
/-- The host link returns (R428). -/
def execHostLinkReturn (s : State) : Answer := .next { s with mgmt := { s.mgmt with linkUp := true } }
/-- A thermal trip begins: the hottest sensor of the die shows 105 °C or more (R16, R460). -/
def execThermalTrip (die : BitVec 2) (s : State) : Answer := .next (if s.dieHot die.toNat then s.setTrip die true else s)
/-- A thermal trip ends: every sensor of the die has shown less than 95 °C for 1,000,000 ticks (R16, R460). -/
def execThermalTripEnd (die : BitVec 2) (s : State) : Answer := .next (if s.dieCool die.toNat then s.setTrip die false else s)
/-- The operating point changes (R21). -/
def execOperatingPointChange (s : State) : Answer := .next s.changeOp
/-- The management plane writes a new version of the health word (R20). -/
def execHealthWordUpdate (h : HealthChange) (s : State) : Answer :=
  .next (s.newHealth (match h with
    | .fence c => fun x => x.fence c.val
    | .replace => fun x => { x with rr := true }
    | .publish => fun x => x))
/-- An uncorrectable error in a core's anvil macros or scratch (R429): the core is fenced at once. -/
def execCoreMemoryError (c : CoreId) (s : State) : Answer :=
  .next (s.coreError c.val)
/-- An on-die check finds an error during refresh (R282). -/
def execRefreshErrorFound (addr : BitVec 45) (uncorrected : Bool) (s : State) : Answer :=
  .next (State.depositSev (if uncorrected then s.memErrorTurn addr.toNat else s) 0 4 (if uncorrected then 1 else 0) (zext addr))
/-- A channel enters power-down (R281). -/
def execPowerDownEntry (chan : Nat) (s : State) : Answer := .next (s.enterChan chan 1 s.mgmt.pdidle)
/-- A channel enters self-refresh (R281). -/
def execSelfRefreshEntry (chan : Nat) (s : State) : Answer := .next (s.enterChan chan 2 s.mgmt.sridle)
/-- Module power is lost (R465). -/
def execPowerLoss (s : State) : Answer := .next s.losePower

end Sys2Proof.Machine
end

