-- ==== Sys2Proof/Machine/HostRegs.lean ====
section
/-! DEFINITION.  The register pages as the host's driver writes and reads them (R245, R259, R269, R270, R406, R424, R434,
R435, R439, R453, R454, R456, R457, R459), and the instruction memories (R411). -/

namespace Sys2Proof.Machine

namespace State

/-- The device takes writes to context pages (R458). -/
def pagesOpen (s : State) (k : State) : State := if s.mgmt.ready then k else s
/-- The control and data planes answer: the module is not in recovery (R464). -/
def planesUp (s : State) (k : State) : State := if s.mgmt.recovery then s else k
/-- What a read returns to the host (entry 19). -/
def answer (s : State) (ws : List Word) : State := s.emit (.answer ws)

/-! ### Queues (R245, R406) -/

/-- A size field that keeps its value unless the new one is from 4 to 16. -/
def log2Field (old new : BitVec 5) : BitVec 5 := if 4 ≤ new.toNat ∧ new.toNat ≤ 16 then new else old
/-- A write of `SQCTL`. -/
def writeSqctl (s : State) (c : CtxId) (q : BitVec 4) (v : Word) : State :=
  s.modSq c q fun x =>
    let y := if x.en then x else { x with prio := fld v 0 4, log2n := log2Field x.log2n (fld v 4 5) }
    let y := if v.getLsbD 10 then { y with err := false } else y
    if !v.getLsbD 9 then { y with en := false }
    else if x.en then y
    else if x.base.toNat % 64 ≠ 0 then { y with err := true }
    else { y with en := true, head := 0, tail := 0 }
/-- A write of `FQCTL`. -/
def writeFqctl (s : State) (c : CtxId) (v : Word) : State :=
  s.modCtx c fun x =>
    let y := { x with fqint := v.getLsbD 6, fqlog2n := if x.fqen then x.fqlog2n else log2Field x.fqlog2n (fld v 0 5) }
    if !v.getLsbD 5 then { y with fqen := false }
    else if x.fqen ∨ x.fqbase.toNat % 64 ≠ 0 then y
    else { y with fqen := true, fqtail := 0 }

end State

/-- `FQCTL` as it reads. -/
def Ctx.fqctl (x : Ctx) : Word :=
  zext x.fqlog2n ||| (boolWord x.fqen <<< 5) ||| (boolWord x.fqint <<< 6) ||| (zext x.fqovf <<< 16)

namespace State

/-- A read of `FQCTL`: OVF is cleared. -/
def readFqctl (s : State) (c : CtxId) : State :=
  (s.answer [(s.ctx c).fqctl]).modCtx c fun x => { x with fqovf := 0 }

/-! ### The answer to a page fault (R424) -/

/-- The faulting handle of a waiting bank becomes PENDING, its walk begins, and the bank is READY. -/
def answerFault (s : State) (core : Nat) (bankB : Bool) (p : PfWait) : State :=
  let (id, s) := s.fresh
  let s := s.modCore core fun k =>
    let b := k.get bankB
    let t := b.get p.eng
    let o := tget {} t.horig p.hreg.toNat
    let x : Xlate :=
      { id := id, hreg := p.hreg, greg := 0, ptr := o.ptr, need := o.need, bperm := o.bperm, at_ := s.cycles, walking := true
        pf := some (p.pc, p.word)
        invs := (s.invals.filter fun v => v.ctx = b.job.ctx).map (·.rule) }
    let t := { t with h := tset t.h p.hreg.toNat (setFld (t.rh p.hreg) 1 2 1), xlates := t.xlates ++ [x] }
    k.set bankB { b.set p.eng t with st := .ready, pf := none, readySince := s.cyc }
  s.resumeReady core
/-- A write of `FQRESUME`. -/
def resumeFault (s : State) (c : CtxId) (v : Word) : State :=
  let core := (fld v 16 9).toNat
  let names := fun (b : Bank) =>
    b.st = .wait && b.job.ctx = c && b.pf.any fun p => p.posted && p.seq = fld v 0 16
  if (s.ctx c).reset.isSome then s
  else
    match s.bankWhere core names with
    | none => s
    | some bankB =>
      match ((s.core core).get bankB).pf with
      | none => s
      | some p => s.answerFault core bankB p

/-! ### Kits (R457) -/

/-- KITSTAT of an outcome. -/
def setKitstat (s : State) (c : CtxId) (v : BitVec 4) : State := s.modCtx c fun x => { x with kitstat := v, kitPend := none }
/-- A kit is to be registered: BUSY, until its image has been placed in every outpost. -/
def registerKit (s : State) (c : CtxId) (ptr : Word) : State :=
  if (s.ctx c).kitPend.isSome then s else s.modCtx c fun x => { x with kitstat := 1, kitPend := some ptr }
/-- Its registration finishes: OK, FULL or BAD. -/
def endRegister (s : State) (c : CtxId) : State :=
  match (s.ctx c).kitPend with
  | none => s
  | some ptr =>
    let s := s.kitNote c ptr
    match s.readOutpostImage c ptr with
    | none => s.setKitstat c 8
    | some (code, entries) =>
      let others := s.kits.filter fun k => !(k.ctx = c && k.ptr = ptr)
      let has := (s.kitHeader c ptr).any fun h => (kitImage h 4).len ≠ 0
      if !has then State.setKitstat { s with kits := others } c 2
      else if 16 ≤ others.length then s.setKitstat c 4
      else
        State.setKitstat
          { s with kits := others ++ [{ ctx := c, ptr := ptr, code := code, entries := entries, ready := true }] } c 2
/-- A kit is unregistered; a call that runs in it keeps its code (R457). -/
def unregisterKit (s : State) (c : CtxId) (ptr : Word) : State :=
  if (s.ctx c).kitPend.isSome then s
  else
    State.setKitstat { s with kits := s.kits.filter fun k => !(k.ctx = c && k.ptr = ptr) } c
      (if s.kits.any fun k => k.ctx = c && k.ptr = ptr then 2 else 8)

/-! ### Invalidation and export (R274, R439) -/

/-- The driver's invalidation of a context is not complete. -/
def invBusy (s : State) (c : CtxId) : Bool := s.invals.any fun v => v.ctx = c && v.driver
/-- A write of `INVCTL`. -/
def writeInvctl (s : State) (c : CtxId) (v : Word) : State :=
  if s.invBusy c then s
  else
    let x := s.ctx c
    let m := (fld v 0 2).toNat
    let rule : InvMatch :=
      if m = 0 then .all else if m = 1 then .rid (fld v 2 7) else .range (m = 3) x.invbase.toNat x.invlen.toNat
    let s := s.modCtx c fun x => { x with inv := v &&& 0x1FF }
    if v.getLsbD 62 then
      let r := s.invalidate c rule
      { r.2 with invals := r.2.invals.map fun (y : Inval) => if y.id = r.1 then { y with driver := true } else y }
    else s
/-- A write of `EXRESUME`: the owner walks again for the tickets of the window page. -/
def resumeExport (s : State) (c : CtxId) (v : Word) : State :=
  { s with tickets := s.tickets.map fun t =>
      if t.ctx = c && (fld v 36 9).toNat = c.val && t.page = fld v 12 24 && !t.noticed then { t with walking := true } else t }

/-! ### The device block (R456) -/

/-- A write of `DEVCTL`. -/
def holdClear (s : State) : State := if s.mgmt.linkUp then s.endHold else s
/-- A write of `EBMAX` (R259). -/
def writeEbmax (s : State) (v : Word) : State :=
  let m : W32 := fld v 0 32
  { s with mgmt := { s.mgmt with ebmax := m, ebbal := clampBal s.mgmt.ebbal m } }
/-- A log is selected. -/
def selectLog (s : State) (v : Word) : State := { s with mgmt := { s.mgmt with logSel := fld v 0 2 } }

end State

/-- An entry as it is drained, in four words, with the overflow count (R462). -/
def LogEntry.words (e : LogEntry) (lost : BitVec 16) : List Word :=
  let bytes := natBytes 8 e.cyc.toNat ++ natBytes 2 e.unit.toNat ++ [e.severity, e.cause] ++ natBytes 8 e.addr.toNat ++
    natBytes 10 e.detail.toNat ++ natBytes 2 lost.toNat
  (List.range 4).map fun i => BitVec.ofNat 64 (leNat ((bytes.drop (8 * i)).take 8))

namespace State

/-- The oldest entry of a log is drained (R23, R462): its words, zeros where the log is empty. -/
def drainLog (s : State) (n : Nat) : List Word × State :=
  let l := tget {} s.mgmt.logs n
  match l.entries with
  | [] => ([0, 0, 0, 0], s)
  | e :: es => (e.words l.overflow, { s with mgmt := { s.mgmt with logs := tset s.mgmt.logs n { entries := es, overflow := 0 } } })
/-- An 8-byte read of `LOGRD` at 0x200. -/
def readLogrd (s : State) : State :=
  let r := s.drainLog s.mgmt.logSel.toNat
  State.answer { r.2 with mgmt := { r.2.mgmt with logLast := r.1 } } (r.1.take 1)

/-! ### Registers without a row of their own (R4, R454, R456) -/

/-- A half of a bounds entry: bits 63:0 or 127:64 (R269). -/
def writeBound (s : State) (c : CtxId) (i : Nat) (high : Bool) (v : Word) : State :=
  s.modCtx c fun x =>
    let b := tget 0 x.bounds i
    let b := if high then setFld b 64 64 (v &&& 0x01FFFFFFFFFFF000#64) else setFld b 0 64 (v &&& 0x01FFFFFFFFFFF00F#64)
    { x with bounds := if b = 0 then tdel x.bounds i else tset x.bounds i b }
/-- A 64-bit write to a context page; bytes that R454 does not name, and read-only registers, ignore it. -/
def writePage (s : State) (c : CtxId) (off : Nat) (v : Word) : State :=
  let page (f : Ctx → Ctx) : State := s.modCtx c f
  if off < 0x200 then
    let q : BitVec 4 := BitVec.ofNat 4 (off / 32)
    if off % 32 = 0 then s.modSq c q fun x => if x.en then x else { x with base := v }
    else if off % 32 = 8 then s.writeSqctl c q v
    else s
  else if off = 0x200 then page fun x => if x.fqen then x else { x with fqbase := v }
  else if off = 0x208 then s.writeFqctl c v
  else if off = 0x210 then page fun x => { x with fqhead := fld v 0 32 }
  else if off = 0x220 then s.resumeFault c v
  else if off = 0x300 then page fun x => { x with ttroot := v &&& 0x1FFFFFFFF000#64 }
  else if off = 0x310 then page fun x => { x with spqbase := v &&& ~~~0x3F#64 }
  else if off = 0x318 then page fun x => { x with spqlog2n := log2Field x.spqlog2n (fld v 0 5) }
  else if off = 0x320 then page fun x => { x with ckbase := v &&& ~~~0x3FF#64 }
  else if off = 0x328 then page fun x => { x with ckcnt := fld v 0 16 }
  else if off = 0x330 then
    if v.getLsbD 0 then s.unregisterKit c (v - 1) else s.registerKit c v
  else if off = 0x340 then s.writeInvctl c v
  else if off = 0x348 then page fun x => { x with invbase := v }
  else if off = 0x350 then page fun x => { x with invlen := v }
  else if off = 0x400 then page fun x => { x with exroot := v &&& 0x1FFFFFFFF000#64 }
  else if off = 0x408 then page fun x => { x with exctl := v &&& 0x1FFFFFF#64 }
  else if off = 0x410 then s.resumeExport c v
  else if 0x800 ≤ off ∧ off < 0x1000 ∧ off % 8 = 0 then s.writeBound c ((off - 0x800) / 16) (off % 16 = 8) v
  else s
/-- A 64-bit write to the device register block. -/
def writeDevice (s : State) (off : Nat) (v : Word) : State :=
  let w : W32 := fld v 0 32
  if off = 0 then
    let t := { s with mgmt := { s.mgmt with peerid := fld v 0 13 } }
    if v.getLsbD 12 && !s.mgmt.peerid.getLsbD 12 then t.takeFabricTime else t
  else if off = 0x10 then s.writeOp (fld v 0 2)
  else if off = 0x20 then
    let s := if v.getLsbD 1 then s.holdClear else s
    if v.getLsbD 0 then s.resetNow else s
  else if 0x40 ≤ off ∧ off < 0x60 ∧ off % 8 = 0 then { s with mgmt := { s.mgmt with ebenv := tset s.mgmt.ebenv ((off - 0x40) / 8) w } }
  else if off = 0x60 then s.writeEbmax v
  else if 0x68 ≤ off ∧ off < 0xA0 ∧ off % 8 = 0 then
    { s with mgmt := { s.mgmt with ebcls := tset s.mgmt.ebcls ((off - 0x68) / 8 + 1) w } }
  else if off = 0xC0 then { s with mgmt := { s.mgmt with pdidle := w } }
  else if off = 0xC8 then { s with mgmt := { s.mgmt with sridle := w } }
  else if off = 0x200 then s.selectLog v
  else s

/-- A half of a bounds entry as it reads. -/
def readBound (s : State) (c : CtxId) (i : Nat) (high : Bool) : Word :=
  let b := tget 0 (s.ctx c).bounds i
  if high then fld b 64 64 else fld b 0 64
/-- What an aligned 64-bit read of a context page returns (R454): reserved bits, write-only registers and bytes that no
register holds read as 0. -/
def pageWord (s : State) (c : CtxId) (off : Nat) : Word :=
  let x := s.ctx c
  if off < 0x200 then
    let q := s.sq c (BitVec.ofNat 4 (off / 32))
    if off % 32 = 0 then q.base
    else if off % 32 = 8 then
      zext q.prio ||| (zext q.log2n <<< 4) ||| (boolWord q.en <<< 9) ||| (boolWord q.err <<< 10)
    else if off % 32 = 16 then zext q.head
    else 0
  else if off = 0x200 then x.fqbase
  else if off = 0x208 then x.fqctl
  else if off = 0x210 then zext x.fqhead
  else if off = 0x218 then zext x.fqtail
  else if off = 0x300 then x.ttroot
  else if off = 0x310 then x.spqbase
  else if off = 0x318 then zext x.spqlog2n
  else if off = 0x320 then x.ckbase
  else if off = 0x328 then zext x.ckcnt
  else if off = 0x338 then zext x.kitstat
  else if off = 0x340 then x.inv ||| (boolWord (s.invBusy c) <<< 63)
  else if off = 0x348 then x.invbase
  else if off = 0x350 then x.invlen
  else if off = 0x400 then x.exroot
  else if off = 0x408 then x.exctl
  else if 0x800 ≤ off ∧ off < 0x1000 ∧ off % 8 = 0 then s.readBound c ((off - 0x800) / 16) (off % 16 = 8)
  else 0
/-- EBCLS of an energy class (R259). -/
def ebcls (s : State) (n : Nat) : W32 := tget (BitVec.ofNat 32 (100000 * n)) s.mgmt.ebcls n
/-- What an aligned 64-bit read of the device register block returns (R456, R24, R461). -/
def deviceWord (s : State) (off : Nat) : Word :=
  let m := s.mgmt
  let energy := fun (n : Nat) => tget 0 m.energy n
  if off % 8 ≠ 0 then 0
  else if off = 0 then zext m.peerid
  else if off = 0x10 then zext m.opReq ||| (zext m.opCur <<< 2) ||| (boolWord m.opBusy <<< 4)
  else if off = 0x28 then boolWord m.ready ||| (boolWord m.hold <<< 1) ||| (boolWord m.recovery <<< 2) ||| (zext m.trips <<< 8)
  else if 0x40 ≤ off ∧ off < 0x60 then zext (s.ebenv (BitVec.ofNat 2 ((off - 0x40) / 8)))
  else if off = 0x60 then zext m.ebmax
  else if 0x68 ≤ off ∧ off < 0xA0 then zext (s.ebcls ((off - 0x68) / 8 + 1))
  else if off = 0xA0 then BitVec.ofInt 64 m.ebbal
  else if off = 0xC0 then zext m.pdidle
  else if off = 0xC8 then zext m.sridle
  else if 0x100 ≤ off ∧ off < 0x140 then m.health.words.getD ((off - 0x100) / 8) 0
  else if 0x208 ≤ off ∧ off < 0x220 then m.logLast.getD ((off - 0x200) / 8) 0
  else if off = 0x300 then energy energyModule
  else if 0x400 ≤ off ∧ off < 0x700 then energy (1 + (off - 0x400) / 8)
  else if 0x700 ≤ off ∧ off < 0x760 then energy (97 + (off - 0x700) / 8)
  else if 0x780 ≤ off ∧ off < 0x790 then energy (109 + (off - 0x780) / 8)
  else 0
/-- The host reads a register; a read of `FQCTL` or at the first word of `LOGRD` acts as its own event does. -/
def hostRead (s : State) (p : RegPage) (off : Nat) : State :=
  s.planesUp (match p with
    | .ctx c => if off = 0x208 then s.readFqctl c else s.answer [s.pageWord c off]
    | .device => if off = 0x200 then s.readLogrd else s.answer [s.deviceWord off])

/-- A 64-bit write to a register of a page (R4). -/
def writeReg (s : State) (p : RegPage) (off : Nat) (v : Word) : State :=
  match p with
  | .ctx c => s.pagesOpen (s.writePage c off v)
  | .device => s.planesUp (s.writeDevice off v)

/-! ### The physical map of the registers (R453) -/

/-- The register page that an address of the device-register range lies in, with the offset. -/
def physPage (a : Nat) : Option (RegPage × Nat) :=
  let d := a - 0x1F0000000000
  if a < 0x1F0000000000 then none
  else if h : d / 0x10000 < 385 then some (.ctx ⟨d / 0x10000, h⟩, d % 0x10000)
  else if 0x80000000 ≤ d ∧ d < 0x80010000 then some (.device, d - 0x80000000)
  else none
/-- The host writes bytes at a physical address: a register, eight bytes at a multiple of 8, or memory; at an unmapped address
they are dropped (R453, entry 67). -/
def hostWriteTurn (s : State) (a : Nat) (bs : List Byte) : State :=
  match physPage a with
  | some (p, off) => if bs.length = 8 ∧ a % 8 = 0 then s.writeReg p off (BitVec.ofNat 64 (leNat bs)) else s
  | none => s.planesUp (s.hostStore a bs)
/-- The host reads eight bytes at a physical address: a register, or memory; an unmapped byte reads as 0 (R453).  A read that
finds an uncorrectable error delivers nothing (R283). -/
def hostLoadTurn (s : State) (a : Nat) : State :=
  match physPage a with
  | some (p, off) => s.hostRead p off
  | none =>
    s.planesUp (if s.eccHit a 8 then (s.depositSev 0 4 1 (BitVec.ofNat 64 a)).answer []
      else
        let bytes := (List.range 8).map fun i => if mapped (a + i) then s.readByte Party.host .sc (a + i) else 0
        (s.ask [(a, 8)]).answer [BitVec.ofNat 64 (leNat bytes)])

/-! ### Instruction memories (R411, R140) -/

/-- The size of an engine's instruction memory. -/
def imemBytes (e : Eng) : Nat := if e = .ce then 0x10000 else 0x8000
/-- A 32-bit word of an instruction memory of a core that holds no job is written. -/
def putImem (s : State) (c : Nat) (e : Eng) (a : Nat) (v : W32) : State :=
  let f := fun (t : Stream) => { t with imem := t.imem.writeN a (natBytes 4 v.toNat) }
  if a + 4 ≤ imemBytes e then s.modCore c fun k => { k with a := k.a.mod e f, b := k.b.mod e f } else s
/-- A write to a stream's instruction memory. -/
def writeImem (s : State) (w : ImemWriter) (c : Nat) (e : Eng) (a : Nat) (v : W32) : State :=
  let k := s.core c
  if k.a.busy || k.b.busy then
    match w with
    | .host => s.depositKind 1 7 (BitVec.ofNat 64 a)
    | .stream c' e' => if s.mayIssue c'.val e' then State.trap { s with cur := .eng c'.val e' } 0x0A (BitVec.ofNat 64 a) else s
  else s.putImem c e a v

end State

/-! ### The events -/

/-- A write of `SQCTL` (R245). -/
def execSqctlWrite (c : CtxId) (q : BitVec 4) (v : Word) (s : State) : Answer := .next (s.pagesOpen (s.writeSqctl c q v))
/-- A write of `FQCTL` (R406). -/
def execFqctlWrite (c : CtxId) (v : Word) (s : State) : Answer := .next (s.pagesOpen (s.writeFqctl c v))
/-- A read of `FQCTL` (R406). -/
def execFqctlRead (c : CtxId) (s : State) : Answer := .next (s.planesUp (s.readFqctl c))
/-- A write of `FQRESUME` (R424). -/
def execFqresume (c : CtxId) (v : Word) (s : State) : Answer := .next (s.pagesOpen (s.resumeFault c v))
/-- A write of a kit pointer to `KITREG` (R457). -/
def execKitregRegister (c : CtxId) (ptr : Word) (s : State) : Answer := .next (s.pagesOpen (s.registerKit c ptr))
/-- A write of a kit pointer plus 1 to `KITREG` (R457). -/
def execKitregUnregister (c : CtxId) (ptr : Word) (s : State) : Answer := .next (s.pagesOpen (s.unregisterKit c ptr))
/-- The registration of a kit finishes (R457). -/
def execKitRegistrationDone (c : CtxId) (s : State) : Answer := .next (s.endRegister c)
/-- A write of `INVCTL` (R454). -/
def execInvctlGo (c : CtxId) (v : Word) (s : State) : Answer := .next (s.pagesOpen (s.writeInvctl c v))
/-- A write of `EXRESUME` (R439). -/
def execExresume (c : CtxId) (v : Word) (s : State) : Answer := .next (s.pagesOpen (s.resumeExport c v))
/-- `DEVCTL.MRST` (R456). -/
def execDevctlMrst (s : State) : Answer := .next (s.planesUp s.resetNow)
/-- `DEVCTL.HOLDCLR` (R456). -/
def execDevctlHoldclr (s : State) : Answer := .next (s.planesUp s.holdClear)
/-- A write of `OPCTL` (R459). -/
def execOpctlWrite (v : Word) (s : State) : Answer := .next (s.planesUp (s.writeOp (fld v 0 2)))
/-- A write of `EBMAX` (R259). -/
def execEbmaxWrite (v : Word) (s : State) : Answer := .next (s.planesUp (s.writeEbmax v))
/-- A write of `LOGRD` (R456). -/
def execLogrdSelect (v : Word) (s : State) : Answer := .next (s.planesUp (s.selectLog v))
/-- A read of `LOGRD` (R456, R462). -/
def execLogrdDrain (s : State) : Answer := .next (s.planesUp s.readLogrd)
/-- A write to an instruction memory (R411). -/
def execInstructionMemoryWrite (w : ImemWriter) (c : CoreId) (e : Eng) (addr : BitVec 16) (v : W32) (s : State) : Answer :=
  .next (s.planesUp (s.writeImem w c.val e addr.toNat v))
/-- A write to another register (R4). -/
def execRegisterWrite (p : RegPage) (off : BitVec 16) (v : Word) (s : State) : Answer :=
  .next (s.writeReg p off.toNat v)

end Sys2Proof.Machine
end

