-- ==== Sys2Proof/Machine/Keccak.lean ====
section
/-! DEFINITION.  SHAKE256 as FIPS 202 defines it, by which the device measures its firmware (R464). -/

namespace Sys2Proof.Machine.Keccak

/-- A lane of the state. -/
abbrev Lane := BitVec 64
/-- Lane (x, y) of a state, which stands at 5y + x. -/
def lane (a : List Lane) (x y : Nat) : Lane := a.getD (5 * (y % 5) + x % 5) 0
/-- A state from its lanes. -/
def lanes (f : Nat → Nat → Lane) : List Lane := (List.range 25).map fun i => f (i % 5) (i / 5)
/-- The step θ. -/
def theta (a : List Lane) : List Lane :=
  let c := (List.range 5).map fun x => lane a x 0 ^^^ lane a x 1 ^^^ lane a x 2 ^^^ lane a x 3 ^^^ lane a x 4
  let d := (List.range 5).map fun x => c.getD ((x + 4) % 5) 0 ^^^ (c.getD ((x + 1) % 5) 0).rotateLeft 1
  lanes fun x y => lane a x y ^^^ d.getD x 0
/-- The rotations of the step ρ, by the place of the lane. -/
def offsets : List Nat := [0, 1, 62, 28, 27, 36, 44, 6, 55, 20, 3, 10, 43, 25, 39, 41, 45, 15, 21, 8, 18, 2, 61, 56, 14]
/-- The steps ρ and π. -/
def rhoPi (a : List Lane) : List Lane :=
  lanes fun x y => (lane a (x + 3 * y) x).rotateLeft (offsets.getD (5 * x + (x + 3 * y) % 5) 0)
/-- The step χ. -/
def chi (a : List Lane) : List Lane := lanes fun x y => lane a x y ^^^ (~~~lane a (x + 1) y &&& lane a (x + 2) y)
/-- The constants of the step ι. -/
def constants : List Lane :=
  [0x0000000000000001, 0x0000000000008082, 0x800000000000808A, 0x8000000080008000, 0x000000000000808B, 0x0000000080000001
   , 0x8000000080008081, 0x8000000000008009, 0x000000000000008A, 0x0000000000000088, 0x0000000080008009, 0x000000008000000A
   , 0x000000008000808B, 0x800000000000008B, 0x8000000000008089, 0x8000000000008003, 0x8000000000008002, 0x8000000000000080
   , 0x000000000000800A, 0x800000008000000A, 0x8000000080008081, 0x8000000000008080, 0x0000000080000001, 0x8000000080008008]
/-- One round. -/
def round (a : List Lane) (rc : Lane) : List Lane :=
  match chi (rhoPi (theta a)) with
  | [] => []
  | x :: xs => (x ^^^ rc) :: xs
/-- The permutation. -/
def permute (a : List Lane) : List Lane := constants.foldl round a
/-- A block of 136 bytes is absorbed. -/
def absorb (a : List Lane) (block : List Byte) : List Lane :=
  permute (a.zipIdx.map fun x => x.1 ^^^ BitVec.ofNat 64 (leNat ((block.drop (8 * x.2)).take 8)))
/-- A message with its suffix and padding, by the number of its last blocks' bytes. -/
def pad (m : List Byte) : List Byte :=
  let k := 136 - m.length % 136
  if k = 1 then m ++ [0x9F] else m ++ [0x1F] ++ List.replicate (k - 2) 0 ++ [0x80]
/-- The first bytes of the output of SHAKE256, at most 136. -/
def shake256 (m : List Byte) (n : Nat) : List Byte :=
  let p := pad m
  let a := (List.range (p.length / 136)).foldl (fun a i => absorb a ((p.drop (136 * i)).take 136)) (List.replicate 25 0)
  (a.flatMap fun x => natBytes 8 x.toNat).take n

end Sys2Proof.Machine.Keccak
end

