-- ==== Sys2Proof/Machine/Lantern.lean ====
section
/-! DEFINITION.  The lantern port (R19, R463 to R465) and the time base (R443): what the management plane answers and
does, whatever state the other planes are in. -/

namespace Sys2Proof.Machine

namespace State

/-- Every energy counter: the module's, 96 clusters', 12 stacks' and two I/O dies' (R24). -/
def energyWords (s : State) : List Word := (List.range 111).map fun n => tget 0 s.mgmt.energy n
/-- Whether the signature of an image verifies under a public key whose SHAKE256 digest is the one fused (R464). -/
def imageVerifies (image key signature : List Byte) : Bool :=
  Keccak.shake256 key 64 == Config.fusedKey && Config.slhDsaVerifies key image signature
/-- A firmware image is written over the old one; one that is complete is verified, and success reported (R464, R465). -/
def writeFirmware (s : State) (image key signature : List Byte) (complete : Bool) : State :=
  let f := s.mgmt.fw
  let verifies := imageVerifies image key signature
  let svn := Config.imageSvn image
  let ok := complete && verifies && f.minSvn.ule svn
  let s := { s with mgmt := { s.mgmt with
    fw := { f with digest := BitVec.ofNat 512 (leNat (Keccak.shake256 image 64)), svn := svn, good := complete && verifies
                   writing := !complete } } }
  if complete then s.answer [boolWord ok] else s
/-- The two measurements of the admitted image: its digest in eight words, lowest bytes first, and its SVN (R464). -/
def measurements (s : State) : List Word :=
  ((List.range 8).map fun i => fld s.mgmt.fw.admDigest (64 * i) 64) ++ [zext s.mgmt.fw.admSvn]

/-- An SPDM response: the measurements with their signature under SLH-DSA-SHAKE-256f, whose 49,856 bytes are free values (R464,
entry 70). -/
def attest (s : State) : State :=
  let ms := s.measurements
  (s.answer (ms ++ (List.range 6232).map (Config.spdmSignature s.freeCtr ms))).takeFree

end State

/-- The number of the sensor that a read names. -/
def sensorNo : Sensor → Nat
  | .cluster n => n
  | .die n => 96 + n
  | .stack n => 102 + n
  | .inputPower => 114
/-- A PLDM sensor read (R460, R463): what the sensor shows. -/
def execSensorRead (x : Sensor) (s : State) : Answer := .next (s.answer [BitVec.ofNat 64 (s.temp (sensorNo x))])
/-- A PLDM firmware update, or the part of one that has been written (R465). -/
def execFirmwareUpdate (image key signature : List Byte) (complete : Bool) (s : State) : Answer :=
  .next (s.writeFirmware image key signature complete)
/-- SPDM attestation (R464). -/
def execAttestation (s : State) : Answer := .next s.attest
/-- GET_HEALTH (R463). -/
def execGetHealth (s : State) : Answer := .next (s.answer s.mgmt.health.words)
/-- READ_LOG (R462). -/
def execReadLog (n : BitVec 2) (s : State) : Answer := .next ((s.drainLog n.toNat).2.answer (s.drainLog n.toNat).1)
/-- RESET_MODULE (R463). -/
def execResetModule (s : State) : Answer := .next s.resetNow
/-- RELEASE_HOLD (R463). -/
def execReleaseHold (s : State) : Answer := .next s.endHold
/-- READ_ENERGY (R463). -/
def execReadEnergy (s : State) : Answer := .next (s.answer s.energyWords)
/-- The time base is locked, or not (R443). -/
def execTimeBaseLock (locked : Bool) (s : State) : Answer := .next { s with mgmt := { s.mgmt with tbl := locked } }

end Sys2Proof.Machine
end

