-- ==== Sys2Proof/Machine/LoadStore.lean ====
section
/-! DEFINITION.  Scalar loads, stores and spills of the shared control subset (R117 to R121), with acquire and
release (R378, R379).  An outpost rejects the handle forms (R139). -/

namespace Sys2Proof.Machine

namespace State

/-- The handle form of an instruction of a streamed engine. -/
def handleForm (s : State) (e : End) : End := if s.inOutpost then .trapped s.illegal else e

/-- A load from one of the two forms of `LD.AQ` (R120). -/
def loadForm (s : State) (d a : GReg) (imm : Word) (sz : BitVec 3) (hf : Bool) (h : HReg) : End :=
  if hf then s.handleForm (s.loadHandle d h sz (s.handleOff a imm) true)
  else s.loadLocal d sz (s.scratchAddr a imm) true

/-- The address that `LD.AQ` reads in this package. -/
def acqAddr (s : State) (a : GReg) (imm : Word) (hf : Bool) (h : HReg) : Nat :=
  if hf then handlePhys (s.h h) (s.handleOff a imm) else s.scratchPhys (s.scratchAddr a imm)
/-- Whether an acquire at a scope that reads bytes orders what follows: not where the write that it reads was made by a
party outside the stream's instance of the scope (R379). -/
def acqOrders (s : State) (a n scope : Nat) : Bool :=
  (List.range n).all fun i =>
    (s.buf.any fun w => w.party = s.party && w.path = s.ownPath && (w.byteAt (a + i)).isSome) ||
      match s.log.find? fun w => w.visTo s.party s.ownPath && (w.byteAt (a + i)).isSome with
      | some w => s.party.reach w.party ≤ scope + 1
      | none => true
/-- What a stream has read ahead is read again. -/
def dropAhead (s : State) : State := if s.me.pre.isEmpty then s else s.modMe fun t => { t with pre := [] }

/-- The checks of the access of `ST.RL` (R120). -/
def storeChk (s : State) (a : GReg) (imm : Word) (sz : BitVec 3) (hf : Bool) (h : HReg) : Chk :=
  if hf then s.chkHandle h (s.handleOff a imm) (sizeBytes sz) (sizeBytes sz) 2
  else s.chkScratch (s.scratchAddr a imm) (sizeBytes sz) (sizeBytes sz)
/-- The store of `ST.RL` once it has passed its checks. -/
def storeForm (s : State) (d a : GReg) (imm : Word) (sz : BitVec 3) (hf : Bool) (h : HReg) : End :=
  if hf then s.storeHandle d h sz (s.handleOff a imm) else s.storeLocal d sz (s.scratchAddr a imm)

end State

/-- `LD` (R117). -/
def execLd (d a : GReg) (imm : BitVec 10) (sz : BitVec 3) (s : State) : Answer :=
  .next (State.ends 4 (s.loadLocal d sz (s.scratchAddr a (sext imm))))
/-- `ST` (R117). -/
def execSt (d a : GReg) (imm : BitVec 10) (sz : BitVec 3) (s : State) : Answer :=
  .next (State.ends 4 (s.storeLocal d sz (s.scratchAddr a (sext imm))))
/-- `LD` through a handle (R118). -/
def execLdHandle (d a : GReg) (h : HReg) (imm : BitVec 5) (sz : BitVec 3) (s : State) : Answer :=
  .next (State.ends 4 (s.handleForm (s.loadHandle d h sz (s.handleOff a (sext imm)))))
/-- `ST` through a handle (R118). -/
def execStHandle (d a : GReg) (h : HReg) (imm : BitVec 5) (sz : BitVec 3) (s : State) : Answer :=
  .next (State.ends 4 (s.handleForm (s.storeHandle d h sz (s.handleOff a (sext imm)))))
/-- `SPL` (R121): the value extended as R119 says. -/
def execSpl (d : GReg) (sz : BitVec 3) (off : BitVec 12) (s : State) : Answer :=
  s.put 4 d (extendLoad sz (s.me.spill.readN off.toNat (sizeBytes sz)))
/-- `SPS` (R121). -/
def execSps (d : GReg) (sz : BitVec 3) (off : BitVec 12) (s : State) : Answer :=
  .next (State.ends 4 (.done (s.modMe fun t =>
    { t with spill := t.spill.writeN off.toNat (natBytes (sizeBytes sz) (s.g d).toNat) })))
/-- `LD.AQ` (R120, R379): no access of the stream that follows is performed before it has read, but for an acquire that
orders nothing. -/
def execLdAq (d a : GReg) (imm : BitVec 13) (sz scope : BitVec 3) (_paths : BitVec 6) (hf : Bool) (h : HReg)
    (s : State) : Answer :=
  .next (State.ends 8 (s.atPoint .ldAq fun _ =>
    let s := if (hf && Handle.remote (s.h h)) || s.acqOrders (s.acqAddr a (sext imm) hf h) (sizeBytes sz) scope.toNat then
        s.dropAhead
      else s
    s.loadForm d a (sext imm) sz hf h))
/-- `ST.RL` (R120, R378): once its access has passed its checks it waits until its release may step; then what it
orders becomes visible and the store is made. -/
def execStRl (d a : GReg) (imm : BitVec 13) (sz scope : BitVec 3) (paths : BitVec 6) (hf : Bool) (h : HReg)
    (s : State) : Answer :=
  let pm := paths ||| s.ownMask
  .next (State.ends 8 (s.atPoint .stRl fun _ =>
    if hf && s.inOutpost then .trapped s.illegal
    else
      s.afterChk (s.storeChk a (sext imm) sz hf h) fun _ =>
        if s.fenceReady pm then
          (s.releasePaths pm scope.toNat).storeForm d a (sext imm) sz hf h
        else .wait s false))

end Sys2Proof.Machine
end

