-- ==== Sys2Proof/Machine/Planisher.lean ====
section
/-! DEFINITION.  The planisher (R224 to R243): the projections of `PRJ`, the support records, and the adjoint
`PRJADJ`. -/

namespace Sys2Proof.Machine

/-! ### The projection block (R228) -/

/-- Its fields. -/
structure ProjParam where
  rad : W32
  raddr : Nat
  lo : W32
  hi : W32
  recaddr : Nat
  recstr : Nat
  vlen : Nat
  yaddr : Nat
  ystr : Nat
  yfmt : Nat
  deriving DecidableEq, Repr

/-- The block's fields from its bytes. -/
def projParam (bs : List Byte) : ProjParam :=
  { rad := BitVec.ofNat 32 (fieldAt bs 0 4), raddr := fieldAt bs 4 4, lo := BitVec.ofNat 32 (fieldAt bs 8 4)
    hi := BitVec.ofNat 32 (fieldAt bs 12 4), recaddr := fieldAt bs 16 4, recstr := fieldAt bs 20 4
    vlen := fieldAt bs 24 2, yaddr := fieldAt bs 32 4, ystr := fieldAt bs 36 4, yfmt := fieldAt bs 40 1 }

/-- The record length of a set (R237). -/
def recLen (set : BitVec 3) (len : Nat) : Nat := if set = 4 then 32 + len / 8 else 32
/-- The checks at the start of a command (R228): a fault code and address. -/
def projStart (p : ProjParam) (set : BitVec 3) (len : Nat) (recs adj : Bool) : Option (Nat × Word) :=
  if len < p.vlen then some (0x2D, 0)
  else if set = 3 ∧ (Num.isNan32 p.lo || Num.isNan32 p.hi || Num.lt32 p.hi p.lo) then some (0x2D, 0)
  else if recs ∧ p.recaddr % 32 ≠ 0 then some (0x04, BitVec.ofNat 64 p.recaddr)
  else if recs ∧ (p.recstr % 32 ≠ 0 ∨ p.recstr < recLen set len) then some (0x2D, 0)
  else if adj ∧ 2 < p.yfmt then some (0x2D, 0)
  else none
/-- A radius: finite, and at least 2^−126 (R225). -/
def radiusOk (r : W32) : Bool := !r.getLsbD 31 && fld r 23 8 ≠ 0 && fld r 23 8 ≠ 0xFF

/-! ### Projections (R230 to R235) -/

/-- What a projection gives: the values and the fields of the support record (R236). -/
structure Proj where
  xs : List W32
  tau : W32 := 0
  rad : W32 := 0
  cnt : Nat := 0
  cnt2 : Nat := 0
  iter : Nat := 0
  inside : Bool := false
  nanrow : Bool := false
  guard : Bool := false
  /-- for the cone, which elements start a block -/
  mask : List Bool := []
  deriving DecidableEq, Repr

/-- A NaN row (R235, R236). -/
def nanRow (r : W32) (n : Nat) : Proj := { xs := List.replicate n Num.nan32, tau := Num.nan32, rad := r, nanrow := true }
/-- The sum of values in ascending order from +0. -/
def sum32 (xs : List W32) : W32 := xs.foldl Num.add32 0

/-- The loop of R230 on the elements that remain, each with its place: τ, the set, the passes and the guard; none
for a NaN row.  The fuel is the number of elements. -/
def simplexLoop (r : W32) : Nat → Nat → List (W32 × Nat) → Option (W32 × List (W32 × Nat) × Nat × Bool)
  | 0, _, _ => none
  | n + 1, k, set =>
    let s := sum32 (set.map (·.1))
    let t := Num.sub32 s r
    let tau := Num.div32 t (Num.nat32 set.length)
    if Num.isInf32 s || Num.isInf32 tau then none
    else
      let set' := set.filter fun z => Num.lt32 tau z.1
      if set'.length = set.length then some (tau, set, k + 1, false)
      else if set'.isEmpty then some (tau, set, k + 1, true)
      else simplexLoop r n (k + 1) set'

/-- The simplex (R230). -/
def simplex (zs : List W32) (r : W32) : Proj :=
  match simplexLoop r (zs.length + 1) 0 zs.zipIdx with
  | none => nanRow r zs.length
  | some (tau, set, k, g) =>
    let share := Num.div32 r (Num.nat32 set.length)
    { xs := zs.zipIdx.map fun (z, p) =>
        if set.any fun x => x.2 = p then (if g then share else Num.sub32 z tau) else 0
      tau := tau, rad := r, cnt := set.length, iter := k, guard := g }

/-- The L1 ball (R231). -/
def ballL1 (zs : List W32) (r : W32) : Proj :=
  if Num.le32 (sum32 (zs.map Num.abs32)) r then { xs := zs, rad := r, cnt := zs.length, inside := true }
  else
    let w := simplex (zs.map Num.abs32) r
    if w.nanrow then w
    else { w with xs := List.zipWith (fun x z => if x = 0 then 0 else x ||| (z &&& 0x80000000)) w.xs zs }

/-- The L2 ball (R232). -/
def ballL2 (zs : List W32) (r : W32) : Proj :=
  let q := zs.foldl (fun q z => Num.fma32 z z q) 0
  if Num.isInf32 q then nanRow r zs.length
  else
    let n := Num.sqrt32 q
    if Num.le32 n r then { xs := zs, tau := Num.one32, rad := r, inside := true }
    else
      let c := Num.div32 r n
      { xs := zs.map fun z => Num.mul32 z c, tau := c, rad := r }

/-- The box (R233). -/
def boxSet (zs : List W32) (lo hi : W32) : Proj :=
  let xs := zs.map fun z =>
    if Num.isNan32 z then Num.nan32 else if Num.lt32 z lo then lo else if Num.lt32 hi z then hi else z
  { xs := xs
    cnt := (xs.filter fun x => Num.eq32 x lo).length
    cnt2 := (xs.filter fun x => Num.eq32 x hi && !Num.eq32 x lo).length }

/-- The mean of a block of the cone: its sum over its count. -/
def blockMean (b : Nat × W32) : W32 := Num.div32 b.2 (Num.nat32 b.1)
/-- Merges at the top of the stack of blocks (count and sum, the top first) while the means fall: the stack, the merges,
and whether a sum became infinite (R234). -/
def coneMerge : Nat → Nat → List (Nat × W32) → List (Nat × W32) × Nat × Bool
  | 0, k, st => (st, k, false)
  | n + 1, k, st =>
    match st with
    | t :: u :: rest =>
      if Num.lt32 (blockMean t) (blockMean u) then
        let s := Num.add32 u.2 t.2
        if Num.isInf32 s then (st, k + 1, true) else coneMerge n (k + 1) ((u.1 + t.1, s) :: rest)
      else (st, k, false)
    | _ => (st, k, false)
/-- The blocks of the whole row. -/
def coneBlocks : Nat → List (Nat × W32) → List W32 → Option (List (Nat × W32) × Nat)
  | k, st, [] => some (st, k)
  | k, st, z :: zs =>
    let r := coneMerge (st.length + 1) k ((1, z) :: st)
    if r.2.2 then none else coneBlocks r.2.1 r.1 zs
/-- The monotone cone (R234). -/
def cone (zs : List W32) : Proj :=
  match coneBlocks 0 [] zs with
  | none => nanRow 0 zs.length
  | some (st, k) =>
    let bs := st.reverse
    { xs := (bs.map fun b => List.replicate b.1 (blockMean b)).flatten
      cnt := bs.length, iter := k
      mask := (bs.map fun b => true :: List.replicate (b.1 - 1) false).flatten }

/-- The projection of the valid elements of a row onto a set (R224, R235). -/
def project (set : BitVec 3) (r lo hi : W32) (zs : List W32) : Proj :=
  if set = 3 then boxSet zs lo hi
  else if zs.any fun z => Num.isNan32 z || Num.isInf32 z then nanRow (if set = 4 then 0 else r) zs.length
  else if set = 0 then simplex zs r
  else if set = 1 then ballL1 zs r
  else if set = 2 then ballL2 zs r
  else cone zs

/-! ### Support records (R236, R237) -/

/-- Eight flags as a byte, the first lowest. -/
def packBits (bs : List Bool) : Nat := bs.foldr (fun b n => (if b then 1 else 0) + 2 * n) 0
/-- The bytes of a mask over `len` elements. -/
def maskBytes (len : Nat) (bs : List Bool) : List Byte := natBytes (len / 8) (packBits bs)
/-- The bytes of a record. -/
def recBytes (set : BitVec 3) (len valid : Nat) (p : Proj) : List Byte :=
  natBytes 4 p.tau.toNat ++ natBytes 4 p.rad.toNat ++ natBytes 2 p.cnt ++ natBytes 2 p.cnt2 ++ natBytes 2 valid ++
    natBytes 2 p.iter ++ natBytes 1 set.toNat ++
    natBytes 1 ((if p.inside then 1 else 0) + (if p.nanrow then 2 else 0) + (if p.guard then 4 else 0)) ++
    List.replicate 14 0 ++ (if set = 4 then maskBytes len p.mask else [])

/-! ### `PRJ` (R226 to R229) -/

namespace State

/-- The accumulator rows of a logical row, with SC, BI and RS (R229). -/
def prjPre (s : State) (c : Nat) (r : DrainRec) (p : DrainParam) (j span : Nat) :
    Nat → Except (Nat × Word) (List W32)
  | 0 => .ok []
  | n + 1 =>
    let t := span - (n + 1)
    match s.drainPre c r p (j * span + t) (t * tileN r.tile.ncols) with
    | .error x => .error x
    | .ok xs =>
      match prjPre s c r p j span n with
      | .error x => .error x
      | .ok ys => .ok (xs ++ ys)

/-- The accumulator rows of a logical row stored, in ascending order (R229), but for the ranges `kept` (R238). -/
def prjStore (s : State) (c : Nat) (t : MxTile) (clr : Bool) (f : Fmt) (dst dstr : Nat) (kept : List (Nat × Nat))
    (i : Nat) : Nat → List Nat → State
  | 0, _ => s
  | n + 1, xs =>
    (s.drainStore c t clr f dst dstr i (xs.take (tileN t.ncols)) kept).prjStore c t clr f dst dstr kept (i + 1) n
      (xs.drop (tileN t.ncols))
/-- Where the records of the logical rows before row `j` lie (R236): their values remain where a row's destination
overlaps them (R238). -/
def prjKept (s : State) (r : PrjRec) (q : ProjParam) (len j : Nat) : List (Nat × Nat) :=
  if r.recs then (List.range j).map fun k => (s.scratchPhys (q.recaddr + k * q.recstr), recLen r.set len) else []

/-- The radius of a logical row (R225). -/
def prjRadius (s : State) (r : PrjRec) (q : ProjParam) (j : Nat) : Except (Nat × Word) W32 :=
  let check := fun (x : W32) => if radiusOk x then .ok x else .error (0x2D, 0)
  if r.set.toNat < 3 ∧ r.rsrc = 1 then check q.rad
  else if r.set.toNat < 3 ∧ r.rsrc = 2 then
    match s.chkScratch (q.raddr + 4 * j) 4 4 with
    | .fault code addr => .error (code, addr)
    | _ => check (BitVec.ofNat 32 (s.scratchNat s.ownPath (q.raddr + 4 * j) 4))
  else .ok Num.one32

/-- Logical rows of a `PRJ` from row `j` on (R229, R238).  DESIGN CHOICE (entry 82): the record's place is checked before
its row is stored, and a fault of the radius is reported before one of the row's bias or residual. -/
def prjRows (c : Nat) (r : PrjRec) (m : MqEntry) (p : DrainParam) (q : ProjParam) : Nat → Nat → State → MeEnd
  | _, 0, s => .done s
  | j, n + 1, s =>
    let d := r.drain
    let fmt := outFmt d.outf d.rm d.ovf m.fte
    let span := r.span.toNat + 1
    let len := tileN d.tile.ncols * span
    let valid := if q.vlen = 0 then len else q.vlen
    let recAt := q.recaddr + j * q.recstr
    match s.prjRadius r q j, s.prjPre c d p j span span with
    | .error (code, addr), _ => .fault s code addr (j * span)
    | _, .error (code, addr) => .fault s code addr (j * span)
    | .ok rad, .ok zs =>
      let x := project r.set rad q.lo q.hi (zs.take valid)
      let out := x.xs.zipIdx.map fun (a, k) => drainPost d fmt m.rm p j k a
      match rowTrap out, (if r.recs then s.chkScratch recAt (recLen r.set len) 32 else .ok) with
      | some code, _ => .fault s code 0 (j * span)
      | none, .fault code addr => .fault s code addr (j * span)
      | none, _ =>
        let s := s.prjStore c d.tile d.clr fmt.1 (d.dst.toNat * 64) (d.dstr.toNat * 16) (s.prjKept r q len j) (j * span) span
          (out.map (·.1) ++ List.replicate (len - valid) 0)
        let s := if r.recs then
            s.storeUnits s.party s.ownPath 64 (s.scratchPhys recAt) (recBytes r.set len valid x)
          else s
        prjRows c r m p q (j + 1) n s

/-- `PRJ` (R226 to R229). -/
def prjBody (r : PrjRec) (c : Nat) (m : MqEntry) (s : State) : MeEnd :=
  let p := drainParam m.pb
  let q := projParam (m.pb.drop 64)
  let span := r.span.toNat + 1
  if r.drain.rs && decide (2 < p.rfmt) then .fault s 0x2D 0 0
  else
    match projStart q r.set (tileN r.drain.tile.ncols * span) r.recs false with
    | some (code, addr) => .fault s code addr 0
    | none => prjRows c r m p q 0 (tileM r.drain.tile.mrows / span) s

end State

/-! ### `PRJADJ` (R239 to R242) -/

/-- What is read of a support record. -/
structure RecIn where
  tau : W32
  rad : W32
  cnt : Nat
  cnt2 : Nat
  len : Nat
  set : Nat
  flags : Nat
  resv : List Byte
  mask : List Byte
  deriving DecidableEq, Repr

/-- Its fields from its bytes. -/
def recIn (bs : List Byte) : RecIn :=
  { tau := BitVec.ofNat 32 (fieldAt bs 0 4), rad := BitVec.ofNat 32 (fieldAt bs 4 4), cnt := fieldAt bs 8 2
    cnt2 := fieldAt bs 10 2, len := fieldAt bs 12 2, set := fieldAt bs 16 1, flags := fieldAt bs 17 1
    resv := (bs.drop 18).take 14, mask := bs.drop 32 }
/-- INSIDE. -/
def RecIn.inside (r : RecIn) : Bool := r.flags % 2 = 1
/-- NANROW. -/
def RecIn.nanrow (r : RecIn) : Bool := r.flags / 2 % 2 = 1
/-- Bit p of MASK. -/
def RecIn.start (r : RecIn) (p : Nat) : Bool := (r.mask.getD (p / 8) 0).getLsbD (p % 8)

/-- Whether a record, the command and the saved result agree (R242). -/
def recOk (r : RecIn) (set : BitVec 3) (len valid : Nat) (ys : List W32) (lo hi : W32) : Bool :=
  r.set = set.toNat && r.len = valid && decide (r.flags < 8) && (r.resv.all fun b => b = 0) &&
  (!(set.toNat ≤ 1 && !r.inside && !r.nanrow) || (ys.filter fun y => !Num.eq32 y 0).length = r.cnt) &&
  (!(set = 3) ||
    ((ys.filter fun y => Num.eq32 y lo).length = r.cnt &&
      (ys.filter fun y => Num.eq32 y hi && !Num.eq32 y lo).length = r.cnt2 &&
      ys.all fun y => !(Num.lt32 y lo || Num.lt32 hi y))) &&
  (!(set = 4 && !r.nanrow) ||
    (r.start 0 && ((List.range len).all fun p => p < valid || !r.start p) &&
      ((List.range len).filter fun p => r.start p).length = r.cnt))

/-- The mean of some gradients: their sum over their number. -/
def mean32 (xs : List W32) : W32 := Num.div32 (sum32 xs) (Num.nat32 xs.length)

/-- Cuts a list before each element, after the first, whose place starts a block. -/
def cutBlocks (starts : Nat → Bool) : Nat → List W32 → List W32 → List (List W32)
  | _, cur, [] => if cur.isEmpty then [] else [cur.reverse]
  | p, cur, x :: xs =>
    if starts p && !cur.isEmpty then cur.reverse :: cutBlocks starts (p + 1) [x] xs
    else cutBlocks starts (p + 1) (x :: cur) xs

/-- The input gradient of the valid elements (R241). -/
def adjoint (r : RecIn) (set : BitVec 3) (lo hi : W32) (ys gs : List W32) : List W32 :=
  if r.nanrow then gs.map fun _ => Num.nan32
  else if r.inside then gs
  else
    match set.toNat with
    | 0 =>
      let m := mean32 ((ys.zip gs).filterMap fun (y, g) => if Num.eq32 y 0 then none else some g)
      List.zipWith (fun y g => if Num.eq32 y 0 then 0 else Num.sub32 g m) ys gs
    | 1 =>
      let sgn := fun (y g : W32) => if y.getLsbD 31 then Num.neg32 g else g
      let m := mean32 ((ys.zip gs).filterMap fun (y, g) => if Num.eq32 y 0 then none else some (sgn y g))
      List.zipWith (fun y g => if Num.eq32 y 0 then 0 else Num.sub32 g (sgn y m)) ys gs
    | 2 =>
      let q := (ys.zip gs).foldl (fun q x => Num.fma32 x.1 x.2 q) 0
      let k := Num.div32 q (Num.mul32 r.rad r.rad)
      List.zipWith (fun y g => Num.mul32 r.tau (Num.fma32 (Num.neg32 y) k g)) ys gs
    | 3 =>
      List.zipWith (fun y g =>
        if Num.isNan32 y then Num.nan32 else if Num.lt32 lo y && Num.lt32 y hi then g else 0) ys gs
    | _ => ((cutBlocks r.start 0 [] gs).map fun b => List.replicate b.length (mean32 b)).flatten

namespace State

/-- The saved results of one accumulator row of a logical row (R240). -/
def adjSaved (s : State) (q : ProjParam) (i n : Nat) : Except (Nat × Word) (List W32) :=
  let sz := if q.yfmt = 0 then 4 else 2
  let a := q.yaddr + i * q.ystr
  match s.chkScratch a (n * sz) 1 with
  | .fault code addr => .error (code, addr)
  | _ =>
    .ok ((List.range n).map fun j =>
      Num.rne32 (Num.decodeVal (BitVec.ofNat 4 q.yfmt) (s.scratchNat s.ownPath (a + sz * j) sz)))

/-- The saved results of every column of a logical row's accumulator rows, padding among them (R240). -/
def adjRow (s : State) (q : ProjParam) (n i : Nat) : Nat → Except (Nat × Word) (List W32)
  | 0 => .ok []
  | k + 1 =>
    match s.adjSaved q i n with
    | .error x => .error x
    | .ok ys =>
      match adjRow s q n (i + 1) k with
      | .error x => .error x
      | .ok zs => .ok (ys ++ zs)

/-- Logical rows of a `PRJADJ` from row `j` on (R240). -/
def adjRows (c : Nat) (r : AdjRec) (m : MqEntry) (q : ProjParam) : Nat → Nat → State → MeEnd
  | _, 0, s => .done s
  | j, n + 1, s =>
    let (f, rm, ovf) := outFmt r.outf r.rm r.ovf m.fte
    let mode := Num.RMode.ofCode (if rm = 7 then m.rm else rm)
    let span := r.span.toNat + 1
    let cols := tileN r.tile.ncols
    let len := cols * span
    let valid := if q.vlen = 0 then len else q.vlen
    let recAt := q.recaddr + j * q.recstr
    let gs := ((List.range span).map fun t =>
      s.accGetRow c (r.tile.row0.toNat + j * span + t) (r.tile.col0.toNat * 32) cols).flatten
    match s.chkScratch recAt (recLen r.set len) 32, s.adjRow q cols (j * span) span with
    | .fault code addr, _ => .fault s code addr (j * span)
    | _, .error (code, addr) => .fault s code addr (j * span)
    | _, .ok saved =>
      let ys := saved.take valid
      let x := recIn (s.scratchBytes s.ownPath recAt (recLen r.set len))
      if !recOk x r.set len valid ys q.lo q.hi then .fault s 0x2E 0 (j * span)
      else
        let ds := adjoint x r.set q.lo q.hi ys (gs.take valid) ++ List.replicate (len - valid) 0
        let out := ds.zipIdx.map fun (a, p) =>
          drainCvt f mode ovf (fld (Num.hash 0 0 0 (BitVec.ofNat 32 j) (BitVec.ofNat 32 p)) 0 16).toNat a
        match rowTrap out with
        | some code => .fault s code 0 (j * span)
        | none =>
          adjRows c r m q (j + 1) n
            (s.prjStore c r.tile r.clr f (r.dst.toNat * 64) (r.dstr.toNat * 16) [] (j * span) span (out.map (·.1)))

/-- `PRJADJ` (R239 to R242). -/
def adjBody (r : AdjRec) (c : Nat) (m : MqEntry) (s : State) : MeEnd :=
  let q := projParam m.pb
  let span := r.span.toNat + 1
  match projStart q r.set (tileN r.tile.ncols * span) true true with
  | some (code, addr) => .fault s code addr 0
  | none => adjRows c r m q 0 (tileM r.tile.mrows / span) s

end State

/-- `PRJ` (R226). -/
def execPrj (r : PrjRec) (s : State) : Answer := .next (s.meRun (State.prjBody r))
/-- `PRJADJ` (R239). -/
def execPrjadj (r : AdjRec) (s : State) : Answer := .next (s.meRun (State.adjBody r))

end Sys2Proof.Machine
end

