-- ==== Sys2Proof/Machine/Scalar.lean ====
section
/-! DEFINITION.  Integer arithmetic and constants of the shared control subset (R100 to R106). -/

namespace Sys2Proof.Machine

/-! ### Values (R100, R101, R105) -/

/-- Bits 127:64 of the signed product. -/
def mulHigh (a b : Word) : Word := BitVec.ofInt 64 (a.toInt * b.toInt / 2 ^ 64)
/-- Bits 127:64 of the unsigned product. -/
def mulHighU (a b : Word) : Word := BitVec.ofNat 64 (a.toNat * b.toNat / 2 ^ 64)
/-- The signed quotient (R101): all ones for a zero divisor; −2^63 ÷ −1 gives −2^63. -/
def divSigned (a b : Word) : Word := if b = 0 then BitVec.allOnes 64 else BitVec.ofInt 64 (a.toInt.tdiv b.toInt)
/-- The unsigned quotient (R101). -/
def divUnsigned (a b : Word) : Word := if b = 0 then BitVec.allOnes 64 else BitVec.ofNat 64 (a.toNat / b.toNat)
/-- The signed remainder, with the sign of the dividend (R101). -/
def remSigned (a b : Word) : Word := if b = 0 then a else BitVec.ofInt 64 (a.toInt.tmod b.toInt)
/-- The unsigned remainder (R101). -/
def remUnsigned (a b : Word) : Word := if b = 0 then a else BitVec.ofNat 64 (a.toNat % b.toNat)
/-- A shift amount: bits 5:0 of a register. -/
def shiftAmount (b : Word) : Nat := (fld b 0 6).toNat
/-- The number of leading zero bits, 0 to 64. -/
def leadingZeros (a : Word) : Nat := ((List.range 64).find? fun i => a.getLsbD (63 - i)).getD 64
/-- The field of `len` bits at `pos`, zero-extended (R105). -/
def bitField (a : Word) (pos len : Nat) : Word := (a >>> pos) &&& (BitVec.allOnes 64 >>> (64 - len))
/-- The field of `len` bits at `pos`, sign-extended from its top bit (R105). -/
def bitFieldSigned (a : Word) (pos len : Nat) : Word := ((a >>> pos) <<< (64 - len)).sshiftRight (64 - len)
/-- `t` with its field of `len` bits at `pos` replaced by the low bits of `a` (R105). -/
def bitInsert (t a : Word) (pos len : Nat) : Word :=
  let m := (BitVec.allOnes 64 >>> (64 - len)) <<< pos
  (t &&& ~~~m) ||| ((a <<< pos) &&& m)

/-! ### The register arithmetic group (R100) -/

/-- `ADD` (R100). -/
def execAdd (d a b : GReg) (s : State) : Answer := s.put 4 d (s.g a + s.g b)
/-- `SUB` (R100). -/
def execSub (d a b : GReg) (s : State) : Answer := s.put 4 d (s.g a - s.g b)
/-- `MUL` (R100). -/
def execMul (d a b : GReg) (s : State) : Answer := s.put 4 d (s.g a * s.g b)
/-- `MULH` (R100). -/
def execMulh (d a b : GReg) (s : State) : Answer := s.put 4 d (mulHigh (s.g a) (s.g b))
/-- `MULHU` (R100). -/
def execMulhu (d a b : GReg) (s : State) : Answer := s.put 4 d (mulHighU (s.g a) (s.g b))
/-- `MADD` (R100): the old destination is a source. -/
def execMadd (d a b : GReg) (s : State) : Answer := s.put 4 d (s.g d + s.g a * s.g b)
/-- `DIV` (R100, R101). -/
def execDiv (d a b : GReg) (s : State) : Answer := s.put 4 d (divSigned (s.g a) (s.g b))
/-- `DIVU` (R100, R101). -/
def execDivu (d a b : GReg) (s : State) : Answer := s.put 4 d (divUnsigned (s.g a) (s.g b))
/-- `REM` (R100, R101). -/
def execRem (d a b : GReg) (s : State) : Answer := s.put 4 d (remSigned (s.g a) (s.g b))
/-- `REMU` (R100, R101). -/
def execRemu (d a b : GReg) (s : State) : Answer := s.put 4 d (remUnsigned (s.g a) (s.g b))
/-- `AND` (R100). -/
def execAnd (d a b : GReg) (s : State) : Answer := s.put 4 d (s.g a &&& s.g b)
/-- `OR` (R100). -/
def execOr (d a b : GReg) (s : State) : Answer := s.put 4 d (s.g a ||| s.g b)
/-- `XOR` (R100). -/
def execXor (d a b : GReg) (s : State) : Answer := s.put 4 d (s.g a ^^^ s.g b)
/-- `SHL` (R100). -/
def execShl (d a b : GReg) (s : State) : Answer := s.put 4 d (s.g a <<< shiftAmount (s.g b))
/-- `SHR` (R100). -/
def execShr (d a b : GReg) (s : State) : Answer := s.put 4 d (s.g a >>> shiftAmount (s.g b))
/-- `SHA` (R100). -/
def execSha (d a b : GReg) (s : State) : Answer := s.put 4 d ((s.g a).sshiftRight (shiftAmount (s.g b)))
/-- `MIN` (R100). -/
def execMin (d a b : GReg) (s : State) : Answer := s.put 4 d (if (s.g a).slt (s.g b) then s.g a else s.g b)
/-- `MAX` (R100). -/
def execMax (d a b : GReg) (s : State) : Answer := s.put 4 d (if (s.g a).slt (s.g b) then s.g b else s.g a)
/-- `MINU` (R100). -/
def execMinu (d a b : GReg) (s : State) : Answer := s.put 4 d (if (s.g a).ult (s.g b) then s.g a else s.g b)
/-- `MAXU` (R100). -/
def execMaxu (d a b : GReg) (s : State) : Answer := s.put 4 d (if (s.g a).ult (s.g b) then s.g b else s.g a)
/-- `CLZ` (R100). -/
def execClz (d a : GReg) (s : State) : Answer := s.put 4 d (BitVec.ofNat 64 (leadingZeros (s.g a)))
/-- `POPC` (R100). -/
def execPopc (d a : GReg) (s : State) : Answer := s.put 4 d (BitVec.ofNat 64 (popCount (s.g a)))

/-! ### Compare, select and immediates (R102 to R105) -/

/-- `CMP.cc` (R102). -/
def execCmp (cc : BitVec 4) (d a b : GReg) (s : State) : Answer := s.put 4 d (boolWord (condHolds cc (s.g a) (s.g b)))
/-- `SEL` (R103). -/
def execSel (d a b c : GReg) (s : State) : Answer := s.put 4 d (if s.g c ≠ 0 then s.g a else s.g b)
/-- `ADDI` (R104). -/
def execAddi (d a : GReg) (imm : BitVec 13) (s : State) : Answer := s.put 4 d (s.g a + sext imm)
/-- `ANDI` (R104). -/
def execAndi (d a : GReg) (imm : BitVec 13) (s : State) : Answer := s.put 4 d (s.g a &&& zext imm)
/-- `ORI` (R104). -/
def execOri (d a : GReg) (imm : BitVec 13) (s : State) : Answer := s.put 4 d (s.g a ||| zext imm)
/-- `XORI` (R104). -/
def execXori (d a : GReg) (imm : BitVec 13) (s : State) : Answer := s.put 4 d (s.g a ^^^ zext imm)
/-- `SHLI` (R104). -/
def execShli (d a : GReg) (n : BitVec 6) (s : State) : Answer := s.put 4 d (s.g a <<< n.toNat)
/-- `SHRI` (R104). -/
def execShri (d a : GReg) (n : BitVec 6) (s : State) : Answer := s.put 4 d (s.g a >>> n.toNat)
/-- `SHAI` (R104). -/
def execShai (d a : GReg) (n : BitVec 6) (s : State) : Answer := s.put 4 d ((s.g a).sshiftRight n.toNat)
/-- `BFX` (R105). -/
def execBfx (d a : GReg) (pos len1 : BitVec 6) (s : State) : Answer :=
  s.put 4 d (bitField (s.g a) pos.toNat (len1.toNat + 1))
/-- `BFX.S` (R105). -/
def execBfxS (d a : GReg) (pos len1 : BitVec 6) (s : State) : Answer :=
  s.put 4 d (bitFieldSigned (s.g a) pos.toNat (len1.toNat + 1))
/-- `BFI` (R105): the old destination is a source. -/
def execBfi (d a : GReg) (pos len1 : BitVec 6) (s : State) : Answer :=
  s.put 4 d (bitInsert (s.g d) (s.g a) pos.toNat (len1.toNat + 1))

/-! ### Constants (R106) -/

/-- `LI` (R106). -/
def execLi (d : GReg) (imm : BitVec 19) (s : State) : Answer := s.put 4 d (sext imm)
/-- `LUI` (R106). -/
def execLui (d : GReg) (imm : BitVec 19) (s : State) : Answer := s.put 4 d (sext imm <<< 13)
/-- `LIL` (R106). -/
def execLil (d : GReg) (imm : BitVec 51) (s : State) : Answer := s.put 8 d (sext imm)

end Sys2Proof.Machine
end

