-- ==== Sys2Proof/Machine/Vector.lean ====
section
/-! DEFINITION.  The private half of the vector engine (R81, R82): each instruction's short form, and the extended form
over all of them. -/

namespace Sys2Proof.Machine

/-- `VADD` (R167). -/
def planVadd (d a b : VReg) (fmt : Fmt) : VPlan := vArith .add d a b fmt
/-- The short form of `VADD`. -/
def execVadd (d a b : VReg) (fmt : Fmt) (tk : Tk) (s : State) : Answer := .next (s.runVec (planVadd d a b fmt) {} tk)
/-- `VSUB` (R167). -/
def planVsub (d a b : VReg) (fmt : Fmt) : VPlan := vArith .sub d a b fmt
/-- The short form of `VSUB`. -/
def execVsub (d a b : VReg) (fmt : Fmt) (tk : Tk) (s : State) : Answer := .next (s.runVec (planVsub d a b fmt) {} tk)
/-- `VMUL` (R167). -/
def planVmul (d a b : VReg) (fmt : Fmt) : VPlan := vArith .mul d a b fmt
/-- The short form of `VMUL`. -/
def execVmul (d a b : VReg) (fmt : Fmt) (tk : Tk) (s : State) : Answer := .next (s.runVec (planVmul d a b fmt) {} tk)
/-- `VFMA` (R167). -/
def planVfma (d a b : VReg) (fmt : Fmt) : VPlan := vArith .fma d a b fmt
/-- The short form of `VFMA`. -/
def execVfma (d a b : VReg) (fmt : Fmt) (tk : Tk) (s : State) : Answer := .next (s.runVec (planVfma d a b fmt) {} tk)
/-- `VFMS` (R167). -/
def planVfms (d a b : VReg) (fmt : Fmt) : VPlan := vArith .fms d a b fmt
/-- The short form of `VFMS`. -/
def execVfms (d a b : VReg) (fmt : Fmt) (tk : Tk) (s : State) : Answer := .next (s.runVec (planVfms d a b fmt) {} tk)
/-- `VMIN` (R167). -/
def planVmin (d a b : VReg) (fmt : Fmt) : VPlan := vArith .min d a b fmt
/-- The short form of `VMIN`. -/
def execVmin (d a b : VReg) (fmt : Fmt) (tk : Tk) (s : State) : Answer := .next (s.runVec (planVmin d a b fmt) {} tk)
/-- `VMAX` (R167). -/
def planVmax (d a b : VReg) (fmt : Fmt) : VPlan := vArith .max d a b fmt
/-- The short form of `VMAX`. -/
def execVmax (d a b : VReg) (fmt : Fmt) (tk : Tk) (s : State) : Answer := .next (s.runVec (planVmax d a b fmt) {} tk)
/-- `VAND` (R167). -/
def planVand (d a b : VReg) (fmt : Fmt) : VPlan := vLogic .and d a b fmt
/-- The short form of `VAND`. -/
def execVand (d a b : VReg) (fmt : Fmt) (tk : Tk) (s : State) : Answer := .next (s.runVec (planVand d a b fmt) {} tk)
/-- `VOR` (R167). -/
def planVor (d a b : VReg) (fmt : Fmt) : VPlan := vLogic .or d a b fmt
/-- The short form of `VOR`. -/
def execVor (d a b : VReg) (fmt : Fmt) (tk : Tk) (s : State) : Answer := .next (s.runVec (planVor d a b fmt) {} tk)
/-- `VXOR` (R167). -/
def planVxor (d a b : VReg) (fmt : Fmt) : VPlan := vLogic .xor d a b fmt
/-- The short form of `VXOR`. -/
def execVxor (d a b : VReg) (fmt : Fmt) (tk : Tk) (s : State) : Answer := .next (s.runVec (planVxor d a b fmt) {} tk)
/-- `VSHL` (R167). -/
def planVshl (d a b : VReg) (fmt : Fmt) : VPlan := vLogic .shl d a b fmt
/-- The short form of `VSHL`. -/
def execVshl (d a b : VReg) (fmt : Fmt) (tk : Tk) (s : State) : Answer := .next (s.runVec (planVshl d a b fmt) {} tk)
/-- `VSHR` (R167). -/
def planVshr (d a b : VReg) (fmt : Fmt) : VPlan := vLogic .shr d a b fmt
/-- The short form of `VSHR`. -/
def execVshr (d a b : VReg) (fmt : Fmt) (tk : Tk) (s : State) : Answer := .next (s.runVec (planVshr d a b fmt) {} tk)
/-- `VSHA` (R167). -/
def planVsha (d a b : VReg) (fmt : Fmt) : VPlan := vLogic .sha d a b fmt
/-- The short form of `VSHA`. -/
def execVsha (d a b : VReg) (fmt : Fmt) (tk : Tk) (s : State) : Answer := .next (s.runVec (planVsha d a b fmt) {} tk)
/-- `VABS` (R167). -/
def planVabs (d a : VReg) (fmt : Fmt) : VPlan := vAbsNeg false d a fmt
/-- The short form of `VABS`. -/
def execVabs (d a : VReg) (fmt : Fmt) (tk : Tk) (s : State) : Answer := .next (s.runVec (planVabs d a fmt) {} tk)
/-- `VNEG` (R167). -/
def planVneg (d a : VReg) (fmt : Fmt) : VPlan := vAbsNeg true d a fmt
/-- The short form of `VNEG`. -/
def execVneg (d a : VReg) (fmt : Fmt) (tk : Tk) (s : State) : Answer := .next (s.runVec (planVneg d a fmt) {} tk)
/-- `VWADD` (R168). -/
def planVwadd (d a b : VReg) (fmt : Fmt) : VPlan := vWide .add d a b fmt
/-- The short form of `VWADD`. -/
def execVwadd (d a b : VReg) (fmt : Fmt) (tk : Tk) (s : State) : Answer :=
  .next (s.runVec (planVwadd d a b fmt) {} tk)
/-- `VWMUL` (R168). -/
def planVwmul (d a b : VReg) (fmt : Fmt) : VPlan := vWide .mul d a b fmt
/-- The short form of `VWMUL`. -/
def execVwmul (d a b : VReg) (fmt : Fmt) (tk : Tk) (s : State) : Answer :=
  .next (s.runVec (planVwmul d a b fmt) {} tk)
/-- `VWFMA` (R168). -/
def planVwfma (d a b : VReg) (fmt : Fmt) : VPlan := vWide .fma d a b fmt
/-- The short form of `VWFMA`. -/
def execVwfma (d a b : VReg) (fmt : Fmt) (tk : Tk) (s : State) : Answer :=
  .next (s.runVec (planVwfma d a b fmt) {} tk)
/-- `VNRW` (R170). -/
def planVnrw (d a : VReg) (src fmt : Fmt) : VPlan := vNrw d a src fmt
/-- The short form of `VNRW`. -/
def execVnrw (d a : VReg) (src fmt : Fmt) (tk : Tk) (s : State) : Answer :=
  .next (s.runVec (planVnrw d a src fmt) {} tk)
/-- `VCVT` (R169). -/
def planVcvt (d a : VReg) (src fmt : Fmt) : VPlan := vCvt d a src fmt
/-- The short form of `VCVT`. -/
def execVcvt (d a : VReg) (src fmt : Fmt) (tk : Tk) (s : State) : Answer :=
  .next (s.runVec (planVcvt d a src fmt) {} tk)
/-- `VQNT` (R171). -/
def planVqnt (d a : VReg) (ty : BitVec 2) (fmt : Fmt) : VPlan := vQnt d a ty fmt
/-- The short form of `VQNT`. -/
def execVqnt (d a : VReg) (ty : BitVec 2) (fmt : Fmt) (tk : Tk) (s : State) : Answer :=
  .next (s.runVec (planVqnt d a ty fmt) {} tk)
/-- `VDQT` (R172). -/
def planVdqt (d a : VReg) (fmt : Fmt) : VPlan := vDqt d a fmt
/-- The short form of `VDQT`. -/
def execVdqt (d a : VReg) (fmt : Fmt) (tk : Tk) (s : State) : Answer := .next (s.runVec (planVdqt d a fmt) {} tk)
/-- `VCMP` (R173). -/
def planVcmp (c : BitVec 2) (p : PReg) (a b : VReg) (fmt : Fmt) : VPlan := vCmp c p a b fmt
/-- The short form of `VCMP`. -/
def execVcmp (c : BitVec 2) (p : PReg) (a b : VReg) (fmt : Fmt) (tk : Tk) (s : State) : Answer :=
  .next (s.runVec (planVcmp c p a b fmt) {} tk)
/-- `VSEL` (R174). -/
def planVsel (d a b : VReg) (fmt : Fmt) : VPlan := vSel d a b fmt
/-- The short form of `VSEL`. -/
def execVsel (d a b : VReg) (fmt : Fmt) (tk : Tk) (s : State) : Answer := .next (s.runVec (planVsel d a b fmt) {} tk)
/-- `PAND` (R175). -/
def planPand (d a b : PReg) : VPlan := vPred (fun s => s.p a &&& s.p b) d
/-- The short form of `PAND`. -/
def execPand (d a b : PReg) (tk : Tk) (s : State) : Answer := .next (s.runVec (planPand d a b) {} tk)
/-- `POR` (R175). -/
def planPor (d a b : PReg) : VPlan := vPred (fun s => s.p a ||| s.p b) d
/-- The short form of `POR`. -/
def execPor (d a b : PReg) (tk : Tk) (s : State) : Answer := .next (s.runVec (planPor d a b) {} tk)
/-- `PXOR` (R175). -/
def planPxor (d a b : PReg) : VPlan := vPred (fun s => s.p a ^^^ s.p b) d
/-- The short form of `PXOR`. -/
def execPxor (d a b : PReg) (tk : Tk) (s : State) : Answer := .next (s.runVec (planPxor d a b) {} tk)
/-- `PNOT` (R175). -/
def planPnot (d a : PReg) : VPlan := vPred (fun s => ~~~s.p a) d
/-- The short form of `PNOT`. -/
def execPnot (d a : PReg) (tk : Tk) (s : State) : Answer := .next (s.runVec (planPnot d a) {} tk)
/-- `PCNT` (R176). -/
def planPcnt (d : GReg) (a : PReg) (sz : BitVec 2) : VPlan := vPcnt d a sz
/-- The short form of `PCNT`. -/
def execPcnt (d : GReg) (a : PReg) (sz : BitVec 2) (tk : Tk) (s : State) : Answer :=
  .next (s.runVec (planPcnt d a sz) {} tk)
/-- `PFIRST` (R176). -/
def planPfirst (d : GReg) (a : PReg) (sz : BitVec 2) : VPlan := vPfirst d a sz
/-- The short form of `PFIRST`. -/
def execPfirst (d : GReg) (a : PReg) (sz : BitVec 2) (tk : Tk) (s : State) : Answer :=
  .next (s.runVec (planPfirst d a sz) {} tk)
/-- `PSTAGE` (R177). -/
def planPstage (p : PReg) (a : GReg) (sz : BitVec 2) (m : BitVec 3) : VPlan := vPstage p a sz m
/-- The short form of `PSTAGE`. -/
def execPstage (p : PReg) (a : GReg) (sz : BitVec 2) (m : BitVec 3) (tk : Tk) (s : State) : Answer :=
  .next (s.runVec (planPstage p a sz m) {} tk)
/-- `VPERM` (R178). -/
def planVperm (d a b : VReg) (fmt : Fmt) : VPlan := vPerm d a b fmt
/-- The short form of `VPERM`. -/
def execVperm (d a b : VReg) (fmt : Fmt) (tk : Tk) (s : State) : Answer :=
  .next (s.runVec (planVperm d a b fmt) {} tk)
/-- `VSHUF` (R178). -/
def planVshuf (d a b : VReg) : VPlan := vShuf d a b
/-- The short form of `VSHUF`. -/
def execVshuf (d a b : VReg) (tk : Tk) (s : State) : Answer := .next (s.runVec (planVshuf d a b) {} tk)
/-- `VBCAST` (R178). -/
def planVbcast (d : VReg) (a : GReg) (fmt : Fmt) : VPlan := vBcast d a fmt
/-- The short form of `VBCAST`. -/
def execVbcast (d : VReg) (a : GReg) (fmt : Fmt) (tk : Tk) (s : State) : Answer :=
  .next (s.runVec (planVbcast d a fmt) {} tk)
/-- `VEXTR` (R178). -/
def planVextr (d : GReg) (a : VReg) (b : GReg) (fmt : Fmt) : VPlan := vExtr d a b fmt
/-- The short form of `VEXTR`. -/
def execVextr (d : GReg) (a : VReg) (b : GReg) (fmt : Fmt) (tk : Tk) (s : State) : Answer :=
  .next (s.runVec (planVextr d a b fmt) {} tk)
/-- `VINS` (R178). -/
def planVins (d : VReg) (a b : GReg) (fmt : Fmt) : VPlan := vIns d a b fmt
/-- The short form of `VINS`. -/
def execVins (d : VReg) (a b : GReg) (fmt : Fmt) (tk : Tk) (s : State) : Answer :=
  .next (s.runVec (planVins d a b fmt) {} tk)
/-- `VSLIDE` (R178). -/
def planVslide (d a : VReg) (b : GReg) (fmt : Fmt) : VPlan := vSlide d a b fmt
/-- The short form of `VSLIDE`. -/
def execVslide (d a : VReg) (b : GReg) (fmt : Fmt) (tk : Tk) (s : State) : Answer :=
  .next (s.runVec (planVslide d a b fmt) {} tk)
/-- `VZIP` (R178). -/
def planVzip (d a b : VReg) (fmt : Fmt) : VPlan := vZip d a b fmt
/-- The short form of `VZIP`. -/
def execVzip (d a b : VReg) (fmt : Fmt) (tk : Tk) (s : State) : Answer := .next (s.runVec (planVzip d a b fmt) {} tk)
/-- `VUZP` (R178). -/
def planVuzp (d a : VReg) (fmt : Fmt) : VPlan := vUzp d a fmt
/-- The short form of `VUZP`. -/
def execVuzp (d a : VReg) (fmt : Fmt) (tk : Tk) (s : State) : Answer := .next (s.runVec (planVuzp d a fmt) {} tk)
/-- `VRSUM` (R179). -/
def planVrsum (d a : VReg) (fmt : Fmt) : VPlan := vRsum d a fmt
/-- The short form of `VRSUM`. -/
def execVrsum (d a : VReg) (fmt : Fmt) (tk : Tk) (s : State) : Answer := .next (s.runVec (planVrsum d a fmt) {} tk)
/-- `VRMAX` (R179). -/
def planVrmax (d a : VReg) (fmt : Fmt) : VPlan := vRext true d a fmt
/-- The short form of `VRMAX`. -/
def execVrmax (d a : VReg) (fmt : Fmt) (tk : Tk) (s : State) : Answer := .next (s.runVec (planVrmax d a fmt) {} tk)
/-- `VRMIN` (R179). -/
def planVrmin (d a : VReg) (fmt : Fmt) : VPlan := vRext false d a fmt
/-- The short form of `VRMIN`. -/
def execVrmin (d a : VReg) (fmt : Fmt) (tk : Tk) (s : State) : Answer := .next (s.runVec (planVrmin d a fmt) {} tk)
/-- `VSCAN` (R180). -/
def planVscan (d a : VReg) (fmt : Fmt) : VPlan := vScan d a fmt
/-- The short form of `VSCAN`. -/
def execVscan (d a : VReg) (fmt : Fmt) (tk : Tk) (s : State) : Answer := .next (s.runVec (planVscan d a fmt) {} tk)
/-- `VSEGR` (R181). -/
def planVsegr (d a : VReg) (p : PReg) (fmt : Fmt) : VPlan := vSegr d a p fmt
/-- The short form of `VSEGR`. -/
def execVsegr (d a : VReg) (p : PReg) (fmt : Fmt) (tk : Tk) (s : State) : Answer :=
  .next (s.runVec (planVsegr d a p fmt) {} tk)
/-- `VSORT` (R182). -/
def planVsort (d a : VReg) (fmt : Fmt) : VPlan := vSort false d a fmt
/-- The short form of `VSORT`. -/
def execVsort (d a : VReg) (fmt : Fmt) (tk : Tk) (s : State) : Answer := .next (s.runVec (planVsort d a fmt) {} tk)
/-- `VSORT.DESC` (R182). -/
def planVsortDesc (d a : VReg) (fmt : Fmt) : VPlan := vSort true d a fmt
/-- The short form of `VSORT.DESC`. -/
def execVsortDesc (d a : VReg) (fmt : Fmt) (tk : Tk) (s : State) : Answer :=
  .next (s.runVec (planVsortDesc d a fmt) {} tk)
/-- `VUNIQ` (R183). -/
def planVuniq (p : PReg) (a : VReg) (fmt : Fmt) : VPlan := vUniq p a fmt
/-- The short form of `VUNIQ`. -/
def execVuniq (p : PReg) (a : VReg) (fmt : Fmt) (tk : Tk) (s : State) : Answer :=
  .next (s.runVec (planVuniq p a fmt) {} tk)
/-- `VEXP2` (R184). -/
def planVexp2 (d a : VReg) : VPlan := vSpecial Num.fExp2 d a
/-- The short form of `VEXP2`. -/
def execVexp2 (d a : VReg) (tk : Tk) (s : State) : Answer := .next (s.runVec (planVexp2 d a) {} tk)
/-- `VLOG2` (R184). -/
def planVlog2 (d a : VReg) : VPlan := vSpecial Num.fLog2 d a
/-- The short form of `VLOG2`. -/
def execVlog2 (d a : VReg) (tk : Tk) (s : State) : Answer := .next (s.runVec (planVlog2 d a) {} tk)
/-- `VRCP` (R184). -/
def planVrcp (d a : VReg) : VPlan := vSpecial Num.fRcp d a
/-- The short form of `VRCP`. -/
def execVrcp (d a : VReg) (tk : Tk) (s : State) : Answer := .next (s.runVec (planVrcp d a) {} tk)
/-- `VRSQ` (R184). -/
def planVrsq (d a : VReg) : VPlan := vSpecial Num.fRsq d a
/-- The short form of `VRSQ`. -/
def execVrsq (d a : VReg) (tk : Tk) (s : State) : Answer := .next (s.runVec (planVrsq d a) {} tk)
/-- `VEXP` (R184). -/
def planVexp (d a : VReg) : VPlan := vSpecial Num.fExp d a
/-- The short form of `VEXP`. -/
def execVexp (d a : VReg) (tk : Tk) (s : State) : Answer := .next (s.runVec (planVexp d a) {} tk)
/-- `VTANH` (R184). -/
def planVtanh (d a : VReg) : VPlan := vSpecial Num.fTanh d a
/-- The short form of `VTANH`. -/
def execVtanh (d a : VReg) (tk : Tk) (s : State) : Answer := .next (s.runVec (planVtanh d a) {} tk)
/-- `VSIG` (R184). -/
def planVsig (d a : VReg) : VPlan := vSpecial Num.fSig d a
/-- The short form of `VSIG`. -/
def execVsig (d a : VReg) (tk : Tk) (s : State) : Answer := .next (s.runVec (planVsig d a) {} tk)
/-- `VGELU` (R184). -/
def planVgelu (d a : VReg) : VPlan := vSpecial Num.fGelu d a
/-- The short form of `VGELU`. -/
def execVgelu (d a : VReg) (tk : Tk) (s : State) : Answer := .next (s.runVec (planVgelu d a) {} tk)
/-- `VHASH` (R185). -/
def planVhash (d : VReg) (fmt : Fmt) : VPlan := vHash d fmt
/-- The short form of `VHASH`. -/
def execVhash (d : VReg) (fmt : Fmt) (tk : Tk) (s : State) : Answer := .next (s.runVec (planVhash d fmt) {} tk)
/-- `VDROP` (R186). -/
def planVdrop (d a : VReg) (b : GReg) (fmt : Fmt) : VPlan := vDrop d a b fmt
/-- The short form of `VDROP`. -/
def execVdrop (d a : VReg) (b : GReg) (fmt : Fmt) (tk : Tk) (s : State) : Answer :=
  .next (s.runVec (planVdrop d a b fmt) {} tk)
/-- `VLD` (R187). -/
def planVld (d : VReg) (a : GReg) (hf : Bool) (h : HReg) (fmt : Fmt) : VPlan := vLd d a hf h fmt
/-- The short form of `VLD`. -/
def execVld (d : VReg) (a : GReg) (hf : Bool) (h : HReg) (fmt : Fmt) (tk : Tk) (s : State) : Answer :=
  .next (s.runVec (planVld d a hf h fmt) {} tk)
/-- `VST` (R187). -/
def planVst (d : VReg) (a : GReg) (hf : Bool) (h : HReg) (fmt : Fmt) : VPlan := vSt d a hf h fmt
/-- The short form of `VST`. -/
def execVst (d : VReg) (a : GReg) (hf : Bool) (h : HReg) (fmt : Fmt) (tk : Tk) (s : State) : Answer :=
  .next (s.runVec (planVst d a hf h fmt) {} tk)
/-- `VLDS` (R187). -/
def planVlds (d : VReg) (a b : GReg) (fmt : Fmt) : VPlan := vLds d a b fmt
/-- The short form of `VLDS`. -/
def execVlds (d : VReg) (a b : GReg) (fmt : Fmt) (tk : Tk) (s : State) : Answer :=
  .next (s.runVec (planVlds d a b fmt) {} tk)
/-- `VSTS` (R187). -/
def planVsts (d : VReg) (a b : GReg) (fmt : Fmt) : VPlan := vSts d a b fmt
/-- The short form of `VSTS`. -/
def execVsts (d : VReg) (a b : GReg) (fmt : Fmt) (tk : Tk) (s : State) : Answer :=
  .next (s.runVec (planVsts d a b fmt) {} tk)
/-- `VGTH` (R187). -/
def planVgth (d : VReg) (a : GReg) (b : VReg) (fmt : Fmt) : VPlan := vGth d a b fmt
/-- The short form of `VGTH`. -/
def execVgth (d : VReg) (a : GReg) (b : VReg) (fmt : Fmt) (tk : Tk) (s : State) : Answer :=
  .next (s.runVec (planVgth d a b fmt) {} tk)
/-- `VSCT` (R187). -/
def planVsct (d : VReg) (a : GReg) (b : VReg) (fmt : Fmt) : VPlan := vSct d a b fmt
/-- The short form of `VSCT`. -/
def execVsct (d : VReg) (a : GReg) (b : VReg) (fmt : Fmt) (tk : Tk) (s : State) : Answer :=
  .next (s.runVec (planVsct d a b fmt) {} tk)
/-- `ACCRD` (R189). -/
def planAccrd (d : VReg) (a : GReg) : VPlan := vAccrd d a
/-- The short form of `ACCRD`. -/
def execAccrd (d : VReg) (a : GReg) (tk : Tk) (s : State) : Answer := .next (s.runVec (planAccrd d a) {} tk)
/-- `ACCWR` (R189). -/
def planAccwr (d : VReg) (a : GReg) : VPlan := vAccwr d a
/-- The short form of `ACCWR`. -/
def execAccwr (d : VReg) (a : GReg) (tk : Tk) (s : State) : Answer := .next (s.runVec (planAccwr d a) {} tk)
/-- `VROTB` (R191). -/
def planVrotb (a : GReg) : VPlan := vRotb a
/-- The short form of `VROTB`. -/
def execVrotb (a : GReg) (tk : Tk) (s : State) : Answer := .next (s.runVec (planVrotb a) {} tk)
/-- `VDEFER` (R192). -/
def planVdefer (k1 : BitVec 2) (a : VReg) (p : PReg) (fmt : Fmt) : VPlan := vDefer k1 a p fmt
/-- The short form of `VDEFER`. -/
def execVdefer (k1 : BitVec 2) (a : VReg) (p : PReg) (fmt : Fmt) (tk : Tk) (s : State) : Answer :=
  .next (s.runVec (planVdefer k1 a p fmt) {} tk)
/-- `VDRAIN` (R193). -/
def planVdrain (d : VReg) (a : GReg) (fmt : Fmt) : VPlan := vDrain d a fmt
/-- The short form of `VDRAIN`. -/
def execVdrain (d : VReg) (a : GReg) (fmt : Fmt) (tk : Tk) (s : State) : Answer :=
  .next (s.runVec (planVdrain d a fmt) {} tk)
/-- `VDQN` (R194). -/
def planVdqn (d a : GReg) : VPlan := vDqn d a
/-- The short form of `VDQN`. -/
def execVdqn (d a : GReg) (tk : Tk) (s : State) : Answer := .next (s.runVec (planVdqn d a) {} tk)

/-- The plan of a vector instruction, for the extended form. -/
def Instr.vplan : Instr → Option VPlan
  | .vadd d a b fmt _ => some (planVadd d a b fmt)
  | .vsub d a b fmt _ => some (planVsub d a b fmt)
  | .vmul d a b fmt _ => some (planVmul d a b fmt)
  | .vfma d a b fmt _ => some (planVfma d a b fmt)
  | .vfms d a b fmt _ => some (planVfms d a b fmt)
  | .vmin d a b fmt _ => some (planVmin d a b fmt)
  | .vmax d a b fmt _ => some (planVmax d a b fmt)
  | .vand d a b fmt _ => some (planVand d a b fmt)
  | .vor d a b fmt _ => some (planVor d a b fmt)
  | .vxor d a b fmt _ => some (planVxor d a b fmt)
  | .vshl d a b fmt _ => some (planVshl d a b fmt)
  | .vshr d a b fmt _ => some (planVshr d a b fmt)
  | .vsha d a b fmt _ => some (planVsha d a b fmt)
  | .vabs d a fmt _ => some (planVabs d a fmt)
  | .vneg d a fmt _ => some (planVneg d a fmt)
  | .vwadd d a b fmt _ => some (planVwadd d a b fmt)
  | .vwmul d a b fmt _ => some (planVwmul d a b fmt)
  | .vwfma d a b fmt _ => some (planVwfma d a b fmt)
  | .vnrw d a src fmt _ => some (planVnrw d a src fmt)
  | .vcvt d a src fmt _ => some (planVcvt d a src fmt)
  | .vqnt d a ty fmt _ => some (planVqnt d a ty fmt)
  | .vdqt d a fmt _ => some (planVdqt d a fmt)
  | .vcmp c p a b fmt _ => some (planVcmp c p a b fmt)
  | .vsel d a b fmt _ => some (planVsel d a b fmt)
  | .pand d a b _ => some (planPand d a b)
  | .por d a b _ => some (planPor d a b)
  | .pxor d a b _ => some (planPxor d a b)
  | .pnot d a _ => some (planPnot d a)
  | .pcnt d a sz _ => some (planPcnt d a sz)
  | .pfirst d a sz _ => some (planPfirst d a sz)
  | .pstage p a sz m _ => some (planPstage p a sz m)
  | .vperm d a b fmt _ => some (planVperm d a b fmt)
  | .vshuf d a b _ => some (planVshuf d a b)
  | .vbcast d a fmt _ => some (planVbcast d a fmt)
  | .vextr d a b fmt _ => some (planVextr d a b fmt)
  | .vins d a b fmt _ => some (planVins d a b fmt)
  | .vslide d a b fmt _ => some (planVslide d a b fmt)
  | .vzip d a b fmt _ => some (planVzip d a b fmt)
  | .vuzp d a fmt _ => some (planVuzp d a fmt)
  | .vrsum d a fmt _ => some (planVrsum d a fmt)
  | .vrmax d a fmt _ => some (planVrmax d a fmt)
  | .vrmin d a fmt _ => some (planVrmin d a fmt)
  | .vscan d a fmt _ => some (planVscan d a fmt)
  | .vsegr d a p fmt _ => some (planVsegr d a p fmt)
  | .vsort d a fmt _ => some (planVsort d a fmt)
  | .vsortDesc d a fmt _ => some (planVsortDesc d a fmt)
  | .vuniq p a fmt _ => some (planVuniq p a fmt)
  | .vexp2 d a _ => some (planVexp2 d a)
  | .vlog2 d a _ => some (planVlog2 d a)
  | .vrcp d a _ => some (planVrcp d a)
  | .vrsq d a _ => some (planVrsq d a)
  | .vexp d a _ => some (planVexp d a)
  | .vtanh d a _ => some (planVtanh d a)
  | .vsig d a _ => some (planVsig d a)
  | .vgelu d a _ => some (planVgelu d a)
  | .vhash d fmt _ => some (planVhash d fmt)
  | .vdrop d a b fmt _ => some (planVdrop d a b fmt)
  | .vld d a hf h fmt _ => some (planVld d a hf h fmt)
  | .vst d a hf h fmt _ => some (planVst d a hf h fmt)
  | .vlds d a b fmt _ => some (planVlds d a b fmt)
  | .vsts d a b fmt _ => some (planVsts d a b fmt)
  | .vgth d a b fmt _ => some (planVgth d a b fmt)
  | .vsct d a b fmt _ => some (planVsct d a b fmt)
  | .accrd d a _ => some (planAccrd d a)
  | .accwr d a _ => some (planAccwr d a)
  | .vrotb a _ => some (planVrotb a)
  | .vdefer k1 a p fmt _ => some (planVdefer k1 a p fmt)
  | .vdrain d a fmt _ => some (planVdrain d a fmt)
  | .vdqn d a _ => some (planVdqn d a)
  | _ => none

/-- The options that W2 holds (R82). -/
def VW2.opt (w : VW2) : VOpt := { pred := w.pred, rm := w.rm, ovf := w.ovf, daz := w.daz, n := 8 }

/-- The extended vector form (R82): the instruction that W2.OP names, with the options of W2. -/
def execExtendedVectorForm (o : VOps) (w : VW2) (s : State) : Answer :=
  .next (match decodeVec w.op o with
    | .ok i =>
      match Instr.vplan i with
      | some p => s.runVec p (VW2.opt w) o.tk
      | none => s.illegal
    | .error _ => s.illegal)

end Sys2Proof.Machine
end

