-- ==== Sys2Proof/Machine/Dispatch.lean ====
section
/-! DEFINITION.  The one match from an instruction to its meaning. -/

namespace Sys2Proof.Machine

/-- The meaning of every instruction, matrix command and event of the opcode table. -/
def exec (i : Instr) (s : State) : Host.Outcome State Fault Refusal :=
  match i with
  | .add d a b => Sys2Proof.Machine.execAdd d a b s
  | .sub d a b => Sys2Proof.Machine.execSub d a b s
  | .mul d a b => Sys2Proof.Machine.execMul d a b s
  | .mulh d a b => Sys2Proof.Machine.execMulh d a b s
  | .mulhu d a b => Sys2Proof.Machine.execMulhu d a b s
  | .madd d a b => Sys2Proof.Machine.execMadd d a b s
  | .div d a b => Sys2Proof.Machine.execDiv d a b s
  | .divu d a b => Sys2Proof.Machine.execDivu d a b s
  | .rem d a b => Sys2Proof.Machine.execRem d a b s
  | .remu d a b => Sys2Proof.Machine.execRemu d a b s
  | .and d a b => Sys2Proof.Machine.execAnd d a b s
  | .or d a b => Sys2Proof.Machine.execOr d a b s
  | .xor d a b => Sys2Proof.Machine.execXor d a b s
  | .shl d a b => Sys2Proof.Machine.execShl d a b s
  | .shr d a b => Sys2Proof.Machine.execShr d a b s
  | .sha d a b => Sys2Proof.Machine.execSha d a b s
  | .min d a b => Sys2Proof.Machine.execMin d a b s
  | .max d a b => Sys2Proof.Machine.execMax d a b s
  | .minu d a b => Sys2Proof.Machine.execMinu d a b s
  | .maxu d a b => Sys2Proof.Machine.execMaxu d a b s
  | .clz d a => Sys2Proof.Machine.execClz d a s
  | .popc d a => Sys2Proof.Machine.execPopc d a s
  | .cmp cc d a b => Sys2Proof.Machine.execCmp cc d a b s
  | .sel d a b c => Sys2Proof.Machine.execSel d a b c s
  | .addi d a imm => Sys2Proof.Machine.execAddi d a imm s
  | .andi d a imm => Sys2Proof.Machine.execAndi d a imm s
  | .ori d a imm => Sys2Proof.Machine.execOri d a imm s
  | .xori d a imm => Sys2Proof.Machine.execXori d a imm s
  | .shli d a n => Sys2Proof.Machine.execShli d a n s
  | .shri d a n => Sys2Proof.Machine.execShri d a n s
  | .shai d a n => Sys2Proof.Machine.execShai d a n s
  | .bfx d a pos len1 => Sys2Proof.Machine.execBfx d a pos len1 s
  | .bfxS d a pos len1 => Sys2Proof.Machine.execBfxS d a pos len1 s
  | .bfi d a pos len1 => Sys2Proof.Machine.execBfi d a pos len1 s
  | .li d imm => Sys2Proof.Machine.execLi d imm s
  | .lui d imm => Sys2Proof.Machine.execLui d imm s
  | .bcz cc a off => Sys2Proof.Machine.execBcz cc a off s
  | .bc cc a b off => Sys2Proof.Machine.execBc cc a b off s
  | .jmp l a => Sys2Proof.Machine.execJmp l a s
  | .call l off => Sys2Proof.Machine.execCall l off s
  | .loop lc c body => Sys2Proof.Machine.execLoop lc c body s
  | .loopi lc n body => Sys2Proof.Machine.execLoopi lc n body s
  | .loopr lc c body => Sys2Proof.Machine.execLoopr lc c body s
  | .leave lc => Sys2Proof.Machine.execLeave lc s
  | .ld d a imm sz => Sys2Proof.Machine.execLd d a imm sz s
  | .st d a imm sz => Sys2Proof.Machine.execSt d a imm sz s
  | .ldHandle d a h imm sz => Sys2Proof.Machine.execLdHandle d a h imm sz s
  | .stHandle d a h imm sz => Sys2Proof.Machine.execStHandle d a h imm sz s
  | .spl d sz off => Sys2Proof.Machine.execSpl d sz off s
  | .sps d sz off => Sys2Proof.Machine.execSps d sz off s
  | .kmovKFromG d a => Sys2Proof.Machine.execKmovKFromG d a s
  | .kmovGFromK d a => Sys2Proof.Machine.execKmovGFromK d a s
  | .kmovKFromK d a => Sys2Proof.Machine.execKmovKFromK d a s
  | .kaddi d a imm => Sys2Proof.Machine.execKaddi d a imm s
  | .twait m => Sys2Proof.Machine.execTwait m s
  | .tsig m => Sys2Proof.Machine.execTsig m s
  | .fence scope => Sys2Proof.Machine.execFence scope s
  | .xfence scope paths => Sys2Proof.Machine.execXfence scope paths s
  | .waitc a => Sys2Proof.Machine.execWaitc a s
  | .csrr d num => Sys2Proof.Machine.execCsrr d num s
  | .csrw num a => Sys2Proof.Machine.execCsrw num a s
  | .trap n => Sys2Proof.Machine.execTrap n s
  | .nop => Sys2Proof.Machine.execNop s
  | .rdv => Sys2Proof.Machine.execRdv s
  | .tret => Sys2Proof.Machine.execTret s
  | .lil d imm => Sys2Proof.Machine.execLil d imm s
  | .ldAq d a imm sz scope paths hf h => Sys2Proof.Machine.execLdAq d a imm sz scope paths hf h s
  | .stRl d a imm sz scope paths hf h => Sys2Proof.Machine.execStRl d a imm sz scope paths hf h s
  | .region mask => Sys2Proof.Machine.execRegion mask s
  | .mqpush a tk => Sys2Proof.Machine.execMqpush a tk s
  | .mqdrop d tk => Sys2Proof.Machine.execMqdrop d tk s
  | .mqdepth d tk => Sys2Proof.Machine.execMqdepth d tk s
  | .mqdepthClr d tk => Sys2Proof.Machine.execMqdepthClr d tk s
  | .semw ix n1 tk => Sys2Proof.Machine.execSemw ix n1 tk s
  | .sems ix n1 tk => Sys2Proof.Machine.execSems ix n1 tk s
  | .bsel k d a b tk => Sys2Proof.Machine.execBsel k d a b tk s
  | .launch d a tk => Sys2Proof.Machine.execLaunch d a tk s
  | .ftw n a engs tk => Sys2Proof.Machine.execFtw n a engs tk s
  | .kitld d a b fmt tk => Sys2Proof.Machine.execKitld d a b fmt tk s
  | .rwait a tk => Sys2Proof.Machine.execRwait a tk s
  | .rpoll d a tk => Sys2Proof.Machine.execRpoll d a tk s
  | .yield d tk => Sys2Proof.Machine.execYield d tk s
  | .gsfset d a tk => Sys2Proof.Machine.execGsfset d a tk s
  | .gsfsetOr d a tk => Sys2Proof.Machine.execGsfsetOr d a tk s
  | .rcall d a h tk w => Sys2Proof.Machine.execRcall d a h tk w s
  | .qld fmt d a b tk => Sys2Proof.Machine.execQld fmt d a b tk s
  | .scq a b tk => Sys2Proof.Machine.execScq a b tk s
  | .gld sz d h a tk => Sys2Proof.Machine.execGld sz d h a tk s
  | .gst sz d h a tk => Sys2Proof.Machine.execGst sz d h a tk s
  | .amoAdd loc h ty a b tk => Sys2Proof.Machine.execAmoAdd loc h ty a b tk s
  | .amoMin loc h ty a b tk => Sys2Proof.Machine.execAmoMin loc h ty a b tk s
  | .amoMax loc h ty a b tk => Sys2Proof.Machine.execAmoMax loc h ty a b tk s
  | .amoAnd loc h ty a b tk => Sys2Proof.Machine.execAmoAnd loc h ty a b tk s
  | .amoOr loc h ty a b tk => Sys2Proof.Machine.execAmoOr loc h ty a b tk s
  | .amoXor loc h ty a b tk => Sys2Proof.Machine.execAmoXor loc h ty a b tk s
  | .amoSwap loc h ty a b tk => Sys2Proof.Machine.execAmoSwap loc h ty a b tk s
  | .amoCas loc h ty a b tk => Sys2Proof.Machine.execAmoCas loc h ty a b tk s
  | .xlt need h a b tk => Sys2Proof.Machine.execXlt need h a b tk s
  | .xltw need h a b tk => Sys2Proof.Machine.execXltw need h a b tk s
  | .hinvAll tk => Sys2Proof.Machine.execHinvAll tk s
  | .hinvRid a tk => Sys2Proof.Machine.execHinvRid a tk s
  | .hinvRange a b tk => Sys2Proof.Machine.execHinvRange a b tk s
  | .hinvRangeRem a b tk => Sys2Proof.Machine.execHinvRangeRem a b tk s
  | .hchk d h tk => Sys2Proof.Machine.execHchk d h tk s
  | .hchkAddr d h tk => Sys2Proof.Machine.execHchkAddr d h tk s
  | .hmov eng d a tk => Sys2Proof.Machine.execHmov eng d a tk s
  | .kget k a tk => Sys2Proof.Machine.execKget k a tk s
  | .wrel a k tk => Sys2Proof.Machine.execWrel a k tk s
  | .tupd h a b tk => Sys2Proof.Machine.execTupd h a b tk s
  | .tskip a tk => Sys2Proof.Machine.execTskip a tk s
  | .nred fmt d a b tk => Sys2Proof.Machine.execNred fmt d a b tk s
  | .nadd fmt h a b tk => Sys2Proof.Machine.execNadd fmt h a b tk s
  | .namoAdd ty h a b tk => Sys2Proof.Machine.execNamoAdd ty h a b tk s
  | .namoMax ty h a b tk => Sys2Proof.Machine.execNamoMax ty h a b tk s
  | .namoSwap ty h a b tk => Sys2Proof.Machine.execNamoSwap ty h a b tk s
  | .namoCas ty h a b tk => Sys2Proof.Machine.execNamoCas ty h a b tk s
  | .nfence tk => Sys2Proof.Machine.execNfence tk s
  | .nfencePoll d tk => Sys2Proof.Machine.execNfencePoll d tk s
  | .nseq a tk => Sys2Proof.Machine.execNseq a tk s
  | .rwaitAe a tk => Sys2Proof.Machine.execRwaitAe a tk s
  | .tkq d a tk => Sys2Proof.Machine.execTkq d a tk s
  | .tkqCnt d tk => Sys2Proof.Machine.execTkqCnt d tk s
  | .pft h a b tk => Sys2Proof.Machine.execPft h a b tk s
  | .tld d a b fmt tk w => Sys2Proof.Machine.execTld d a b fmt tk w s
  | .tldt d a b fmt tk w => Sys2Proof.Machine.execTldt d a b fmt tk w s
  | .tst d a b fmt tk twm thm rm ovf => Sys2Proof.Machine.execTst d a b fmt tk twm thm rm ovf s
  | .rcallAe d a h tk w => Sys2Proof.Machine.execRcallAe d a h tk w s
  | .vadd d a b fmt tk => Sys2Proof.Machine.execVadd d a b fmt tk s
  | .vsub d a b fmt tk => Sys2Proof.Machine.execVsub d a b fmt tk s
  | .vmul d a b fmt tk => Sys2Proof.Machine.execVmul d a b fmt tk s
  | .vfma d a b fmt tk => Sys2Proof.Machine.execVfma d a b fmt tk s
  | .vfms d a b fmt tk => Sys2Proof.Machine.execVfms d a b fmt tk s
  | .vmin d a b fmt tk => Sys2Proof.Machine.execVmin d a b fmt tk s
  | .vmax d a b fmt tk => Sys2Proof.Machine.execVmax d a b fmt tk s
  | .vand d a b fmt tk => Sys2Proof.Machine.execVand d a b fmt tk s
  | .vor d a b fmt tk => Sys2Proof.Machine.execVor d a b fmt tk s
  | .vxor d a b fmt tk => Sys2Proof.Machine.execVxor d a b fmt tk s
  | .vshl d a b fmt tk => Sys2Proof.Machine.execVshl d a b fmt tk s
  | .vshr d a b fmt tk => Sys2Proof.Machine.execVshr d a b fmt tk s
  | .vsha d a b fmt tk => Sys2Proof.Machine.execVsha d a b fmt tk s
  | .vabs d a fmt tk => Sys2Proof.Machine.execVabs d a fmt tk s
  | .vneg d a fmt tk => Sys2Proof.Machine.execVneg d a fmt tk s
  | .vwadd d a b fmt tk => Sys2Proof.Machine.execVwadd d a b fmt tk s
  | .vwmul d a b fmt tk => Sys2Proof.Machine.execVwmul d a b fmt tk s
  | .vwfma d a b fmt tk => Sys2Proof.Machine.execVwfma d a b fmt tk s
  | .vnrw d a src fmt tk => Sys2Proof.Machine.execVnrw d a src fmt tk s
  | .vcvt d a src fmt tk => Sys2Proof.Machine.execVcvt d a src fmt tk s
  | .vqnt d a ty fmt tk => Sys2Proof.Machine.execVqnt d a ty fmt tk s
  | .vdqt d a fmt tk => Sys2Proof.Machine.execVdqt d a fmt tk s
  | .vcmp c p a b fmt tk => Sys2Proof.Machine.execVcmp c p a b fmt tk s
  | .vsel d a b fmt tk => Sys2Proof.Machine.execVsel d a b fmt tk s
  | .pand d a b tk => Sys2Proof.Machine.execPand d a b tk s
  | .por d a b tk => Sys2Proof.Machine.execPor d a b tk s
  | .pxor d a b tk => Sys2Proof.Machine.execPxor d a b tk s
  | .pnot d a tk => Sys2Proof.Machine.execPnot d a tk s
  | .pcnt d a sz tk => Sys2Proof.Machine.execPcnt d a sz tk s
  | .pfirst d a sz tk => Sys2Proof.Machine.execPfirst d a sz tk s
  | .pstage p a sz m tk => Sys2Proof.Machine.execPstage p a sz m tk s
  | .vperm d a b fmt tk => Sys2Proof.Machine.execVperm d a b fmt tk s
  | .vshuf d a b tk => Sys2Proof.Machine.execVshuf d a b tk s
  | .vbcast d a fmt tk => Sys2Proof.Machine.execVbcast d a fmt tk s
  | .vextr d a b fmt tk => Sys2Proof.Machine.execVextr d a b fmt tk s
  | .vins d a b fmt tk => Sys2Proof.Machine.execVins d a b fmt tk s
  | .vslide d a b fmt tk => Sys2Proof.Machine.execVslide d a b fmt tk s
  | .vzip d a b fmt tk => Sys2Proof.Machine.execVzip d a b fmt tk s
  | .vuzp d a fmt tk => Sys2Proof.Machine.execVuzp d a fmt tk s
  | .vrsum d a fmt tk => Sys2Proof.Machine.execVrsum d a fmt tk s
  | .vrmax d a fmt tk => Sys2Proof.Machine.execVrmax d a fmt tk s
  | .vrmin d a fmt tk => Sys2Proof.Machine.execVrmin d a fmt tk s
  | .vscan d a fmt tk => Sys2Proof.Machine.execVscan d a fmt tk s
  | .vsegr d a p fmt tk => Sys2Proof.Machine.execVsegr d a p fmt tk s
  | .vsort d a fmt tk => Sys2Proof.Machine.execVsort d a fmt tk s
  | .vsortDesc d a fmt tk => Sys2Proof.Machine.execVsortDesc d a fmt tk s
  | .vuniq p a fmt tk => Sys2Proof.Machine.execVuniq p a fmt tk s
  | .vexp2 d a tk => Sys2Proof.Machine.execVexp2 d a tk s
  | .vlog2 d a tk => Sys2Proof.Machine.execVlog2 d a tk s
  | .vrcp d a tk => Sys2Proof.Machine.execVrcp d a tk s
  | .vrsq d a tk => Sys2Proof.Machine.execVrsq d a tk s
  | .vexp d a tk => Sys2Proof.Machine.execVexp d a tk s
  | .vtanh d a tk => Sys2Proof.Machine.execVtanh d a tk s
  | .vsig d a tk => Sys2Proof.Machine.execVsig d a tk s
  | .vgelu d a tk => Sys2Proof.Machine.execVgelu d a tk s
  | .vhash d fmt tk => Sys2Proof.Machine.execVhash d fmt tk s
  | .vdrop d a b fmt tk => Sys2Proof.Machine.execVdrop d a b fmt tk s
  | .vld d a hf h fmt tk => Sys2Proof.Machine.execVld d a hf h fmt tk s
  | .vst d a hf h fmt tk => Sys2Proof.Machine.execVst d a hf h fmt tk s
  | .vlds d a b fmt tk => Sys2Proof.Machine.execVlds d a b fmt tk s
  | .vsts d a b fmt tk => Sys2Proof.Machine.execVsts d a b fmt tk s
  | .vgth d a b fmt tk => Sys2Proof.Machine.execVgth d a b fmt tk s
  | .vsct d a b fmt tk => Sys2Proof.Machine.execVsct d a b fmt tk s
  | .accrd d a tk => Sys2Proof.Machine.execAccrd d a tk s
  | .accwr d a tk => Sys2Proof.Machine.execAccwr d a tk s
  | .vrotb a tk => Sys2Proof.Machine.execVrotb a tk s
  | .vdefer k1 a p fmt tk => Sys2Proof.Machine.execVdefer k1 a p fmt tk s
  | .vdrain d a fmt tk => Sys2Proof.Machine.execVdrain d a fmt tk s
  | .vdqn d a tk => Sys2Proof.Machine.execVdqn d a tk s
  | .extendedVectorForm o w => Sys2Proof.Machine.execExtendedVectorForm o w s
  | .xcopy d a b tk => Sys2Proof.Machine.execXcopy d a b tk s
  | .xmcast m d a b tk => Sys2Proof.Machine.execXmcast m d a b tk s
  | .xrot d a b tk => Sys2Proof.Machine.execXrot d a b tk s
  | .xfill d a b tk => Sys2Proof.Machine.execXfill d a b tk s
  | .binit a b tk => Sys2Proof.Machine.execBinit a b tk s
  | .binitClr a b tk => Sys2Proof.Machine.execBinitClr a b tk s
  | .bwait a b tk => Sys2Proof.Machine.execBwait a b tk s
  | .bqry d a tk => Sys2Proof.Machine.execBqry d a tk s
  | .barr tk => Sys2Proof.Machine.execBarr tk s
  | .fsend a b tk => Sys2Proof.Machine.execFsend a b tk s
  | .frecv a tk => Sys2Proof.Machine.execFrecv a tk s
  | .fwiden a tk => Sys2Proof.Machine.execFwiden a tk s
  | .xltx need h a b tk => Sys2Proof.Machine.execXltx need h a b tk s
  | .xstat d b tk => Sys2Proof.Machine.execXstat d b tk s
  | .xstatWait d a b tk => Sys2Proof.Machine.execXstatWait d a b tk s
  | .xcancel d b tk => Sys2Proof.Machine.execXcancel d b tk s
  | .xcopy2d d a b tk rows1 => Sys2Proof.Machine.execXcopy2d d a b tk rows1 s
  | .freq d a tk dur => Sys2Proof.Machine.execFreq d a tk dur s
  | .old d a sz => Sys2Proof.Machine.execOld d a sz s
  | .ost d a sz => Sys2Proof.Machine.execOst d a sz s
  | .oamoAdd ty a b => Sys2Proof.Machine.execOamoAdd ty a b s
  | .oamoMax ty a b => Sys2Proof.Machine.execOamoMax ty a b s
  | .oamoSwap ty a b => Sys2Proof.Machine.execOamoSwap ty a b s
  | .oamoCas ty a b => Sys2Proof.Machine.execOamoCas ty a b s
  | .ovadd d a b => Sys2Proof.Machine.execOvadd d a b s
  | .ovmul d a b => Sys2Proof.Machine.execOvmul d a b s
  | .ovfma d a b => Sys2Proof.Machine.execOvfma d a b s
  | .ovmax d a b => Sys2Proof.Machine.execOvmax d a b s
  | .ovld d a => Sys2Proof.Machine.execOvld d a s
  | .ovst d a => Sys2Proof.Machine.execOvst d a s
  | .oreply n a => Sys2Proof.Machine.execOreply n a s
  | .mnop => Sys2Proof.Machine.execMnop s
  | .mma r => Sys2Proof.Machine.execMma r s
  | .mmaz r => Sys2Proof.Machine.execMmaz r s
  | .bload r => Sys2Proof.Machine.execBload r s
  | .bslot r => Sys2Proof.Machine.execBslot r s
  | .accz r => Sys2Proof.Machine.execAccz r s
  | .drain r => Sys2Proof.Machine.execDrain r s
  | .prj r => Sys2Proof.Machine.execPrj r s
  | .prjadj r => Sys2Proof.Machine.execPrjadj r s
  | .semsig h => Sys2Proof.Machine.execSemsig h s
  | .abank r => Sys2Proof.Machine.execAbank r s
  | .translationLookup c e id => Sys2Proof.Machine.execTranslationLookup c e id s
  | .pageWalkEnd c e id => Sys2Proof.Machine.execPageWalkEnd c e id s
  | .invalidationComplete id => Sys2Proof.Machine.execInvalidationComplete id s
  | .tileRequest c id => Sys2Proof.Machine.execTileRequest c id s
  | .stepWaitResume c id => Sys2Proof.Machine.execStepWaitResume c id s
  | .waitExpired c id => Sys2Proof.Machine.execWaitExpired c id s
  | .qldAppend c id => Sys2Proof.Machine.execQldAppend c id s
  | .gatherPerform c id => Sys2Proof.Machine.execGatherPerform c id s
  | .nredPerform c id => Sys2Proof.Machine.execNredPerform c id s
  | .naddPerform c id => Sys2Proof.Machine.execNaddPerform c id s
  | .namoPerform c id => Sys2Proof.Machine.execNamoPerform c id s
  | .nearMemoryReply c id => Sys2Proof.Machine.execNearMemoryReply c id s
  | .bankSequencerRun c id => Sys2Proof.Machine.execBankSequencerRun c id s
  | .stepRelease c id => Sys2Proof.Machine.execStepRelease c id s
  | .temperUpdate c id => Sys2Proof.Machine.execTemperUpdate c id s
  | .copyLanding c slot => Sys2Proof.Machine.execCopyLanding c slot s
  | .xrotRotationStart c => Sys2Proof.Machine.execXrotRotationStart c s
  | .promiseMiss c => Sys2Proof.Machine.execPromiseMiss c s
  | .remoteCallStart o f => Sys2Proof.Machine.execRemoteCallStart o f s
  | .callRunTimeout o f => Sys2Proof.Machine.execCallRunTimeout o f s
  | .callReply c e tag => Sys2Proof.Machine.execCallReply c e tag s
  | .callLost c e => Sys2Proof.Machine.execCallLost c e s
  | .remoteAccessArrival r => Sys2Proof.Machine.execRemoteAccessArrival r s
  | .remoteReply c e id data => Sys2Proof.Machine.execRemoteReply c e id data s
  | .remoteFaultReply c e id code addr pc word => Sys2Proof.Machine.execRemoteFaultReply c e id code addr pc word s
  | .faultTicket c e id => Sys2Proof.Machine.execFaultTicket c e id s
  | .replayNotice c peer page => Sys2Proof.Machine.execReplayNotice c peer page s
  | .ticketExpired c entry => Sys2Proof.Machine.execTicketExpired c entry s
  | .exportWalkEnd c page => Sys2Proof.Machine.execExportWalkEnd c page s
  | .ticketCancelNotice peer strm c page => Sys2Proof.Machine.execTicketCancelNotice peer strm c page s
  | .peerUnreach c e id => Sys2Proof.Machine.execPeerUnreach c e id s
  | .hostLossNotice peer => Sys2Proof.Machine.execHostLossNotice peer s
  | .slotSendStart c slot => Sys2Proof.Machine.execSlotSendStart c slot s
  | .slotArrival c peer chan data => Sys2Proof.Machine.execSlotArrival c peer chan data s
  | .bookingLapse c n => Sys2Proof.Machine.execBookingLapse c n s
  | .tokenDeadlock c => Sys2Proof.Machine.execTokenDeadlock c s
  | .impreciseReportTimeout c e => Sys2Proof.Machine.execImpreciseReportTimeout c e s
  | .regionLong c e => Sys2Proof.Machine.execRegionLong c e s
  | .doorbellWrite c q tail => Sys2Proof.Machine.execDoorbellWrite c q tail s
  | .submissionFetch c q => Sys2Proof.Machine.execSubmissionFetch c q s
  | .graphStart c q => Sys2Proof.Machine.execGraphStart c q s
  | .graphNodeWalk g n => Sys2Proof.Machine.execGraphNodeWalk g n s
  | .graphNodeCopy g n => Sys2Proof.Machine.execGraphNodeCopy g n s
  | .copyNodeComplete g n => Sys2Proof.Machine.execCopyNodeComplete g n s
  | .graphNodeCondition g n => Sys2Proof.Machine.execGraphNodeCondition g n s
  | .graphNodeSwitch g n => Sys2Proof.Machine.execGraphNodeSwitch g n s
  | .graphNodeEvent g n => Sys2Proof.Machine.execGraphNodeEvent g n s
  | .graphNodeLoop g n => Sys2Proof.Machine.execGraphNodeLoop g n s
  | .poolAllocation => Sys2Proof.Machine.execPoolAllocation s
  | .placementDecision => Sys2Proof.Machine.execPlacementDecision s
  | .energyBudgetUpdate => Sys2Proof.Machine.execEnergyBudgetUpdate s
  | .headroomReading cluster h => Sys2Proof.Machine.execHeadroomReading cluster h s
  | .preemptionRequest => Sys2Proof.Machine.execPreemptionRequest s
  | .gangDiscard g => Sys2Proof.Machine.execGangDiscard g s
  | .preemptionWithdrawn g => Sys2Proof.Machine.execPreemptionWithdrawn g s
  | .bankReadyTimeout c => Sys2Proof.Machine.execBankReadyTimeout c s
  | .pageFaultRecordReoffer c bankB => Sys2Proof.Machine.execPageFaultRecordReoffer c bankB s
  | .functionLevelReset c => Sys2Proof.Machine.execFunctionLevelReset c s
  | .moduleReset => Sys2Proof.Machine.execModuleReset s
  | .moduleResetDone => Sys2Proof.Machine.execModuleResetDone s
  | .hostLinkLoss => Sys2Proof.Machine.execHostLinkLoss s
  | .hostLossDiscardTimeout g => Sys2Proof.Machine.execHostLossDiscardTimeout g s
  | .hostLinkReturn => Sys2Proof.Machine.execHostLinkReturn s
  | .thermalTrip die => Sys2Proof.Machine.execThermalTrip die s
  | .thermalTripEnd die => Sys2Proof.Machine.execThermalTripEnd die s
  | .operatingPointChange => Sys2Proof.Machine.execOperatingPointChange s
  | .healthWordUpdate h => Sys2Proof.Machine.execHealthWordUpdate h s
  | .coreMemoryError c => Sys2Proof.Machine.execCoreMemoryError c s
  | .refreshErrorFound addr uncorrected => Sys2Proof.Machine.execRefreshErrorFound addr uncorrected s
  | .powerDownEntry chan => Sys2Proof.Machine.execPowerDownEntry chan s
  | .selfRefreshEntry chan => Sys2Proof.Machine.execSelfRefreshEntry chan s
  | .sqctlWrite c q v => Sys2Proof.Machine.execSqctlWrite c q v s
  | .fqctlWrite c v => Sys2Proof.Machine.execFqctlWrite c v s
  | .fqctlRead c => Sys2Proof.Machine.execFqctlRead c s
  | .fqresume c v => Sys2Proof.Machine.execFqresume c v s
  | .kitregRegister c ptr => Sys2Proof.Machine.execKitregRegister c ptr s
  | .kitregUnregister c ptr => Sys2Proof.Machine.execKitregUnregister c ptr s
  | .invctlGo c v => Sys2Proof.Machine.execInvctlGo c v s
  | .exresume c v => Sys2Proof.Machine.execExresume c v s
  | .devctlMrst => Sys2Proof.Machine.execDevctlMrst s
  | .devctlHoldclr => Sys2Proof.Machine.execDevctlHoldclr s
  | .opctlWrite v => Sys2Proof.Machine.execOpctlWrite v s
  | .ebmaxWrite v => Sys2Proof.Machine.execEbmaxWrite v s
  | .logrdSelect v => Sys2Proof.Machine.execLogrdSelect v s
  | .logrdDrain => Sys2Proof.Machine.execLogrdDrain s
  | .instructionMemoryWrite w c e addr v => Sys2Proof.Machine.execInstructionMemoryWrite w c e addr v s
  | .registerWrite p off v => Sys2Proof.Machine.execRegisterWrite p off v s
  | .sensorRead x => Sys2Proof.Machine.execSensorRead x s
  | .firmwareUpdate image key signature complete => Sys2Proof.Machine.execFirmwareUpdate image key signature complete s
  | .attestation => Sys2Proof.Machine.execAttestation s
  | .getHealth => Sys2Proof.Machine.execGetHealth s
  | .readLog n => Sys2Proof.Machine.execReadLog n s
  | .resetModule => Sys2Proof.Machine.execResetModule s
  | .releaseHold => Sys2Proof.Machine.execReleaseHold s
  | .readEnergy => Sys2Proof.Machine.execReadEnergy s
  | .functionLevelResetDone c => Sys2Proof.Machine.execFunctionLevelResetDone c s
  | .kitRegistrationDone c => Sys2Proof.Machine.execKitRegistrationDone c s
  | .timeBaseLock locked => Sys2Proof.Machine.execTimeBaseLock locked s
  | .powerLoss => Sys2Proof.Machine.execPowerLoss s

end Sys2Proof.Machine
end

