-- ==== Sys2Proof/Machine/Step.lean ====
section
/-! DEFINITION.  One step of the machine: one turn of its schedule (entry 1), or, when the schedule is empty, one
turn of the agent that executes; and the state whose next step runs a given instruction. -/

namespace Sys2Proof.Machine

/-- What a prepared turn answers. -/
def runPrep : Prep → Host.Outcome State Fault Refusal
  | .exec i s => exec i s
  | .other s => .next s

/-- The turn of an agent; there is no other unit than those the module has. -/
def runAgent (a : Agent) (s : State) : Host.Outcome State Fault Refusal :=
  if State.agentExists a then runPrep (s.agentTurn a) else .fault .noSuchUnit

/-- One turn of the schedule. -/
def runTurn (t : Turn) (s : State) : Host.Outcome State Fault Refusal :=
  match t with
  | .run a => runAgent a s
  | .event i => if Instr.isEvent i then exec i s else .refused .notAnEvent
  | .pass n => .next (s.pass n)
  | .writeStep n => .next (s.writeStepTurn n)
  | .widen n q scope => .next (s.widenTurn n q scope)
  | .settle => .next s.settle
  | .signal c e => .next (s.signalTurn c e)
  | .hostWrite a bs => .next (s.hostWriteTurn a bs)
  | .evict n => .next (s.evictTurn n)
  | .energy n uj => .next (s.energyTurn n uj)
  | .memError a => .next (s.memErrorTurn a)
  | .coreCorrected _ a => .next (s.coreCorrected a)
  | .request n => .next (s.requestTurn n)
  | .defer c e => .next (s.deferTurn c e)
  | .read c e n => .next (s.readTurn c e n)
  | .peek c e a n => .next (s.peekTurn c e a n)
  | .ack n => .next (s.ackTurn n)
  | .gateway n => .next (s.gatewayTurn n)
  | .sensor n v => .next (s.sensorTurn n v)
  | .arrive c id => .next (s.arriveTurn c id)
  | .hostRead p off => .next (s.hostRead p off)
  | .hostLoad a => .next (s.hostLoadTurn a)

/-- One step. -/
def step (s : State) : Host.Outcome State Fault Refusal :=
  match s.turns with
  | [] => runAgent s.cur s
  | t :: ts => runTurn t { s with turns := ts }

namespace State

/-- Core 0 with one engine that runs the bytes placed at its PC. -/
def withCode (s : State) (e : Eng) (bytes : List Byte) : State :=
  let b := (s.core 0).a
  let t := b.get e
  let b := { b.set e { t with life := .running, imem := t.imem.writeN t.pc.toNat bytes } with st := .run, pf := none }
  { s.setCore 0 { s.core 0 with a := b, runB := false } with cur := .eng 0 e, turns := [] }

/-- A call frame of outpost 0 that runs the bytes placed at its PC. -/
def withFrameCode (s : State) (bytes : List Byte) : State :=
  let x := s.frame 0 0
  let t := x.st
  let x := { x with busy := true, st := { t with life := .running, imem := t.imem.writeN t.pc.toNat bytes } }
  { s.setFrame 0 0 x with cur := .frame 0 0, turns := [] }

/-- The state whose next step fetches and runs an instruction whose bits are `w`: its bytes stand at the PC of an
engine of core 0 whose map decodes it, or of a call frame of outpost 0 (entry 5). -/
def withFetchWord (s : State) (_nbits w : Nat) : State :=
  let bytes := natBytes 8 w
  match decodeAny (BitVec.ofNat 32 w) (BitVec.ofNat 32 (w >>> 32)) with
  | some (.eng e, _) => s.withCode e bytes
  | some (.outpost, _) => s.withFrameCode bytes
  | none => s.withCode .ce bytes

end State

end Sys2Proof.Machine
end

