-- ==== Sys2Proof/Safety.lean ====
section
/-! DEFINITION.  The terms in which the statements speak: what an instruction leaves as it is, where it completes, and
what a safe state is. -/

namespace Sys2Proof.Machine

/-! ### Frames of a stream -/

/-- No active loop of the stream ends just before an address (R113). -/
def Stream.noLoopEnd (t : Stream) (next : Word) : Prop :=
  ∀ n ∈ t.order, (t.loop n).active = true → (t.loop n).le + 4 ≠ next

/-- `x` is `t` after an instruction of `n` bytes that does not transfer: but for the program counter and what the end
check of a loop changes with it, only what a waiting instruction leaves and the count of a sealed region differ; where
no loop ends there, the program counter is the next instruction's and nothing else moves. -/
structure Stream.Moves (t : Stream) (n : Nat) (x : Stream) : Prop where
  rest : x = { t with
    pc := x.pc, lc := x.lc, p := x.p, vrb := x.vrb, waited := false, waitId := 0, stuck := false, blocked := false
    waitsOn := none, held := [], took := {}, undo := none
    sealCount := if t.sealed then t.sealCount + 1 else t.sealCount }
  straight : t.noLoopEnd (t.pc + BitVec.ofNat 64 n) →
    x.pc = t.pc + BitVec.ofNat 64 n ∧ x.lc = t.lc ∧ x.p = t.p ∧ x.vrb = t.vrb

/-- The stream after a transfer to an address: nothing but the program counter, what a waiting instruction leaves and the
count of a sealed region differs. -/
def Stream.landed (t : Stream) (target : Word) : Stream :=
  { t with
    pc := target, waited := false, waitId := 0, stuck := false, blocked := false, waitsOn := none, held := []
    took := {}, undo := none
    sealCount := if t.sealed then t.sealCount + 1 else t.sealCount }

/-- Every read of every party on every path gives in `t` what it gives in `s`. -/
def State.SameReads (s t : State) : Prop := ∀ p q a, t.readByte p q a = s.readByte p q a
/-- Every read gives in `t` what it gives in `s`, but for the 256 bytes of a region record. -/
def State.ReadsBut (s t : State) (rec : Option Nat) : Prop :=
  ∀ p q a, (∀ x, rec = some x → a < x ∨ x + 256 ≤ a) → t.readByte p q a = s.readByte p q a

/-! ### Where an instruction completes -/

/-- The instruction answers a next state: `u` in which the executing stream has moved past the `n` bytes. -/
def Completes (i : Instr) (s u : State) (n : Nat) : Prop :=
  ∃ x, exec i s = .next (u.setMe x) ∧ u.me.Moves n x

/-- The instruction writes one general register and nothing else: every other register keeps its value, register 0
reads as 0, and nothing outside the stream changes. -/
def WritesG (i : Instr) (s : State) (n : Nat) (d : GReg) (v : Word) : Prop :=
  ∃ x, exec i s = .next (s.setMe x) ∧ (∀ r, x.rg r = if r = d ∧ r ≠ 0 then v else s.me.rg r) ∧
    s.me.Moves n { x with g := s.me.g } ∧ s.SameReads (s.setMe x)

/-- The same of a load that reads some ranges: the stream gives up what it has read ahead of them, and their channels of
the LPDDR tier have been asked (R281). -/
def ReadsG (i : Instr) (s : State) (rs : List (Nat × Nat)) (n : Nat) (d : GReg) (v : Word) : Prop :=
  ∃ x, exec i s = .next ((s.ask rs).setMe x) ∧ (∀ r, x.rg r = if r = d ∧ r ≠ 0 then v else s.me.rg r) ∧
    s.me.Moves n { x with g := s.me.g, pre := s.me.pre } ∧ (∀ u ∈ x.pre, u ∈ s.me.pre) ∧
    s.SameReads ((s.ask rs).setMe x)

/-- The same for a step register. -/
def WritesK (i : Instr) (s : State) (n : Nat) (d : KReg) (v : W32) : Prop :=
  ∃ x, exec i s = .next (s.setMe x) ∧ (∀ r, x.rk r = if r = d ∧ r ≠ 0 then v else s.me.rk r) ∧
    s.me.Moves n { x with k := s.me.k } ∧ s.SameReads (s.setMe x)

/-- The instruction transfers: `u` in which the executing stream stands at the target. -/
def GoesTo (i : Instr) (s u : State) (target : Word) : Prop := exec i s = .next (u.setMe (u.me.landed target))

/-- The stream stands at its instruction, which has not taken effect: it waits, and one tick passes; the count of R151 pauses
where it is not stuck. -/
def Waits (i : Instr) (s : State) : Prop :=
  ∃ k : Bool, exec i s = .next (((if k then s else s.pause).setMe { s.me with blocked := true, stuck := k }).pass 1)

/-- A scalar load of a size code from an address of this package, `via` a handle where it goes through one, all its checks
passed: it is issued into the path buffer where the schedule asks for that; else it waits for older accesses of the same
bytes that have still to be made, and then its register receives the bytes that the stream has read ahead, once, or those
that it reads now, unless an uncorrectable error holds them. -/
structure LoadsAt (i : Instr) (s : State) (len : Nat) (d : GReg) (sz : BitVec 3) (a : Nat) (via : Option Handle) : Prop where
  buffered : s.me.lazy = true →
    Completes i s (s.deferLoad { id := 0, pc := 0, addr := a, n := sizeBytes sz, dest := .greg d sz, via := via }) len
  held : s.me.lazy = false → s.readFirst a (sizeBytes sz) = true → Waits i s
  ahead : ∀ bs, s.me.lazy = false → s.readFirst a (sizeBytes sz) = false → s.me.ahead a (sizeBytes sz) = some bs →
    ReadsG i s [] len d (extendLoad sz bs) ∧
      ∀ x, exec i s = .next x → ∀ u ∈ x.me.pre, overlap u.1 u.2.length a (sizeBytes sz) = false
  lost : s.me.lazy = false → s.readFirst a (sizeBytes sz) = false → s.me.ahead a (sizeBytes sz) = none →
    s.eccHit a (sizeBytes sz) = true → exec i s = .next (s.memUncorr a)
  reads : s.me.lazy = false → s.readFirst a (sizeBytes sz) = false → s.me.ahead a (sizeBytes sz) = none →
    s.eccHit a (sizeBytes sz) = false →
    ReadsG i s [(a, sizeBytes sz)] len d (extendLoad sz ((List.range (sizeBytes sz)).map fun j => s.readByte s.party s.ownPath (a + j)))

/-! ### Region records (R412) -/

/-- Where the record of a stream of a core's job lies in the memory of its context, when the job has a slot whose address
translates. -/
def State.recordAt (s : State) (c : Nat) (e : Eng) : Option Nat :=
  let j := (s.bank c).job
  if s.slots.any fun x => !x.ended && x.ctx = j.ctx && x.idx = j.slot then
    s.ctxAddr j.ctx ((s.ctx j.ctx).ckbase + BitVec.ofNat 64 (1024 * j.slot + 256 * e.num)) 2
  else none
/-- Where the record of the stream that executes lies. -/
def State.myRecord (s : State) : Option Nat :=
  match s.cur with
  | .eng c e => s.recordAt c e
  | _ => none

/-! ### Token patterns (R148) -/

/-- Whether the instruction has a wait step before it. -/
def State.waitsFor (s : State) (tk : Tk) : Bool :=
  (decide (patWait (s.me.pattern tk) ≠ 0) || patSwe (s.me.pattern tk)) && !s.me.waited

/-- The state in which a private instruction takes effect: its wait step, when it has one that it has not taken, is
taken now; none when that is not possible, or when the stream owes a report. -/
def State.afterWait (s : State) (tk : Tk) : Option State :=
  match s.cur with
  | .eng c e =>
    if s.waitsFor tk then
      if s.me.owed = [] ∧ (s.bank c).canWait e (s.me.pattern tk) = true then
        some ((s.modBank c fun b => b.takeWait e (s.me.pattern tk)).modMe fun t =>
          { t with waited := true, waitsOn := none, took := s.taking c e (s.me.pattern tk) })
      else none
    else some s
  | _ => none

/-- A private instruction completes: its effect `u`, the move past its `n` bytes, and then its signals. -/
def CompletesP (i : Instr) (s u : State) (tk : Tk) (n : Nat) : Prop :=
  ∃ x, exec i s = .next ((u.setMe x).finishMe (patSig (s.me.pattern tk))) ∧ u.me.Moves n x

/-- A private instruction transfers: its effect `u`, its signals, and then the target. -/
def GoesToP (i : Instr) (s u : State) (tk : Tk) (target : Word) : Prop :=
  exec i s = .next ((u.finishMe (patSig (s.me.pattern tk))).setMe
    ((u.finishMe (patSig (s.me.pattern tk))).me.landed target))

/-- A private instruction, its wait step taken in `w`, writes one general register and nothing else. -/
def WritesGP (i : Instr) (s w : State) (tk : Tk) (n : Nat) (d : GReg) (v : Word) : Prop :=
  ∃ u, CompletesP i s (w.setMe u) tk n ∧ u = { w.me with g := u.g } ∧
    (∀ r, u.rg r = if r = d ∧ r ≠ 0 then v else w.me.rg r)

/-- A private instruction, its wait step taken in `w`, waits in `u`: the program counter stands and one tick passes. -/
def WaitsP (i : Instr) (u : State) (s : State) : Prop :=
  ∃ k : Bool, exec i s = .next (((if k then u else u.pause).setMe { u.me with blocked := true, stuck := k }).pass 1)

/-! ### Families that share a shape -/

/-- The atomic of an operator (R321). -/
def amoInstr (op : AtomOp) (loc : Bool) (h : HReg) (ty : BitVec 2) (a b : GReg) (tk : Tk) : Instr :=
  match op with
  | .add => .amoAdd loc h ty a b tk
  | .min => .amoMin loc h ty a b tk
  | .max => .amoMax loc h ty a b tk
  | .and => .amoAnd loc h ty a b tk
  | .or => .amoOr loc h ty a b tk
  | .xor => .amoXor loc h ty a b tk
  | .swap => .amoSwap loc h ty a b tk
  | .cas => .amoCas loc h ty a b tk

/-- The tensor that a weight-step instruction names, when every check of R326 passes: its descriptor and its parameter
block, as the stream reads them on the path of the instruction (R367). -/
structure State.NamesTensor (w : State) (q : Path) (a : GReg) (d : Desc) (t : Tpb) : Prop where
  record : w.chkRead q (w.g a).toNat 64 64 = .ok
  desc : parseDesc (w.scratchBytes q (w.g a).toNat 64) = some d
  hallmarked : d.hv = true
  nearby : Handle.remote (w.h d.dh) = false ∧ Handle.remote (w.h d.ph) = false
  block : w.chkHandle d.ph 0 256 1 1 = .ok
  data : w.chkHandle d.dh d.doff 4 4 1 = .ok
  tpb : w.readTpb w.party w.nextId q d (w.h d.ph) (w.h d.dh) = .ok t

/-- What the checks of a weight-step instruction leave. -/
def State.tensorRead (w : State) (t : Tpb) : State := w.learnTpb t.at0

/-- A request is added to the stream's outstanding ones and nothing else of the stream changes but its seal: `u` after
`w`, with the request's kind, the signals that it carries, and the region record that a seal writes. -/
def State.AddsReq (w u : State) (kind : ReqKind) (sig : Sig) (rec : Option Nat := none) : Prop :=
  u.me.reqs = w.me.reqs ++
    [{ id := w.nextId, seq := w.nextId, pc := w.me.pc, w1 := (w.reportedWords w.me.pc).extractLsb' 0 32
       w2 := (w.reportedWords w.me.pc).extractLsb' 32 32, kind := kind, sig := sig }] ∧
  u.me.g = w.me.g ∧ u.me.k = w.me.k ∧ u.me.h = w.me.h ∧ u.me.pc = w.me.pc ∧ w.ReadsBut u rec

/-- The same for a near-memory operation, which is posted to the queue of its unit (R370). -/
def State.AddsNear (w u : State) (kind : NearKind) (rec : Option Nat := none) : Prop :=
  u.me.near = w.me.near ++
    [{ id := w.nextId, seq := w.nextId, pc := w.me.pc, w1 := (w.reportedWords w.me.pc).extractLsb' 0 32, kind := kind
       unit := kind.unit }] ∧
  u.nearQ = tset w.nearQ kind.unit (tget [] w.nearQ kind.unit ++ [w.nextId]) ∧
  u.me.g = w.me.g ∧ u.me.k = w.me.k ∧ u.me.h = w.me.h ∧ u.me.pc = w.me.pc ∧ w.ReadsBut u rec

/-! ### Vector instructions -/

/-- The elementwise instruction of an arithmetic operator (R167). -/
def arithInstr (op : VArith) (d a b : VReg) (fmt : Fmt) (tk : Tk) : Instr :=
  match op with
  | .add => .vadd d a b fmt tk
  | .sub => .vsub d a b fmt tk
  | .mul => .vmul d a b fmt tk
  | .fma => .vfma d a b fmt tk
  | .fms => .vfms d a b fmt tk
  | .min => .vmin d a b fmt tk
  | .max => .vmax d a b fmt tk
/-- That of a bitwise operator (R167). -/
def logicInstr (op : VLogic) (d a b : VReg) (fmt : Fmt) (tk : Tk) : Instr :=
  match op with
  | .and => .vand d a b fmt tk
  | .or => .vor d a b fmt tk
  | .xor => .vxor d a b fmt tk
  | .shl => .vshl d a b fmt tk
  | .shr => .vshr d a b fmt tk
  | .sha => .vsha d a b fmt tk

/-- The type, rounding mode and policy with which an instruction of one type runs in its short form: its own, or those of
the format-table entry that it reads, whose three types must be one that it accepts (R155, R165). -/
def State.vResolve (w : State) (types : List Fmt) (fmt : Fmt) : Option VEnv :=
  if fmt = 15 then
    match ftRead w.me 0xF000 with
    | .ok e =>
      if (fld e 0 4 : Fmt) = fld e 4 4 && (fld e 0 4 : Fmt) = fld e 8 4 && types.contains (fld e 0 4 : Fmt) then
        some (State.entryEnv e (fld e 0 4))
      else none
    | .error _ => none
  else if types.contains fmt then some (w.ownEnv {} fmt) else none

/-- The widening instruction of an operator (R168). -/
def wideInstr (op : VWide) (d a b : VReg) (fmt : Fmt) (tk : Tk) : Instr :=
  match op with
  | .add => .vwadd d a b fmt tk
  | .mul => .vwmul d a b fmt tk
  | .fma => .vwfma d a b fmt tk
/-- The special function of a selector (R184). -/
def specialInstr (n : Nat) (d a : VReg) (tk : Tk) : Instr :=
  match n with
  | 0 => .vexp2 d a tk
  | 1 => .vlog2 d a tk
  | 2 => .vrcp d a tk
  | 3 => .vrsq d a tk
  | 4 => .vexp d a tk
  | 5 => .vtanh d a tk
  | 6 => .vsig d a tk
  | _ => .vgelu d a tk
/-- Its function on FP32 codes. -/
def specialFn (n : Nat) : W32 → Num.Spec :=
  match n with
  | 0 => Num.fExp2
  | 1 => Num.fLog2
  | 2 => Num.fRcp
  | 3 => Num.fRsq
  | 4 => Num.fExp
  | 5 => Num.fTanh
  | 6 => Num.fSig
  | _ => Num.fGelu

/-- The entry with which an instruction that has several types runs, the fields that it ignores left out (R155, R165): its own
types where its fmt is not 15, and else those that `entry` says of the format-table entry. -/
def State.vTypes (w : State) (fmt : Fmt) (skip : W32) (own : Prop) (entry : W32 → Prop) : Prop :=
  (fmt ≠ 15 ∧ own) ∨ (fmt = 15 ∧ ∃ e, ftRead w.me skip = .ok e ∧ entry e)

/-- FCW enables no trap (R56). -/
def State.noTraps (w : State) : Prop := fcwNve w.me.fcw = false ∧ fcwDze w.me.fcw = false ∧ fcwOfe w.me.fcw = false

/-- What a vector instruction leaves as it is: every vector register but those named, every general and predicate register
but the one named, the deferral queue, the other streams of the bank, and every byte that anyone reads.  FCW may gain
flags and AMAX may grow; one that loads may give up what the stream has read ahead. -/
structure State.VecFrame (w u : State) (c : Nat) (vs : List Nat) (g : Option GReg) (p : Option PReg) (loads : Bool := false) :
    Prop where
  vregs : ∀ r, r < 64 → r ∉ vs → u.vreg r = w.vreg r
  gregs : ∀ r, some r ≠ g → u.g r = w.g r
  pregs : ∀ r, some r ≠ p → u.p r = w.p r
  stream : u.me = { w.me with fcw := u.me.fcw, amax := u.me.amax, g := u.me.g, p := u.me.p, pre := u.me.pre }
  ahead : (loads = false → u.me.pre = w.me.pre) ∧ ∀ x ∈ u.me.pre, x ∈ w.me.pre
  others : ∀ e, e ≠ .ve → (u.bank c).get e = (w.bank c).get e
  queue : (u.bank c).dq = (w.bank c).dq
  reads : w.SameReads u

/-! ### The matrix engine -/

/-- The matrix engine of a core executes the started command at the head of its queue. -/
def State.RunsCmd (s : State) (c : Nat) (m : MqEntry) : Prop :=
  s.cur = .me c ∧ (∃ rest, (s.bank c).mq = m :: rest) ∧ m.started = true

/-- The value of a row and column of a drained tile after SC, BI and RS, the biases counted from `bias` (R215, R229). -/
def State.preVal (s : State) (c : Nat) (r : DrainRec) (p : DrainParam) (row col bias : Nat) : W32 :=
  let a := s.accGet c (r.tile.row0.toNat + row) (r.tile.col0.toNat * 32 + col)
  let a := if r.sc then Num.mul32 a p.scale else a
  let a := if r.bi then Num.add32 a (BitVec.ofNat 32 (s.scratchNat .mx (p.bias + 4 * bias) 4)) else a
  let sz := if p.rfmt = 0 then 4 else 2
  if r.rs then
    Num.add32 a (Num.rne32 (Num.decodeVal (BitVec.ofNat 4 p.rfmt) (s.scratchNat .mx (p.res + row * p.rstr + sz * col) sz)))
  else a

/-- The biases and the residuals of a drained tile can be read, the biases of `span` rows one after the other; and they
lie where `apart` says. -/
def State.PreReady (s : State) (r : DrainRec) (p : DrainParam) (span : Nat) (apart : Nat → Nat → Prop) : Prop :=
  let n := tileN r.tile.ncols
  let sz := if p.rfmt = 0 then 4 else 2
  (r.bi = true → ∀ t, t < span → s.chkScratch (p.bias + 4 * (t * n)) (4 * n) 4 = .ok ∧
    apart (p.bias + 4 * (t * n)) (4 * n)) ∧
  (r.rs = true → p.rfmt ≤ 2 ∧ ∀ i, i < tileM r.tile.mrows → s.chkScratch (p.res + i * p.rstr) (sz * n) sz = .ok ∧
    apart (p.res + i * p.rstr) (sz * n))

/-- What a drain leaves: the matrix engine reads each result at its place in the destination; the tile is zero under CLR and
unchanged otherwise, as every other accumulator is; and no byte outside the destination has changed, but for those that
`also` names. -/
structure State.Drained (s u : State) (c : Nat) (t : MxTile) (clr : Bool) (sz dst dstr : Nat) (val : Nat → Nat → Nat)
    (also : Nat → Prop) : Prop where
  results : ∀ i j b, i < tileM t.mrows → j < tileN t.ncols → b < sz →
    u.readByte (Party.stream c (s.core c).runB .ce) .mx (windowBase c + dst + i * dstr + sz * j + b) = BitVec.ofNat 8 (val i j / 256 ^ b)
  tile : ∀ row col, col < 256 → u.accGet c row col =
    if clr = true ∧ t.row0.toNat ≤ row ∧ row < t.row0.toNat + tileM t.mrows ∧ t.col0.toNat * 32 ≤ col ∧
      col < t.col0.toNat * 32 + tileN t.ncols then 0 else s.accGet c row col
  bank : u.bank c = s.bank c
  reads : ∀ p q a, (a < windowBase c + dst ∨ windowBase c + dst + (tileM t.mrows - 1) * dstr + tileN t.ncols * sz ≤ a) →
    ¬also a → u.readByte p q a = s.readByte p q a

/-! ### Units that act beside the streams -/

/-- A stream of a bank of a core. -/
def State.bstrm (s : State) (c : Nat) (bankB : Bool) (e : Eng) : Stream := ((s.core c).get bankB).get e
/-- The event leaves this state. -/
def Leaves (i : Instr) (s t : State) : Prop := exec i s = .next t
/-- A translation in flight by its number. -/
def State.HasXlate (s : State) (c : Nat) (e : Eng) (id : Nat) (bankB : Bool) (x : Xlate) : Prop :=
  s.bankWhere c (fun b => (b.get e).xlates.any fun y => y.id = id) = some bankB ∧
    (s.bstrm c bankB e).xlates.find? (fun y => y.id = id) = some x
/-- An outstanding request of an access engine's stream by its number. -/
def State.HasReq (s : State) (c id : Nat) (bankB : Bool) (r : Req) : Prop :=
  s.bankWhere c (fun b => b.ae.reqs.any fun y => y.id = id) = some bankB ∧
    (s.bstrm c bankB .ae).reqs.find? (fun y => y.id = id) = some r
/-- A posted near-memory operation by its number. -/
def State.HasNear (s : State) (c id : Nat) (bankB : Bool) (o : NearOp) : Prop :=
  s.bankWhere c (fun b => b.ae.near.any fun y => y.id = id) = some bankB ∧
    (s.bstrm c bankB .ae).near.find? (fun y => y.id = id) = some o
/-- A busy copy slot of a core. -/
def State.HasCopy (s : State) (c n : Nat) (bankB : Bool) (x : Copy) : Prop :=
  s.bankWhere c (fun b => (b.copy n).busy) = some bankB ∧ ((s.core c).get bankB).copy n = x
/-- A remote access in flight of a stream of a core by its number. -/
def State.HasRem (s : State) (c : Nat) (e : Eng) (id : Nat) (bankB : Bool) (r : RemAcc) : Prop :=
  s.bankWhere c (fun b => (b.get e).rems.any fun y => y.id = id) = some bankB ∧
    (s.bstrm c bankB e).rems.find? (fun y => y.id = id) = some r
/-- A node of a graph is ready, of a type, and its graph and context let it start. -/
def State.NodeReady (s : State) (gid n ty : Nat) (g : Graph) (x : Node) : Prop :=
  s.graph gid = some g ∧ g.nodes[n]? = some x ∧ x.ty = ty ∧ g.abandoned = none ∧ g.ready n = true ∧ (s.ctx g.ctx).reset = none
/-- The translation is over: its offset is written, its handle register holds a handle, the record of what made the handles
is `o`, and nothing else of the stream has changed. -/
def Stream.XlateOver (t u : Stream) (x : Xlate) (h : Handle) (off : Word) (o : Tab HOrigin := t.horig) : Prop :=
  u.rh x.hreg = h ∧ (∀ r, r ≠ x.hreg → u.rh r = t.rh r) ∧ (∀ r, u.rg r = if r = x.greg ∧ r ≠ 0 then off else t.rg r) ∧
    u = { t with g := u.g, h := u.h, horig := o, xlates := t.xlates.filter fun y => y.id ≠ x.id }

/-! ### Stores -/

/-- The instruction stores bytes at an address for a party and a path, and does nothing else but give up what the stream has
read ahead: the party reads them there on that path; every other address, and every other party and path at any address,
reads as before. -/
def Stores (i : Instr) (s : State) (n : Nat) (p : Party) (q : Path) (a : Nat) (bs : List Byte) : Prop :=
  ∃ t, exec i s = .next t ∧ s.me.Moves n { t.me with pre := s.me.pre } ∧
    t = { s with buf := t.buf, nextId := t.nextId }.setMe t.me ∧
    (∀ j (h : j < bs.length), t.readByte p q (a + j) = bs[j]) ∧
    (∀ p' q' b, (p', q') ≠ (p, q) ∨ b < a ∨ a + bs.length ≤ b → t.readByte p' q' b = s.readByte p' q' b)

end Sys2Proof.Machine
end

