-- ==== Sys2Proof/Certificates/Slice0/Obligations.lean ====
section
/-! DEFINITION.  The statements, in the order of the spec: reset, words and the step, the shared subset, the engines, the
units that act beside them, and the machine as a whole.  A statement over several topics is the conjunction of its
`Claims`, one for each. -/

open Sys2Proof Sys2Proof.Machine

/-- R458, R20, R24, R25, R36, R141, R142, R197, R259, R266, R281: what reset leaves.  Every byte of memory reads 0, in the
canonical form, and no write is on its way; every bank is empty and every engine without a job; nothing is pooled, placed
or in flight; health, energy and the error logs are clear; the budget and the idle limits hold their reset values; and a
stream at its start holds the reset values of its registers.  READY, which the reset sequence sets, is set (entry 7), and
TRAPPC and TRAPREC, which no rule resets, are left out. -/
def Obligations.ResetState : Prop :=
  let s := State.reset
  (∀ a, s.mem.read a = 0) ∧ s.mem.wf = true ∧ s.log = [] ∧ s.buf = [] ∧ s.eccBad = [] ∧
  (∀ c bankB, ((s.core c).get bankB).st = .empty ∧ ((s.core c).get bankB).pf = none ∧
    ((s.core c).get bankB).slot0 = .empty ∧ ((s.core c).get bankB).slot1 = .empty ∧
    ((s.core c).get bankB).mq = [] ∧ ((s.core c).get bankB).dq = []) ∧
  (∀ c bankB e, let t := ((s.core c).get bankB).get e
    t.life = .off ∧ (∀ r, t.rg r = 0) ∧ (∀ r, t.rk r = if r = 0 then 0xFFFFFFFF else 0) ∧
    (∀ r, t.rp r = if r = 0 then BitVec.allOnes 1024 else 0) ∧ t.fcw = 0 ∧ t.amax = 0 ∧ t.vrb = 0 ∧ t.ftb = 0 ∧
    t.ftsel = 0 ∧ t.stepstat = 3 ∧ t.trapcode = 0 ∧ (∀ i, tget 0 t.pm i = 0) ∧ (∀ a, t.spill.read a = 0) ∧
    (∀ i, (tget {} t.lc i).active = false ∧ (tget {} t.lc i).count = 0)) ∧
  (∀ c bankB e, (((s.core c).get bankB).get e).loads = []) ∧ s.acks = [] ∧ s.loops = [] ∧ s.temperQ = [] ∧ s.nearQ = [] ∧
  s.cands = [] ∧ s.gangs = [] ∧ s.graphs = [] ∧ s.invals = [] ∧ s.dir = [] ∧ s.slots = [] ∧ s.tickets = [] ∧
  (∀ i, tget 0 s.ptr i = 0) ∧
  (∀ w ∈ s.mgmt.health.words, w = 0) ∧ (∀ n, tget 0 s.mgmt.energy n = 0) ∧
  (∀ n, tget {} s.mgmt.logs n = {}) ∧ s.mgmt.hold = false ∧ s.mgmt.trips = 0 ∧
  s.ebenv 0 = 2400 ∧ s.ebenv 1 = 1850 ∧ s.ebenv 2 = 1350 ∧ s.ebenv 3 = 950 ∧
  s.mgmt.ebmax = 2000000 ∧ s.mgmt.ebbal = 2000000 ∧ s.mgmt.pdidle = 512 ∧ s.mgmt.sridle = 100000 ∧ s.mgmt.ready = true

/-- R67, R68, R71, R73, R79 to R84: words written out bit by bit from the formats, and the instruction each is: at least
one of every map; the words of major 0, a set reserved bit, a word of another map and one that an outpost rejects are
none. -/
def Obligations.DecodeWords : Prop :=
  decode (.eng .xe) 0b00000010000110000010000100000000 0 = .ok (.add 3 1 2) ∧
  decode (.eng .ae) 0b00001000001010001001111111111111 0 = .ok (.addi 5 4 0x1FFF) ∧
  decode (.eng .ce) 0b00100000010000001000010111111110 0 = .ok (.bc 2 1 2 0x1FE) ∧
  decode (.eng .ve) 0b00101110000110000100000000011110 0 = .ok (.ld 3 2 3 6) ∧
  decode (.eng .ce) 0b01110000001110000000000000000001 0x80000000 = .ok (.lil 7 0x180000000) ∧
  decode (.eng .ce) 0b10000010000000010000000000000011 0 = .ok (.mqpush 8 3) ∧
  decode (.eng .ae) 0b10001011000000000110001000010001 0 = .ok (.amoAdd true 0 2 3 4 1) ∧
  decode (.eng .ve) 0b10000010000010000100000110000000 0 = .ok (.vadd 1 2 3 0 0) ∧
  decode (.eng .ve) 0b11110000000010000100000110000000 0x41 =
    .ok (.extendedVectorForm { d := 1, a := 2, b := 3, fmt := 0, tk := 0 }
      { op := 1, pred := 1, rm := 0, ovf := 0, daz := false }) ∧
  decode (.eng .xe) 0b10000010000010000100000110000101 0 = .ok (.xcopy 1 2 3 5) ∧
  decode .outpost 0b10001100000010000100000110000000 0 = .ok (.ovfma 1 2 3) ∧
  (∀ m w2, decode m 0 w2 = .error .unassignedMajor ∧ decode m 0x80000000 w2 = .error .unassignedMajor) ∧
  decode (.eng .ce) 0b10000010000000010000000010000011 0 = .error .reservedField ∧
  decode (.eng .ve) 0b11110100000010000100000110000000 0 = .error .unassignedMajor ∧
  decode .outpost 0b00111010000010000100000000000000 0 = .error .notInOutpost ∧
  (∀ w2, decode .outpost 0b10001100000010000100000110000001 w2 = .error .reservedField)

/-- R67 to R84: every instruction that the encoding admits is what its own words decode to, with every operand at every
value: a shared word in every engine's map, and in an outpost's unless R72 shuts it out there, and a private word in the
map of its engine; it has one word, or two where its major is 56 to 63.  (An extended vector form is admitted where the
short form it names is an instruction.) -/
def Obligations.DecodeEncode : Prop := ∀ (i : Instr) (w : W32) (ws : List W32),
  i.wf = true → encode i = w :: ws →
  (∀ o v, i = .extendedVectorForm o v → ∃ j, decodeVec v.op o = .ok j) →
  (wLong w = true ↔ ∃ w2, ws = [w2]) ∧ (wLong w = false ↔ ws = []) ∧
  ∀ w2, (wLong w = true → ws = [w2]) →
    (wH w = false → (∀ e, decode (.eng e) w w2 = .ok i) ∧ (outpostForbids i = false → decode .outpost w w2 = .ok i)) ∧
    (wH w = true → ∃ m, decode m w w2 = .ok i)

/-- R67 to R84: a word that decodes is the word of the instruction it decodes to: no bit of it is dropped, the instruction
is one the encoding admits, and its second word matters exactly in the long forms. -/
def Obligations.EncodeDecode : Prop := ∀ (m : Map) (w w2 : W32) (i : Instr),
  decode m w w2 = .ok i →
  i.wf = true ∧ encode i = (if wLong w then [w, w2] else [w]) ∧
  (wLong w = false → ∀ x, decode m w x = .ok i)

/-- R200, R203, R207, R211 to R213, R226, R239: the record of every matrix command decodes to it, and a record that decodes
is that command's record, every reserved bit of it 0. -/
def Obligations.MatrixRecords : Prop := ∀ (i : Instr) (r : BitVec 128),
  (encodeMx i = some r → decodeMx r = some i) ∧ (decodeMx r = some i → encodeMx i = some r)

/-- R30, R31, R39, R71: one step.  A step whose turn is an engine's fetches the word at PC, lowest byte first, and the next
word for a long form: PC or a long form's second word outside the instruction memory takes FETCH_RANGE and a word that
decodes to none takes ILLEGAL_INSTR, once no load of the stream has its read step still to take; one that is held back
leaves its stream where it is, and every other is executed, with only the note of a cleared handler (R148) taken from the
stream first, and what it has read ahead at an instruction that may order accesses (entry 3).  A call frame's turn does the
same under the outpost map; an ME turn starts the command at the head of the queue, which then reads its parameter block, or
executes the started one; a turn of the schedule is taken off it first; an event
turn executes its event (entry 1). -/
def Obligations.StepRunsDecoded : Prop := ∀ (s : State),
  (∀ pc : Word, pc.toNat + 4 ≤ s.imemSize →
    s.imemWord pc = some (wordOfBytes (s.me.imem.read pc.toNat) (s.me.imem.read (pc.toNat + 1))
      (s.me.imem.read (pc.toNat + 2)) (s.me.imem.read (pc.toNat + 3)))) ∧
  (∀ pc : Word, s.imemSize < pc.toNat + 4 → s.imemWord pc = none) ∧
  (∀ (m : Map), (∃ c e, s.cur = .eng c e ∧ c < 384 ∧ s.mayIssue c e = true ∧ m = .eng e) ∨
      (∃ o f, s.cur = .frame o f ∧ o < 148 ∧ f < 8 ∧ (s.frame o f).busy = true ∧ m = .outpost) →
    s.turns = [] →
    let traps := fun (u : State) => step s = .next (if s.me.loads = [] then u else s.stall false)
    (s.imemWord s.me.pc = none → traps (s.trap 0x02 0)) ∧
    (∀ w, s.imemWord s.me.pc = some w →
      (wLong w = true → s.imemWord (s.me.pc + 4) = none → traps (s.trap 0x02 0)) ∧
      ((wLong w = true → (s.imemWord (s.me.pc + 4)).isSome = true) →
        let w2 := (s.imemWord (s.me.pc + 4)).getD 0
        (∀ r, decode m w w2 = .error r → traps s.noteIssue.illegal) ∧
        (∀ i, decode m w w2 = .ok i →
          (interlocked s.me i = true ∨ s.rotHeld i = true ∨ s.loadsHold i = true → step s = .next (s.stall false)) ∧
          (interlocked s.me i = false → s.rotHeld i = false → s.loadsHold i = false →
            (s.regionOver i = true → traps (s.noteIssue.trap 0x61 0)) ∧
            (s.regionOver i = false → step s = exec i (s.noteIssue.keepAhead i))))))) ∧
  (∀ i, s.me.loads = [] → s.loadsHold i = false) ∧
  (∀ i, s.me.pre = [] → s.me.lazy = false → s.keepAhead i = s) ∧
  (∀ i, s.keepAhead i = s ∨ s.keepAhead i = s.setMe { s.me with pre := [], lazy := false }) ∧
  (∀ c m rest i, s.turns = [] → s.cur = .me c → c < 384 → (s.bank c).mq = m :: rest →
    (s.bank c).st = .run ∨ (s.bank c).st = .empty → (s.bank c).meStopped = false → m.started = true →
    decodeMx m.record = some i → step s = exec i s) ∧
  (∀ c m rest, s.turns = [] → s.cur = .me c → c < 384 → (s.bank c).mq = m :: rest → (s.bank c).st = .run →
    (s.bank c).meStopped = false → m.started = false → s.tripped (dieOf c) = false → (s.bank c).pf = none →
    (mxHdr m.record).swe = false ∨ 1 ≤ (s.bank c).sem (mxHdr m.record).swi →
    ∃ t, step s = .next t ∧
      (t.bank c).mq = { m with started := true, waitedSem := false, pb := s.paramBlock m } :: rest) ∧
  (∀ m r, decodeMx m.record = some (.drain r) → s.paramBlock m = s.scratchBytes s.ownPath (r.pb.toNat * 64) 64) ∧
  (∀ t ts, s.turns = t :: ts →
    (∀ a, t = .run a → step s = runAgent a { s with turns := ts }) ∧
    (∀ i, t = .event i → Instr.isEvent i = true → step s = exec i { s with turns := ts }) ∧
    (∀ n, t = .pass n → step s = .next ({ s with turns := ts }.pass n)) ∧
    (∀ n, t = .writeStep n → step s = .next ({ s with turns := ts }.writeStepTurn n)) ∧
    (∀ c e n, t = .read c e n → step s = .next ({ s with turns := ts }.readTurn c e n)) ∧
    (∀ n, t = .ack n → step s = .next ({ s with turns := ts }.ackTurn n)) ∧
    (∀ c n, t = .arrive c n → step s = .next ({ s with turns := ts }.arriveTurn c n)) ∧
    (t = .settle → step s = .next { s with turns := ts }.settle)) ∧
  (s.me.wdNote = none → s.noteIssue = s) ∧
  (∀ a, s.me.wdNote = some a →
    s.noteIssue = s.setMe { s.me with
      waited := s.me.wd && decide (s.me.pc = a), trapcode := s.me.trapcode &&& ~~~(1#64 <<< 18), wdNote := none })

/-- R1, R370, R458 and entry 1: memory keeps its one canonical form, addresses rising and no byte listed that reads as an
unlisted one, in every step from every state that has it. -/
def Obligations.StepKeepsCanonical : Prop := ∀ (s t : State),
  s.mem.wf = true → step s = .next t → t.mem.wf = true

/-- What replacing the executing stream leaves as it is: every byte that anyone reads, every other stream and the rest of
its bank, every other bank, core, outpost, frame and context, the control and management planes and the clock. -/
def Obligations.ExecutingStreamFrame : Prop := ∀ (s : State) (x : Stream),
  (s.setMe x).me = x ∧ s.SameReads (s.setMe x) ∧
  (∀ c e, s.cur = .eng c e →
    (s.setMe x).bank c = (s.bank c).set e x ∧
    (∀ f, f ≠ e → ((s.setMe x).bank c).get f = (s.bank c).get f) ∧
    (∀ b, b ≠ (s.core c).runB → ((s.setMe x).core c).get b = (s.core c).get b) ∧
    (∀ d, d ≠ c → (s.setMe x).core d = s.core d) ∧ (s.setMe x).outposts = s.outposts) ∧
  (∀ o f, s.cur = .frame o f →
    ((s.setMe x).frame o f) = { s.frame o f with st := x } ∧
    (∀ q g, (q, g) ≠ (o, f) → (s.setMe x).frame q g = s.frame q g) ∧ (s.setMe x).cores = s.cores) ∧
  (s.setMe x).mem = s.mem ∧ (s.setMe x).log = s.log ∧ (s.setMe x).buf = s.buf ∧ (s.setMe x).ctxs = s.ctxs ∧
  (s.setMe x).gangs = s.gangs ∧ (s.setMe x).cands = s.cands ∧ (s.setMe x).graphs = s.graphs ∧
  (s.setMe x).mgmt = s.mgmt ∧ (s.setMe x).cyc = s.cyc

/-- R25, R26: the registers that hold no value and the ones that do: g0 reads 0, k0 reads NOW and p0 reads all ones
whatever is written; a write to any other register is what it reads next, and every other register keeps its value. -/
def Claims.ConstantRegisters : Prop := ∀ (t : Stream),
  (∀ (r q : GReg) (v : Word), (t.wg r v).rg q = if q = 0 then 0 else if q = r then v else t.rg q) ∧
  (∀ (r q : KReg) (v : W32), (t.wk r v).rk q = if q = 0 then 0xFFFFFFFF else if q = r then v else t.rk q) ∧
  (∀ (r q : PReg) (v : PBits), (t.wp r v).rp q = if q = 0 then BitVec.allOnes 1024 else if q = r then v else t.rp q) ∧
  (∀ (r : GReg) (v : Word), (t.wg r v).pc = t.pc ∧ (t.wg r v).k = t.k ∧ (t.wg r v).h = t.h ∧ (t.wg r v).p = t.p) ∧
  (∀ (r : KReg) (v : W32), (t.wk r v).pc = t.pc ∧ (t.wk r v).g = t.g ∧ (t.wk r v).h = t.h ∧ (t.wk r v).p = t.p) ∧
  (∀ (r : PReg) (v : PBits), (t.wp r v).pc = t.pc ∧ (t.wp r v).g = t.g ∧ (t.wp r v).k = t.k ∧ (t.wp r v).h = t.h)

/-- R26, R122, R123: moves between registers and step registers, and the addition that neither wraps nor becomes NOW;
`k0` reads as NOW and keeps it. -/
def Claims.StepRegisters : Prop := ∀ (s : State) (d a : KReg) (g : GReg) (imm : BitVec 13),
  s.inOutpost = false →
  WritesK (.kmovKFromG d g) s 4 d ((s.g g).setWidth 32) ∧
  WritesG (.kmovGFromK g a) s 4 g ((s.k a).setWidth 64) ∧
  WritesK (.kmovKFromK d a) s 4 d (s.k a) ∧
  WritesK (.kaddi d a imm) s 4 d
    (if s.k a = 0xFFFFFFFF then 0xFFFFFFFF
      else BitVec.ofInt 32 (min (max (((s.k a).toNat : Int) + imm.toInt) 0) 0xFFFFFFFE)) ∧
  s.k 0 = 0xFFFFFFFF

/-- R25, R26, R122, R123: The constant registers, the step registers and their moves. It says of each of these that
exec answers a next state, on conditions on the state and the operands alone: `kmovKFromG`, `kmovGFromK`,
`kmovKFromK`, `kaddi`. -/
def Obligations.Registers : Prop := Claims.ConstantRegisters ∧ Claims.StepRegisters

/-- R75: what each condition code of 0 to 9 asks of two registers; code 15 always holds, and is an operand of `BCZ` alone;
codes 10 to 14 are operands of no instruction; and the compare-with-zero form compares its register with 0. -/
def Obligations.ConditionCodes : Prop := ∀ x y : Word,
  condHolds 0 x y = decide (x = y) ∧ condHolds 1 x y = decide (x ≠ y) ∧
  condHolds 2 x y = decide (x.toInt < y.toInt) ∧ condHolds 3 x y = decide (x.toInt ≥ y.toInt) ∧
  condHolds 4 x y = decide (x.toNat < y.toNat) ∧ condHolds 5 x y = decide (x.toNat ≥ y.toNat) ∧
  condHolds 6 x y = decide (x.toInt > y.toInt) ∧ condHolds 7 x y = decide (x.toInt ≤ y.toInt) ∧
  condHolds 8 x y = decide (x.toNat > y.toNat) ∧ condHolds 9 x y = decide (x.toNat ≤ y.toNat) ∧
  condHolds 15 x y = true ∧
  (∀ (cc : BitVec 4) (d a b : GReg) (o : BitVec 9), (Instr.cmp cc d a b).wf = decide (cc.toNat ≤ 9) ∧
    (Instr.bc cc a b o).wf = decide (cc.toNat ≤ 9)) ∧
  (∀ (cc : BitVec 4) (a : GReg) (o : BitVec 15), (cc.toNat ≤ 9 → (Instr.bcz cc a o).wf = true) ∧
    (10 ≤ cc.toNat → cc.toNat ≤ 14 → (Instr.bcz cc a o).wf = false) ∧ (Instr.bcz 15 0 o).wf = true) ∧
  (∀ (s : State) (cc : BitVec 4) (a : GReg) (o : BitVec 15), condHolds cc (s.g a) 0 = false →
    Completes (.bcz cc a o) s s 4)

/-- R100, R101: the register arithmetic group writes its result to g[d] and nothing else, whatever registers the fields
name. -/
def Claims.ArithmeticResults : Prop := ∀ (s : State) (d a b : GReg),
  let x := s.g a
  let y := s.g b
  let n := y.toNat % 64
  WritesG (.add d a b) s 4 d (x + y) ∧
  WritesG (.sub d a b) s 4 d (x - y) ∧
  WritesG (.mul d a b) s 4 d (BitVec.ofNat 64 (x.toNat * y.toNat)) ∧
  WritesG (.mulh d a b) s 4 d (((x.signExtend 128 * y.signExtend 128) >>> 64).setWidth 64) ∧
  WritesG (.mulhu d a b) s 4 d (((x.setWidth 128 * y.setWidth 128) >>> 64).setWidth 64) ∧
  WritesG (.madd d a b) s 4 d (s.g d + x * y) ∧
  WritesG (.div d a b) s 4 d
    (if y = 0 then -1 else if x = BitVec.intMin 64 ∧ y = -1 then BitVec.intMin 64 else x.sdiv y) ∧
  WritesG (.divu d a b) s 4 d (if y = 0 then -1 else x / y) ∧
  WritesG (.rem d a b) s 4 d (if y = 0 then x else if x = BitVec.intMin 64 ∧ y = -1 then 0 else x.srem y) ∧
  WritesG (.remu d a b) s 4 d (if y = 0 then x else x % y) ∧
  WritesG (.and d a b) s 4 d (x &&& y) ∧
  WritesG (.or d a b) s 4 d (x ||| y) ∧
  WritesG (.xor d a b) s 4 d (x ^^^ y) ∧
  WritesG (.shl d a b) s 4 d (x <<< n) ∧
  WritesG (.shr d a b) s 4 d (x >>> n) ∧
  WritesG (.sha d a b) s 4 d (x.sshiftRight n) ∧
  WritesG (.min d a b) s 4 d (if x.toInt ≤ y.toInt then x else y) ∧
  WritesG (.max d a b) s 4 d (if x.toInt ≤ y.toInt then y else x) ∧
  WritesG (.minu d a b) s 4 d (if x.toNat ≤ y.toNat then x else y) ∧
  WritesG (.maxu d a b) s 4 d (if x.toNat ≤ y.toNat then y else x) ∧
  (∃ k : Nat, k ≤ 64 ∧ WritesG (.clz d a) s 4 d (BitVec.ofNat 64 k) ∧ x.toNat < 2 ^ (64 - k) ∧
    (k < 64 → 2 ^ (63 - k) ≤ x.toNat)) ∧
  WritesG (.popc d a) s 4 d (BitVec.ofNat 64 ((List.range 64).filter fun i => x.getLsbD i).length)

/-- R102, R104, R105, R106: compares, the immediate forms, bit fields and constants write their result to g[d] and
nothing else. -/
def Claims.ImmediateResults : Prop := ∀ (s : State) (d a b : GReg),
  let x := s.g a
  let y := s.g b
  (∀ cc, WritesG (.cmp cc d a b) s 4 d (if condHolds cc x y then 1 else 0)) ∧
  (∀ imm : BitVec 13,
    WritesG (.addi d a imm) s 4 d (x + imm.signExtend 64) ∧
    WritesG (.andi d a imm) s 4 d (x &&& imm.setWidth 64) ∧
    WritesG (.ori d a imm) s 4 d (x ||| imm.setWidth 64) ∧
    WritesG (.xori d a imm) s 4 d (x ^^^ imm.setWidth 64)) ∧
  (∀ n : BitVec 6,
    WritesG (.shli d a n) s 4 d (x <<< n.toNat) ∧ WritesG (.shri d a n) s 4 d (x >>> n.toNat) ∧
    WritesG (.shai d a n) s 4 d (x.sshiftRight n.toNat)) ∧
  (∀ p l : BitVec 6, p.toNat + l.toNat + 1 ≤ 64 →
    WritesG (.bfx d a p l) s 4 d ((x.extractLsb' p.toNat (l.toNat + 1)).setWidth 64) ∧
    WritesG (.bfxS d a p l) s 4 d ((x.extractLsb' p.toNat (l.toNat + 1)).signExtend 64) ∧
    (∃ v, WritesG (.bfi d a p l) s 4 d v ∧ ∀ i : Nat, i < 64 →
      v.getLsbD i = if p.toNat ≤ i ∧ i ≤ p.toNat + l.toNat then x.getLsbD (i - p.toNat) else (s.g d).getLsbD i)) ∧
  (∀ imm : BitVec 19,
    WritesG (.li d imm) s 4 d (imm.signExtend 64) ∧ WritesG (.lui d imm) s 4 d (imm.signExtend 64 * 8192)) ∧
  (∀ imm : BitVec 51, WritesG (.lil d imm) s 8 d (imm.signExtend 64))

/-- R100, R101, R102, R104, R105, R106: Results of the arithmetic group, compares, immediates and bit fields. It says
of each of these that exec answers a next state, on conditions on the state and the operands alone: `add`, `sub`,
`mul`, `mulh`, `mulhu`, `madd`, `div`, `divu`, `rem`, `remu`, `and`, `or`, `xor`, `shl`, `shr`, `sha`, `min`, `max`,
`minu`, `maxu`, `clz`, `popc`, `cmp`, `addi`, `andi`, `ori`, `xori`, `shli`, `shri`, `shai`, `bfx`, `bfxS`, `bfi`,
`li`, `lui`, `lil`. -/
def Obligations.ArithmeticAndImmediates : Prop := Claims.ArithmeticResults ∧ Claims.ImmediateResults

/-- R103: the word of `SEL` at major 3, its reserved bit, and what it does: g[d] becomes g[a] where g[c] is not 0, and
g[b] otherwise; with c = 0 it always selects g[b].
It says of this one that exec answers a next state, on conditions on the state and the operands alone: `sel`. -/
def Obligations.SelectRegister : Prop := ∀ (m : Map) (d a b c : GReg) (w2 : W32) (s : State),
  decode m (encA 0 3 d a b ((0 : BitVec 1) ++ c)) w2 = .ok (.sel d a b c) ∧
  (∃ r, decode m (encA 0 3 d a b ((1 : BitVec 1) ++ c)) w2 = .error r) ∧
  WritesG (.sel d a b c) s 4 d (if s.g c ≠ 0 then s.g a else s.g b) ∧
  WritesG (.sel d a b 0) s 4 d (s.g b)

/-- R107, R108, R109: a branch whose condition holds goes to its own address plus four times its offset, and one whose
condition does not hold completes with no effect; `JMP` and `CALL` write the address of the next word to the link register
and go to the value that the target register held before, or to the branch address.
It says of each of these that exec answers a next state, on conditions on the state and the operands alone: `bcz`,
`bc`, `jmp`, `call`. -/
def Obligations.BranchesAndJumps : Prop := ∀ (s : State) (a b l : GReg),
  s.me.pc.toNat % 4 = 0 →
  (∀ (cc : BitVec 4) (off : BitVec 15),
    (condHolds cc (s.g a) 0 = true → GoesTo (.bcz cc a off) s s (s.me.pc + off.signExtend 64 * 4)) ∧
    (condHolds cc (s.g a) 0 = false → Completes (.bcz cc a off) s s 4)) ∧
  (∀ (cc : BitVec 4) (off : BitVec 9),
    (condHolds cc (s.g a) (s.g b) = true → GoesTo (.bc cc a b off) s s (s.me.pc + off.signExtend 64 * 4)) ∧
    (condHolds cc (s.g a) (s.g b) = false → Completes (.bc cc a b off) s s 4)) ∧
  ((s.g a).toNat % 4 = 0 → GoesTo (.jmp l a) s (s.setG l (s.me.pc + 4)) (s.g a)) ∧
  (∀ off : BitVec 19, GoesTo (.call l off) s (s.setG l (s.me.pc + 4)) (s.me.pc + off.signExtend 64 * 4))

/-- R109: the word of `CALL` at major 18, the link register it writes, and where it goes. -/
def Obligations.CallLinks : Prop := ∀ (m : Map) (l : GReg) (off : BitVec 19) (w2 : W32) (s : State),
  decode m ((0 : BitVec 1) ++ (18 : BitVec 6) ++ l ++ off) w2 = .ok (.call l off) ∧
  (s.me.pc.toNat % 4 = 0 →
    ∃ x, exec (.call l off) s = .next (s.setMe x) ∧ x.pc = s.me.pc + off.signExtend 64 * 4 ∧
      (∀ r, x.rg r = if r = l ∧ r ≠ 0 then s.me.pc + 4 else s.me.rg r) ∧
      x = { s.me.landed x.pc with g := x.g } ∧ s.SameReads (s.setMe x))

/-- R112, R115, R153: a loop-starting instruction at A with a trip count N and a body of B words.  With N not 0 the
counter becomes active with count N, LS = A + 4, LE = A + 4×B and is the most recently started, and PC is A + 4; with N = 0
the counter becomes inactive and PC is past the body.  `LOOPR` also advances the rotation. -/
def Claims.LoopStarts : Prop := ∀ (s : State) (lc : BitVec 2) (c : GReg) (n : BitVec 10) (body : BitVec 12),
  s.me.pc.toNat % 4 = 0 →
  let A := s.me.pc
  let N := (s.g c).setWidth 32
  let begun := fun (count : W32) (rot : Bool) =>
    { s.me.setLoop lc.toNat
        { count := count, ls := A + 4, le := A + 4 * body.setWidth 64, active := true, rot := rot } with
      order := lc.toNat :: s.me.order.filter fun m => m ≠ lc.toNat }
  let ended := s.me.setLoop lc.toNat { s.me.loop lc.toNat with count := 0, active := false }
  let past := A + 4 + 4 * body.setWidth 64
  (N ≠ 0 → GoesTo (.loop lc c body) s (s.setMe (begun N false)) (A + 4)) ∧
  (N = 0 → GoesTo (.loop lc c body) s (s.setMe ended) past) ∧
  (n ≠ 0 → GoesTo (.loopi lc n body) s (s.setMe (begun (n.setWidth 32) false)) (A + 4)) ∧
  (n = 0 → GoesTo (.loopi lc n body) s (s.setMe ended) past) ∧
  (s.inOutpost = false → N ≠ 0 →
    GoesTo (.loopr lc c body) s (s.setMe ((begun N true).rotate s.isVe true N.toNat)) (A + 4)) ∧
  (s.inOutpost = false → N = 0 → GoesTo (.loopr lc c body) s (s.setMe ended) past)

/-- R152, R153: the name of a rotating register, and the advance of a `LOOPR`: at its start p9 to p15 become zero and at a
back edge each takes its predecessor; p8 becomes all ones while the count is above VRB.STG; in the vector engine the
rotation base moves back by one. -/
def Claims.RotationAdvances : Prop := ∀ (s : State) (t : Stream) (ve : Bool) (n : Nat),
  (∀ r, r < 32 → s.vphys r = r) ∧
  (∀ r, 32 ≤ r → r < 64 → s.vphys r = 32 + (r - 32 + s.me.vrb.toNat % 32) % 32) ∧
  (∀ i : PReg, 9 ≤ i.toNat → (t.rotate ve true n).rp i = 0 ∧ (t.rotate ve false n).rp i = t.rp (i - 1)) ∧
  (∀ b, (t.rotate ve b n).rp 8 = if (t.vrb.toNat / 256 % 8) < n then BitVec.allOnes 1024 else 0) ∧
  (∀ b (i : PReg), i.toNat < 8 → (t.rotate ve b n).rp i = t.rp i) ∧
  (∀ b, (t.rotate true b n).vrb.extractLsb' 0 5 = t.vrb.extractLsb' 0 5 - 1 ∧ (t.rotate true b n).vrb >>> 5 = t.vrb >>> 5 ∧
    (t.rotate false b n).vrb = t.vrb)

/-- R112, R115, R152, R153: Loop starts and the rotation that LOOPR advances. It says of each of these that exec
answers a next state, on conditions on the state and the operands alone: `loop`, `loopi`, `loopr`. -/
def Obligations.LoopStarts : Prop := Claims.LoopStarts ∧ Claims.RotationAdvances

/-- R114: `LEAVE` of an active loop ends it, with no end check of another, and goes past it; of an inactive one it has no
effect. -/
def Claims.LeavesLoop : Prop := ∀ (s : State) (lc : BitVec 2),
  let l := s.me.loop lc.toNat
  (l.active = true → (l.le + 4).toNat % 4 = 0 →
    GoesTo (.leave lc) s (s.setMe (s.me.setLoop lc.toNat { l with count := 0, active := false })) (l.le + 4)) ∧
  (l.active = false → Completes (.leave lc) s s 4)

/-- R113: where the most recently started loop is active and ends before the next address, an instruction that does not
transfer counts it down: with a count left it goes back to LS and no other loop is checked; with none it becomes inactive
and the next loop is checked.  Shown for `NOP` with two loops that end together, the inner one last started. -/
def Claims.LoopEnds : Prop := ∀ (s : State) (i o : Nat),
  let t := s.me
  let li := t.loop i
  let lo := t.loop o
  i ≠ o → t.order = [i, o] → li.active = true → li.le = t.pc → li.rot = false →
  (li.count ≠ 1 → ∃ x, exec .nop s = .next (s.setMe x) ∧ x.pc = li.ls ∧
    x.loop i = { li with count := li.count - 1 } ∧ x.loop o = lo ∧ x.g = t.g ∧ x.p = t.p) ∧
  (li.count = 1 → lo.active = true → lo.le = t.pc → lo.rot = false → lo.count ≠ 1 →
    ∃ x, exec .nop s = .next (s.setMe x) ∧ x.pc = lo.ls ∧ x.loop i = { li with count := 0, active := false } ∧
      x.loop o = { lo with count := lo.count - 1 } ∧ x.g = t.g) ∧
  (li.count = 1 → lo.active = false →
    ∃ x, exec .nop s = .next (s.setMe x) ∧ x.pc = t.pc + 4 ∧ x.loop i = { li with count := 0, active := false } ∧
      x.loop o = lo ∧ x.g = t.g)

/-- R113, R114: LEAVE and the end check of loops. It says of this one that exec answers a next state, on conditions on
the state and the operands alone: `leave`. -/
def Obligations.LoopEnds : Prop := Claims.LeavesLoop ∧ Claims.LoopEnds

/-- R32, R76, R117, R119, R121, R139, R371, R373, R381: a load from core scratch, from an outpost's data memory or from spill
memory writes g[d] with its bytes, extended as its size code says, and nothing else; one from core scratch may have read
ahead of its turn, or be issued to read later. -/
def Claims.LocalLoads : Prop := ∀ (s : State) (d a : GReg) (imm : BitVec 10) (sz : BitVec 3) (off : BitVec 12),
  ldSizeOk sz = true →
  let n := sizeBytes sz
  let at0 := (s.g a + imm.signExtend 64).toNat
  (∀ c e, s.cur = .eng c e → at0 % n = 0 → (partRange s.part).1 ≤ at0 → at0 + n ≤ (partRange s.part).2 →
    LoadsAt (.ld d a imm sz) s 4 d sz (windowBase c + at0) none) ∧
  (∀ o f, s.cur = .frame o f → at0 % n = 0 → at0 + n ≤ 0x2000 →
    WritesG (.ld d a imm sz) s 4 d (extendLoad sz ((s.frame o f).data.readN at0 n))) ∧
  (off.toNat % n = 0 → WritesG (.spl d sz off) s 4 d (extendLoad sz (s.me.spill.readN off.toNat n)))

/-- R76: how a loaded value is extended. -/
def Claims.LoadExtension : Prop := ∀ b0 b1 b2 b3 b4 b5 b6 b7 : Byte,
  extendLoad 0 [b0] = b0.signExtend 64 ∧ extendLoad 1 [b0] = b0.setWidth 64 ∧
  extendLoad 2 [b0, b1] = (b1 ++ b0).signExtend 64 ∧ extendLoad 3 [b0, b1] = (b1 ++ b0).setWidth 64 ∧
  extendLoad 4 [b0, b1, b2, b3] = (b3 ++ b2 ++ b1 ++ b0).signExtend 64 ∧
  extendLoad 5 [b0, b1, b2, b3] = (b3 ++ b2 ++ b1 ++ b0).setWidth 64 ∧
  extendLoad 6 [b0, b1, b2, b3, b4, b5, b6, b7] = b7 ++ b6 ++ b5 ++ b4 ++ b3 ++ b2 ++ b1 ++ b0

/-- R371, R373, R381: a load that is issued into the path buffer stands there with the address and the length that it reads,
as the youngest; its read step is taken once no older access of a byte of it has still to be made, and then its register
receives the bytes that its stream reads there, its own program-later writes left out, the load is gone from the buffer and
nothing else of the stream changes; its channel of the LPDDR tier, if it reads from one, has been asked. -/
def Claims.ReadSteps : Prop := ∀ (s : State) (c : Nat) (e : Eng) (n : Nat) (l : PLoad) (d : GReg) (sz : BitVec 3),
  (s.cur = .eng c e →
    (s.deferLoad l).me = { s.me with
      lazy := false, pre := s.me.pre.filter fun u => !overlap u.1 u.2.length l.addr l.n
      loads := s.me.loads ++ [{ l with id := s.nextId, pc := s.me.pc }] }) ∧
  (let t := s.bstrm c (s.core c).runB e
   let p := Party.stream c (s.core c).runB e
   t.loads[n]? = some l → l.dest = .greg d sz → l.amo = none → l.got = none → l.grp = 0 →
   (∀ x ∈ t.loads.take n, x.got = none → overlap x.addr x.n l.addr l.n = false) →
   s.awayOpen p (Eng.path e) l.id [(l.addr, l.n)] = false → s.eccHit l.addr l.n = false →
   State.drainHeld (s.bank c) (State.drainPlace e) = false →
   ∃ x, s.readTurn c e n = (s.ask [(l.addr, l.n)]).modBankStrm c (s.core c).runB e (fun _ => x) ∧
     x = { t with loads := t.loads.filter fun y => y.id ≠ l.id, g := x.g } ∧
     ∀ r, x.rg r = if r = d ∧ r ≠ 0 then
         extendLoad sz ((List.range l.n).map fun i =>
           overlay (fun w => w.party = p && w.path = Eng.path e && w.no < l.id) (l.addr + i) (s.visByte p (Eng.path e) (l.addr + i)) s.buf)
       else t.rg r)

/-- R32, R76, R117, R119, R121, R139: Local loads and how a loaded value is extended. It says of each of these that
exec answers a next state, on conditions on the state and the operands alone: `ld`, `spl`. -/
def Obligations.LocalLoads : Prop := Claims.LocalLoads ∧ Claims.LoadExtension ∧ Claims.ReadSteps

/-- R32, R117, R119, R121, R139: a store writes the low bytes of g[d], lowest first, to its address in core scratch, in an
outpost's data memory or in spill memory, and nothing else. -/
def Claims.LocalStores : Prop := ∀ (s : State) (d a : GReg) (imm : BitVec 10) (sz : BitVec 3) (off : BitVec 12),
  stSizeOk sz = true →
  let n := sizeBytes sz
  let at0 := (s.g a + imm.signExtend 64).toNat
  let bs := natBytes n (s.g d).toNat
  (∀ c e, s.cur = .eng c e → c < 384 → at0 % n = 0 → (partRange s.part).1 ≤ at0 → at0 + n ≤ (partRange s.part).2 →
    Stores (.st d a imm sz) s 4 (Party.stream c (s.core c).runB e) s.ownPath (windowBase c + at0) bs) ∧
  (∀ o f, s.cur = .frame o f → at0 % n = 0 → at0 + n ≤ 0x2000 →
    ∃ u, Completes (.st d a imm sz) s u 4 ∧
      u = s.setFrame o f { s.frame o f with data := (u.frame o f).data } ∧
      ∀ b, (u.frame o f).data.read b =
        if at0 ≤ b ∧ b < at0 + n then BitVec.ofNat 8 ((s.g d).toNat / 256 ^ (b - at0)) else (s.frame o f).data.read b) ∧
  (off.toNat % n = 0 → ∃ x, Completes (.sps d sz off) s (s.setMe { s.me with spill := x }) 4 ∧
    ∀ b, x.read b =
      if off.toNat ≤ b ∧ b < off.toNat + n then BitVec.ofNat 8 ((s.g d).toNat / 256 ^ (b - off.toNat))
      else s.me.spill.read b)

/-- R32, R41: a local access whose address is no multiple of its size takes DATA_ALIGN, and an aligned one that does not
lie below the end of core scratch, or of the kit's half of it, takes SCRATCH_RANGE; both name the address. -/
def Claims.LocalAccessTraps : Prop := ∀ (s : State) (d a : GReg) (imm : BitVec 10) (sz : BitVec 3) (c : Nat) (e : Eng),
  s.cur = .eng c e →
  let n := sizeBytes sz
  let w := s.g a + imm.signExtend 64
  (w.toNat % n ≠ 0 →
    exec (.ld d a imm sz) s = .next (s.trap 0x04 w) ∧ exec (.st d a imm sz) s = .next (s.trap 0x04 w)) ∧
  (w.toNat % n = 0 → 0x200000 < w.toNat + n ∨ w.toNat < (partRange s.part).1 ∨ (partRange s.part).2 < w.toNat + n →
    exec (.ld d a imm sz) s = .next (s.trap 0x05 w) ∧ exec (.st d a imm sz) s = .next (s.trap 0x05 w))

/-- R32, R41, R117, R119, R121, R139: Local stores, and where a local access traps. It says of each of these that exec
answers a next state, on conditions on the state and the operands alone: `st`, `sps`. -/
def Obligations.LocalStores : Prop := Claims.LocalStores ∧ Claims.LocalAccessTraps

/-- R33, R41, R268: the checks of the handle form, in their order: the outcome of a load or store through a handle
register that no lookup holds, up to the first check that fails.  The model's choice, log entry 16: the addresses that the traps
report, 0 for STALE_HANDLE and the handle's address plus the offset for the later checks.  The model's choice, log entry 2: a
stall passes one tick. -/
def Claims.HandleChecks : Prop := ∀ (s : State) (d a : GReg) (r : HReg) (imm : BitVec 5) (sz : BitVec 3) (c : Nat) (e : Eng),
  s.cur = .eng c e → s.handleLocked r = false →
  let h := s.h r
  let off : Int := (s.g a).toInt + (imm.signExtend 64).toInt
  let n : Int := sizeBytes sz
  let target : Int := (Handle.addr h).toNat + off
  let w := BitVec.ofInt 64 target
  let foreign := Handle.remote h = false ∧ 0x110000000000 ≤ target ∧ target < 0x110030000000 ∧
    ¬(windowBase c ≤ target ∧ target + n ≤ windowBase c + 0x200000)
  let both := fun (t : State) => exec (.ldHandle d a r imm sz) s = .next t ∧ exec (.stHandle d a r imm sz) s = .next t
  (Handle.v h = false → both (s.trap 0x06 0)) ∧
  (Handle.v h = true → Handle.st h = 1 → both ((s.pause.setMe { s.me with blocked := true, stuck := false }).pass 1)) ∧
  (Handle.v h = true → Handle.st h = 2 → both (s.pageFault r)) ∧
  (Handle.v h = true → Handle.st h = 0 → off < 0 ∨ (Handle.bytes h : Int) < off + n → both (s.trap 0x07 w)) ∧
  (Handle.v h = true → Handle.st h = 0 → 0 ≤ off → off + n ≤ Handle.bytes h →
    (off % n ≠ 0 → both (s.trap 0x04 w)) ∧
    (off % n = 0 → foreign → both (s.trap 0x39 w)) ∧
    (off % n = 0 → ¬foreign → (Handle.perm h).getLsbD 0 = false → exec (.ldHandle d a r imm sz) s = .next (s.trap 0x08 w)) ∧
    (off % n = 0 → ¬foreign → (Handle.perm h).getLsbD 1 = false → exec (.stHandle d a r imm sz) s = .next (s.trap 0x08 w)))

/-- R33, R118, R119, R371, R381: a load or store through a local handle that passes its checks reads or writes the bytes at
the handle's address plus the offset; one through a remote handle of a package in a group puts its request on the fabric
path of the ticket table, and the load's register is written when the reply comes (R436). -/
def Claims.HandleLoadsAndStores : Prop := ∀ (s : State) (d a : GReg) (r : HReg) (imm : BitVec 5) (sz : BitVec 3)
    (c : Nat) (e : Eng),
  s.cur = .eng c e →
  let n := sizeBytes sz
  let off : Int := (s.g a).toInt + (imm.signExtend 64).toInt
  let at0 := ((Handle.addr (s.h r)).toNat + off).toNat
  let p := Party.stream c (s.core c).runB e
  (s.chkHandle r off n n 1 = .ok → Handle.remote (s.h r) = false → LoadsAt (.ldHandle d a r imm sz) s 4 d sz at0 (some (s.h r))) ∧
  (s.chkHandle r off n n 2 = .ok → Handle.remote (s.h r) = false → (∀ i, i < n → mapped (at0 + i) = true) →
    Stores (.stHandle d a r imm sz) s 4 p s.ownPath at0 (natBytes n (s.g d).toNat)) ∧
  (s.chkHandle r off n n 1 = .ok → Handle.remote (s.h r) = true → s.mgmt.peerid.getLsbD 12 = true →
    s.copyWaits p s.ownPath s.nextId (State.fabAddr (s.h r) off) n = false →
    ∀ u, s.remoteSend c (s.core c).runB e s.me.pc (s.reportedWords s.me.pc) s.ownPath (State.fabAddr (s.h r) off) (.load n)
      (.greg d sz) none (some (s.h r)) = some u → Completes (.ldHandle d a r imm sz) s u 4) ∧
  (s.chkHandle r off n n 2 = .ok → Handle.remote (s.h r) = true → s.mgmt.peerid.getLsbD 12 = true →
    s.copyWaits p s.ownPath s.nextId (State.fabAddr (s.h r) off) (State.opBytes (.store (natBytes n (s.g d).toNat))) = false →
    ∀ u, s.remoteSend c (s.core c).runB e s.me.pc (s.reportedWords s.me.pc) s.ownPath (State.fabAddr (s.h r) off)
      (.store (natBytes n (s.g d).toNat)) .none none (some (s.h r)) = some u → Completes (.stHandle d a r imm sz) s u 4)

/-- R33, R41, R118, R119, R268, R436: Loads and stores through handles: their checks in order, and what those that
pass do. It says of each of these that exec answers a next state, on conditions on the state and the operands alone:
`ldHandle`, `stHandle`. -/
def Obligations.HandleAccesses : Prop := Claims.HandleChecks ∧ Claims.HandleLoadsAndStores

/-- R120, R378, R379: an acquire load and a release store of core scratch do what the plain forms do, the load reading at its
turn; the release first makes visible what it orders.
It says of each of these that exec answers a next state, on conditions on the state and the operands alone: `ldAq`,
`stRl`. -/
def Obligations.AcquireAndRelease : Prop := ∀ (s : State) (d a : GReg) (imm : BitVec 13) (sz sc : BitVec 3) (ps : BitVec 6)
    (c : Nat) (e : Eng),
  s.cur = .eng c e → s.me.owed = [] →
  let n := sizeBytes sz
  let at0 := (s.g a + imm.signExtend 64).toNat
  at0 % n = 0 → (partRange s.part).1 ≤ at0 → at0 + n ≤ (partRange s.part).2 →
  let p := Party.stream c (s.core c).runB e
  (s.readFirst (windowBase c + at0) n = false → s.eccHit (windowBase c + at0) n = false →
    ReadsG (.ldAq d a imm sz sc ps false 0) s [(windowBase c + at0, n)] 8 d
      (extendLoad sz ((List.range n).map fun i => s.readByte p s.ownPath (windowBase c + at0 + i)))) ∧
  (s.fenceReady (ps ||| s.ownMask) = true →
    Completes (.stRl d a imm sz sc ps false 0) s
      (((s.releasePaths (ps ||| s.ownMask) sc.toNat).forget (windowBase c + at0) n).storeBytes p s.ownPath
        (windowBase c + at0) (natBytes n (s.g d).toNat)) 8) ∧
  (s.fenceReady (ps ||| s.ownMask) = false → Waits (.stRl d a imm sz sc ps false 0) s)

/-- R369, R376, R377, R378: after a fence over a set of paths at a scope, no core-earlier write on one of them is still in
its path buffer; every one of them is visible at that scope on all of them; no other write has stepped.  The stream's own
direct writes are core-earlier; a write of another core on a path other than the copy path never is. -/
def Claims.FencesOrder : Prop := ∀ (s : State) (paths : BitVec 6) (scope : Nat),
  let t := s.fencePaths paths scope
  let earlier := s.earlierOn paths
  (∀ w ∈ t.buf, earlier w = false) ∧
  (∀ w ∈ s.buf, earlier w = false → w ∈ t.buf) ∧
  (∀ w ∈ t.log, earlier w = true → ∀ q : Path, paths.getLsbD q.bit = true → scope + 1 ≤ tget 0 w.vis q.bit) ∧
  t.log.length = s.log.length + (s.buf.filter earlier).length ∧
  t.mem = s.mem ∧ t.cores = s.cores ∧
  (∀ w : Write, w.party = s.party → w.work = false → earlier w = paths.getLsbD w.path.bit) ∧
  (∀ w : Write, w.party.core ≠ s.party.core → w.path ≠ .cp → earlier w = false)

/-- R127, R128, R129, R136, R311, R376, R377: a fence whose earlier accesses are done completes as the ordering machine's fence
over its paths, and waits otherwise, in the AE for every request too (R311); `WAITC` completes at once when CYC has reached its register, and else waits; `NOP`
has no effect. -/
def Claims.FencesAndWaits : Prop := ∀ (s : State) (a : GReg) (scope : BitVec 3) (paths : BitVec 6) (c : Nat) (e : Eng),
  s.cur = .eng c e → s.me.owed = [] →
  (s.fenceReady s.ownMask = true → s.me.reqs = [] →
    Completes (.fence scope) s (s.fencePaths s.ownMask scope.toNat) 4) ∧
  (s.fenceReady s.ownMask = false ∨ s.me.reqs ≠ [] → Waits (.fence scope) s) ∧
  (s.fenceReady paths = true → Completes (.xfence scope paths) s (s.fencePaths paths scope.toNat) 4) ∧
  (s.fenceReady paths = false → Waits (.xfence scope paths) s) ∧
  ((s.g a).toNat ≤ s.cyc % 2 ^ 64 → Completes (.waitc a) s s 4) ∧
  (s.cyc % 2 ^ 64 < (s.g a).toNat → Waits (.waitc a) s) ∧
  Completes .nop s s 4

/-- R127, R128, R129, R136, R376, R377, R378: Fences complete where the earlier accesses are done, and what they
order; WAITC and NOP. It says of each of these that exec answers a next state, on conditions on the state and the
operands alone: `fence`, `xfence`, `waitc`, `nop`. -/
def Obligations.Fences : Prop := Claims.FencesOrder ∧ Claims.FencesAndWaits

/-- R124, R125: `TWAIT` pops one token from every named line in one step when each holds one, and else waits with all of
them as they are; `TSIG` pushes one to every named line when each has room for one of its 16, and else waits.  No other
line changes.  Their words, and the mask of `ae+ve` in a CE stream.  The premise is a
stream none of whose signals waits for room: how those are delivered is the model's choice, log entry 11.
It says of each of these that exec answers a next state, on conditions on the state and the operands alone: `twait`,
`tsig`. -/
def Obligations.Tokens : Prop := ∀ (s : State) (m : BitVec 3) (c : Nat) (e : Eng),
  s.cur = .eng c e → s.me.owed = [] → s.me.sigs = [] →
  let b := s.bank c
  let named := maskLines e m
  ((∀ x ∈ named, 1 ≤ b.line x e) →
    ∃ u, Completes (.twait m) s u 4 ∧
      u = (s.setBank c { b with
        lines := (u.bank c).lines, lineClk := (u.bank c).lineClk, stuckSince := (u.bank c).stuckSince
        stuckFor := (u.bank c).stuckFor }).setMe
          { s.me with clk := u.me.clk } ∧
      ∀ x y, (u.bank c).line x y = if y = e ∧ x ∈ named then b.line x y - 1 else b.line x y) ∧
  ((∃ x ∈ named, b.line x e = 0) → Waits (.twait m) s) ∧
  ((∀ x ∈ named, b.line e x < 16) →
    ∃ u, Completes (.tsig m) s u 4 ∧
      u = s.setBank c { b with
        lines := (u.bank c).lines, lineClk := (u.bank c).lineClk, stuckSince := (u.bank c).stuckSince
        stuckFor := (u.bank c).stuckFor } ∧
      ∀ x y, (u.bank c).line x y = if x = e ∧ y ∈ named then b.line x y + 1 else b.line x y) ∧
  ((∃ x ∈ named, 16 ≤ b.line e x) → Waits (.tsig m) s) ∧
  (m ≠ 0 → ∀ (f : Eng) (w2 : W32),
    decode (.eng f) ((0 : BitVec 1) ++ (31 : BitVec 6) ++ (0 : BitVec 22) ++ m) w2 = .ok (.twait m) ∧
    decode (.eng f) ((0 : BitVec 1) ++ (32 : BitVec 6) ++ (0 : BitVec 22) ++ m) w2 = .ok (.tsig m)) ∧
  maskLines .ce 3 = [.ae, .ve]

/-- R36, R37, R130: what `CSRR` writes to g[d], by register number, in a stream of the vector engine; the other engines
have all of them but VRB and the deferred-queue count.  The read of HEALTH[0] takes the snapshot of all eight words.
It says of this one that exec answers a next state, on conditions on the state and the operands alone: `csrr`. -/
def Obligations.SystemRegisterReads : Prop := ∀ (s : State) (d : GReg) (c : Nat) (e : Eng),
  s.cur = .eng c e →
  let t := s.me
  WritesG (.csrr d 0x000) s 4 d (t.fcw.setWidth 64) ∧ WritesG (.csrr d 0x001) s 4 d t.amax ∧
  WritesG (.csrr d 0x003) s 4 d (t.ftb.setWidth 64) ∧ WritesG (.csrr d 0x004) s 4 d (t.ftsel.setWidth 64) ∧
  (∀ i : Nat, i < 4 → WritesG (.csrr d (BitVec.ofNat 12 (8 + i))) s 4 d (tget 0 t.pm i)) ∧
  (t.owed = [] ∨ (t.waitId ≠ 0 ∧ ∀ o ∈ t.owed, o.step = false) → State.stepOpen t = false → WritesG (.csrr d 0x010) s 4 d (t.stepstat.setWidth 64)) ∧
  WritesG (.csrr d 0x020) s 4 d t.trappc ∧ WritesG (.csrr d 0x021) s 4 d t.trapcode ∧
  (∀ i : Nat, i < 8 → WritesG (.csrr d (BitVec.ofNat 12 (0x30 + i))) s 4 d (tget 0 t.traprec i)) ∧
  WritesG (.csrr d 0x040) s 4 d (BitVec.ofNat 64 s.cyc) ∧
  WritesG (.csrr d 0x041) s 4 d (jobId c (s.bank c).job) ∧
  WritesG (.csrr d 0x042) s 4 d (ctxIdWord (s.bank c).job) ∧
  WritesG (.csrr d 0x044) s 4 d (boolWord (s.ctx (s.bank c).job.ctx).gsf) ∧
  (∀ i : Nat, 1 ≤ i → i < 8 → WritesG (.csrr d (BitVec.ofNat 12 (0x48 + i))) s 4 d (tget 0 t.health i)) ∧
  Completes (.csrr d 0x048) s
    ((s.setMe { t with health := s.healthSnapshot }).setG d (tget 0 s.healthSnapshot 0)) 4 ∧
  (e = .ve → WritesG (.csrr d 0x002) s 4 d (t.vrb.setWidth 64) ∧
    WritesG (.csrr d 0x043) s 4 d (BitVec.ofNat 64 (s.bank c).dq.length)) ∧
  (e ≠ .ve → exec (.csrr d 0x002) s = .next s.illegal ∧ exec (.csrr d 0x043) s = .next s.illegal)

/-- R36, R40, R56, R59, R130, R152, R155, R158: what `CSRW` leaves in each register that it may name, by the register's
field map; nothing else changes.  A rounding mode of 5 to 7 is not taken, and TRAPCODE.H is cleared by a one.
It says of this one that exec answers a next state, on conditions on the state and the operands alone: `csrw`. -/
def Obligations.SystemRegisterWrites : Prop := ∀ (s : State) (a : GReg) (c : Nat) (e : Eng),
  s.cur = .eng c e →
  let t := s.me
  let v := s.g a
  let w := v.setWidth 32
  (∃ f : W32, Completes (.csrw 0x000 a) s (s.setMe { t with fcw := f }) 4 ∧
    (∀ i : Nat, 3 ≤ i → i < 13 → f.getLsbD i = v.getLsbD i) ∧ (∀ i : Nat, 13 ≤ i → f.getLsbD i = false) ∧
    f.extractLsb' 0 3 = if (v.toNat % 8) ≤ 4 then v.extractLsb' 0 3 else t.fcw.extractLsb' 0 3) ∧
  Completes (.csrw 0x001 a) s (s.setMe { t with amax := v &&& 0x17FFFFFFF }) 4 ∧
  Completes (.csrw 0x003 a) s (s.setMe { t with ftb := w &&& 0x3F }) 4 ∧
  Completes (.csrw 0x004 a) s (s.setMe { t with ftsel := w &&& 3 }) 4 ∧
  (∀ i : Nat, i < 4 → Completes (.csrw (BitVec.ofNat 12 (8 + i)) a) s (s.setMe { t with pm := tset t.pm i v }) 4) ∧
  Completes (.csrw 0x020 a) s (s.setMe { t with trappc := v }) 4 ∧
  (v.getLsbD 16 = true → t.inTrap = true →
    Completes (.csrw 0x021 a) s
      (s.setMe { t with trapcode := t.trapcode &&& ~~~(1#64 <<< 16), wdNote := some t.trappc }) 4) ∧
  (v.getLsbD 16 = false ∨ t.inTrap = false → Completes (.csrw 0x021 a) s s 4) ∧
  (e = .ve → Completes (.csrw 0x002 a) s (s.setMe { t with vrb := w &&& 0x71F }) 4)

/-- R39, R40, R131: `TRAP` outside a handler, in a stream whose kit declares a trap entry: TRAPPC and TRAPREC[0] hold its
address, TRAPREC[1] is 0, TRAPREC[2] holds its word, the rest of TRAPREC is 0; TRAPCODE holds the code, H, REC, WD and class
0; PC is the trap entry; no other register of the stream and nothing outside it changes.
It says of this one that exec answers a next state, on conditions on the state and the operands alone: `trap`. -/
def Obligations.TrapEntry : Prop := ∀ (s : State) (n : BitVec 13) (c : Nat) (e : Eng) (entry : Word),
  s.cur = .eng c e → s.me.trapEntry = some entry → s.me.inTrap = false →
  ∃ x, exec (.trap n) s = .next (s.setMe x) ∧ s.SameReads (s.setMe x) ∧
    x = { s.me with
      pc := entry, trappc := s.me.pc, trapcode := x.trapcode, traprec := x.traprec, waited := false, waitId := 0
      stuck := false, blocked := false, waitsOn := none, held := [], took := {}, undo := none } ∧
    x.trapcode = 0x3000B ||| (if s.me.waited then 0x40000 else 0) ∧
    tget 0 x.traprec 0 = s.me.pc ∧ tget 0 x.traprec 1 = 0 ∧ tget 0 x.traprec 2 = s.reportedWords s.me.pc ∧
    ∀ i, 3 ≤ i → tget 0 x.traprec i = 0

/-- R39, R40, R405: a trap while a handler runs is DOUBLE_TRAP, which is not recoverable, and a trap in a stream whose kit
declares no trap entry ends the job: the record is posted with the code, the reported address and the first five words of
TRAPREC, and every stream of the job stops. -/
def Claims.TrapsThatEndTheJob : Prop := ∀ (s : State) (n : BitVec 13) (c : Nat) (e : Eng),
  s.cur = .eng c e → s.me.inTrap = true ∨ s.me.trapEntry = none →
  ∃ x r, exec (.trap n) s = .next ((s.setMe x).jobFail c (s.core c).runB r) ∧
    r.code = (if s.me.inTrap then 0x0C else 0x0B) ∧ r.cls = 0 ∧ r.src = srcField c e.num ∧ r.pc = s.me.pc ∧
    r.words = [s.me.pc, 0, s.reportedWords s.me.pc, 0, 0] ∧ r.flags.recov = !s.me.inTrap ∧
    x.pc = s.me.pc ∧ x.trappc = s.me.pc ∧ x.g = s.me.g ∧ x.spill = s.me.spill

/-- R110, R137: `TRET` in a handler clears H and goes to TRAPPC in one step, reading no general register; outside a
handler, and in an outpost, it raises ILLEGAL_INSTR. -/
def Claims.TrapReturn : Prop := ∀ (s : State),
  (s.inOutpost = false → s.me.inTrap = true → s.me.trappc.toNat % 4 = 0 →
    ∃ x, exec .tret s = .next (s.setMe x) ∧ x.pc = s.me.trappc ∧ x.inTrap = false ∧
      (∀ i, i ≠ 16 → x.trapcode.getLsbD i = s.me.trapcode.getLsbD i) ∧
      x = { s.me.landed s.me.trappc with trapcode := x.trapcode, wdNote := some s.me.trappc }) ∧
  (s.inOutpost = true ∨ s.me.inTrap = false → exec .tret s = .next s.illegal)

/-- R110, R31: a taken transfer to an address whose low bits are not zero keeps its link and takes a fetch fault that
reports the target: PC_ALIGN inside the instruction memory, FETCH_RANGE beyond it.  The model's choice, log entry 74: the
address that the fault reports is 0, and the word is what stands at the target. -/
def Claims.BadTargets : Prop := ∀ (s : State) (l a : GReg),
  let target := s.g a
  let u := (s.setG l (s.me.pc + 4)).setMe ((s.setG l (s.me.pc + 4)).me.landed target)
  target.toNat % 4 ≠ 0 →
  (target.toNat < s.imemSize → exec (.jmp l a) s = .next (u.trapAt target 0x03 0)) ∧
  (s.imemSize ≤ target.toNat → exec (.jmp l a) s = .next (u.trapAt target 0x02 0))

/-- R31, R39, R40, R110, R137, R405: Traps that end the job, the return from a handler, and transfers to bad targets.
It says of this one that exec answers a next state, on conditions on the state and the operands alone: `tret`. -/
def Obligations.TrapEnds : Prop := Claims.TrapsThatEndTheJob ∧ Claims.TrapReturn ∧ Claims.BadTargets

/-- R132, R412, R416: `REGION` completes and writes the stream's record in the job's checkpoint slot: the address past it, the
mask, the named registers and the loops; the new region is not sealed, and the bytes of the slot in the context's memory are
the record's.  One that closes a sealed region under a pending pre-emption waits after its record is written.  In an outpost
it writes none.  The model's choice, log entry 85: the record holds the order of the active loops.  The model's choice, log entry
13: the record is state of the model, whose bytes are written at CKBASE. -/
def Claims.Regions : Prop := ∀ (s : State) (mask : BitVec 31),
  (∀ c e, s.cur = .eng c e → (s.me.sealed = false ∧ s.me.waitId ≠ 1) ∨ s.preemptPending c = false →
    ∃ u r, Completes (.region mask) s u 8 ∧
      u = { s with
        slots := u.slots, log := u.log, eccBad := u.eccBad
        mgmt := { s.mgmt with chans := u.mgmt.chans, chanReq := u.mgmt.chanReq } }.setMe
          { s.me with sealed := false, sealCount := 0 } ∧
      s.ReadsBut u (s.recordAt c e) ∧
      (∀ a p q i, s.recordAt c e = some a → (∀ j, j < 256 → mapped (a + j) = true) → i < 256 →
        u.visByte p q (a + i) = (RegionRec.bytes r).getD i 0) ∧
      (∀ x ∈ u.slots, x.ended = false → x.ctx = (s.bank c).job.ctx → x.idx = (s.bank c).job.slot → tget {} x.recs e.num = r) ∧
      (∀ x ∈ s.slots, x.ended = true ∨ ¬(x.ctx = (s.bank c).job.ctx ∧ x.idx = (s.bank c).job.slot) → x ∈ u.slots) ∧
      r.rpc = s.me.pc + 8 ∧ r.mask = mask ∧ r.loops = s.me.lc ∧ r.order = s.me.order ∧ r.sealed = false ∧
      ∀ i : Nat, i < 31 → tget 0 r.regs (i + 1) = if mask.getLsbD i then s.me.rg (BitVec.ofNat 6 (i + 1)) else 0) ∧
  (∀ c e, s.cur = .eng c e → s.me.sealed = true → s.preemptPending c = true →
    ∃ u, exec (.region mask) s = .next u ∧ u.me.pc = s.me.pc ∧ u.me.sealed = false ∧ u.cyc = s.cyc + 1) ∧
  (∀ o f, s.cur = .frame o f → Completes (.region mask) s s 8)

/-- R134, R139: `RDV` waits while something that the stream has issued is not over; else it completes: it ends the stream,
whose program counter stands, and with the last started stream the job, whose bank is then empty; no byte reads otherwise
but those of the stream's record and of the job's stores that were still on their way; in an outpost it ends the call with
no reply.  The model's choice, log entry 33: what `RDV` waits for. -/
def Claims.StreamEnds : Prop := ∀ (s : State),
  (∀ c e, s.cur = .eng c e → s.allOver c e = false → Waits .rdv s) ∧
  (∀ c e, s.cur = .eng c e → s.allOver c e = true → s.me.owed = [] → (∃ f, f ≠ e ∧ ((s.bank c).get f).life = .running) →
    ∃ t, exec .rdv s = .next t ∧ t.me.life = .done ∧ t.me.pc = s.me.pc ∧ (t.bank c).st = (s.bank c).st ∧
      (∀ f, f ≠ e → (t.bank c).get f = (s.bank c).get f) ∧ s.ReadsBut t (s.recordAt c e)) ∧
  (∀ c e, s.cur = .eng c e → s.allOver c e = true → s.me.owed = [] →
    (∀ f, f ≠ e → ((s.bank c).get f).life ≠ .running) → s.gang (s.bank c).job.gang = none →
    ∃ t, exec .rdv s = .next t ∧ ((t.core c).get (s.core c).runB).st = .empty ∧
      (t.core c).lastCtx = some (s.bank c).job.ctx ∧
      ∀ p q a, (∀ x, s.recordAt c e = some x → a < x ∨ x + 256 ≤ a) →
        (∀ w ∈ s.buf, w.party.pkg = 0 → w.party.core = c → w.party.bankB = (s.core c).runB → w.hits [(a, 1)] = false) →
        t.readByte p q a = s.readByte p q a) ∧
  (∀ o f, s.cur = .frame o f →
    ∃ t, exec .rdv s = .next t ∧ (t.frame o f).busy = false ∧ (t.frame o f).call = none ∧ t.replies = s.replies ∧
      t.outs = s.outs)

/-- R132, R134, R139, R412, R416: REGION writes its record; RDV ends the stream and the job. It says of each of these
that exec answers a next state, on conditions on the state and the operands alone: `region`, `rdv`. -/
def Obligations.RegionsAndEnds : Prop := Claims.Regions ∧ Claims.StreamEnds

/-- R147, R148: the wait step of a private instruction pops one token from each line that its pattern names and takes one
from its semaphore, when all of them can be taken and the stream owes no report, and takes nothing otherwise; what a
semaphore holds for an engine is what the waits that come before it in the fixed order leave.  Pattern 0, and a wait step
already taken, ask for nothing.  The signal step pushes one token to each line and adds one to the
semaphore when there is room for all of them, and otherwise is left for later. -/
def Obligations.PatternSteps : Prop := ∀ (s : State) (tk : Tk) (c : Nat) (e : Eng),
  s.cur = .eng c e →
  let b := s.bank c
  let p := s.me.pattern tk
  let named := maskLines e (patWait p)
  (tk = 0 → s.afterWait tk = some s) ∧
  (s.me.waited = true → s.afterWait tk = some s) ∧
  (s.waitsFor tk = true → s.me.owed = [] → (∀ x ∈ named, 1 ≤ b.line x e) → (patSwe p = true → 1 ≤ b.semFor e (patSwi p)) →
    ∃ w, s.afterWait tk = some w ∧ 
      w.me = { s.me with waited := true, waitsOn := none, took := s.taking c e p, clk := w.me.clk } ∧
      (∀ x y, (w.bank c).line x y = if y = e ∧ x ∈ named then b.line x y - 1 else b.line x y) ∧
      (∀ n, (w.bank c).sem n = if patSwe p = true ∧ n = patSwi p then b.sem n - 1 else b.sem n) ∧ s.SameReads w) ∧
  (s.waitsFor tk = true → (∃ x ∈ named, b.line x e = 0) ∨ (patSwe p = true ∧ b.semFor e (patSwi p) = 0) →
    s.afterWait tk = none) ∧
  (∀ g : Sig, b.canSignal e g = true →
    (∀ x y, ((s.finishMe g).bank c).line x y = if x = e ∧ y ∈ maskLines e g.lines then b.line x y + 1 else b.line x y) ∧
    (∀ n, ((s.finishMe g).bank c).sem n = if g.sse = true ∧ n = g.ssi then b.sem n + 1 else b.sem n) ∧
    (s.finishMe g).me = s.me ∧ s.SameReads (s.finishMe g)) ∧
  (∀ g : Sig, b.canSignal e g = false → s.finishMe g = s.setMe { s.me with sigs := s.me.sigs ++ [g] })

/-- R198, R199, R221: `MQPUSH` of a record that passes its checks appends it to a queue of fewer than 16 commands, with
the FCW rounding mode, the format-table entry and the handle that it captures, and waits while the queue is full;
`MQDEPTH` reports the queue, the slots and the drop mask, and `MQDEPTH.CLR` clears that mask as well; `MQDROP` removes every
command that has not started and reports how many. -/
def Claims.MatrixQueue : Prop := ∀ (s w : State) (d a : GReg) (tk : Tk) (c : Nat),
  s.cur = .eng c .ce → s.afterWait tk = some w →
  let b := w.bank c
  let record := mqRecord w.me a
  ((w.mxCheck record).1 = .ok → b.mq.length < 16 →
    CompletesP (.mqpush a tk) s
      (w.setBank c { b with
        mq := b.mq ++ [{ record := record, pc := w.me.pc, rm := w.me.fcw.extractLsb' 0 3, fte := (w.mxCheck record).2
                         h := w.mxHandle record, clk := w.me.chain .ce w.nextId }]
        stuckSince := none, stuckFor := 0 }) tk 4) ∧
  ((w.mxCheck record).1 = .ok → 16 ≤ b.mq.length → WaitsP (.mqpush a tk) w s) ∧
  (a ≠ 0 → ∀ i : Nat, i < 4 →
    record.extractLsb' (32 * i) 32 = (w.me.rg (a + BitVec.ofNat 6 i)).extractLsb' 0 32) ∧
  (a = 0 → record = 0) ∧
  WritesGP (.mqdepth d tk) s w tk 4 d (mqWord b) ∧
  CompletesP (.mqdepthClr d tk) s ((w.setG d (mqWord b)).modCurBank fun b => { b with drop := 0 }) tk 4 ∧
  (∃ u, CompletesP (.mqdrop d tk) s u tk 4 ∧ (u.bank c).mq = b.mq.filter (fun m => m.started) ∧
    (∀ r, u.g r = if r = d ∧ r ≠ 0 then BitVec.ofNat 64 (b.mq.filter fun m => !m.started).length else w.g r))

/-- R149, R150: `SEMW` takes n from a semaphore that holds it for the control engine, and waits otherwise; `SEMS` adds n to one that stays at or below
255, and otherwise traps with none added; no other semaphore changes. -/
def Claims.Semaphores : Prop := ∀ (s w : State) (i : BitVec 4) (n1 : BitVec 6) (tk : Tk) (c : Nat),
  s.cur = .eng c .ce → s.afterWait tk = some w → w.me.owed = [] →
  let b := w.bank c
  let n := n1.toNat + 1
  (n ≤ b.semFor .ce i →
    ∃ u, CompletesP (.semw i n1 tk) s (w.setBank c u) tk 4 ∧
      u = { b with sems := u.sems, semClk := u.semClk, ce := { b.ce with clk := u.ce.clk }, stuckSince := none, stuckFor := 0 } ∧
      ∀ j, u.sem j = if j = i then b.sem j - n else b.sem j) ∧
  (b.semFor .ce i < n → WaitsP (.semw i n1 tk) (w.noteWait 0 true i n) s) ∧
  ((∀ m ∈ b.mq.head?, m.waitedSem = false ∨ (mxHdr m.record).swi ≠ i) → b.semFor .ce i = b.sem i) ∧
  (b.sem i + n ≤ 255 →
    ∃ u, CompletesP (.sems i n1 tk) s (w.setBank c u) tk 4 ∧ u = { b with
        sems := u.sems, semClk := u.semClk, stuckSince := none, stuckFor := 0 } ∧
      ∀ j, u.sem j = if j = i then b.sem j + n else b.sem j) ∧
  (255 < b.sem i + n → exec (.sems i n1 tk) s = .next (w.trap 0x19 0))

/-- R150, R198, R199, R221: MQPUSH, MQDEPTH and MQDROP; SEMW and SEMS. It says of each of these that exec answers a
next state, on conditions on the state and the operands alone: `mqpush`, `mqdrop`, `mqdepth`, `mqdepthClr`, `semw`,
`sems`. -/
def Obligations.MatrixQueueAndSemaphores : Prop := Claims.MatrixQueue ∧ Claims.Semaphores

/-- R159: the bucket that `BSEL` takes: the smallest size at or above D, the lowest index on equal sizes, and none when
every size is below D. -/
def Claims.BucketChoice : Prop := ∀ (sizes : List Nat) (dim : Nat),
  (∀ j, bucketOf sizes dim = some j → j < sizes.length ∧ dim ≤ sizes.getD j 0 ∧
    ∀ i, i < sizes.length → dim ≤ sizes.getD i 0 → sizes.getD j 0 < sizes.getD i 0 ∨ (sizes.getD j 0 = sizes.getD i 0 ∧ j ≤ i)) ∧
  (bucketOf sizes dim = none → ∀ i, i < sizes.length → sizes.getD i 0 < dim)

/-- R156, R159, R255, R300, R420: where the remaining instructions of the control engine complete: `BSEL` goes to the entry
of the chosen bucket, writes its index and sets a padding mask in every started stream of the job; `FTW` writes an entry
that holds no reserved value; `LAUNCH` of a legal record answers where it was placed; `YIELD` answers 0 when nothing waits
and no pre-emption is pending and 1 when one is; `GSFSET` and its OR form answer the old skip flag and set the new one;
`KITLD`, which has no rule of its own, raises ILLEGAL_INSTR (log entry 6). -/
def Claims.ControlEngine : Prop := ∀ (s w : State) (d a b : GReg) (tk : Tk) (c : Nat),
  s.cur = .eng c .ce → s.afterWait tk = some w →
  let x := (w.bank c).job.ctx
  (∀ (k : BitVec 2) (j : Nat),
    let at0 := (w.g b).toNat
    let m := w.scratchNat .sc at0 2
    let tab := (List.range m).map fun i => w.scratchNat .sc (at0 + 8 + 8 * i) 8
    let dim := (w.g a).toNat
    w.chkRead .sc at0 8 8 = .ok → w.chkRead .sc at0 (8 + 8 * m) 8 = .ok → 1 ≤ m → m ≤ 32 → dim < 2 ^ 32 →
    bucketOf (tab.map (· % 2 ^ 32)) dim = some j → tab.getD j 0 / 2 ^ 32 % 4 = 0 →
    ∃ u, GoesToP (.bsel k d a b tk) s u tk (BitVec.ofNat 64 (tab.getD j 0 / 2 ^ 32)) ∧
      (∀ r, u.g r = if r = d ∧ r ≠ 0 then BitVec.ofNat 64 j else w.g r) ∧
      (∀ f, ((u.bank c).get f).life ≠ .off → tget 0 ((u.bank c).get f).pm k.toNat =
        BitVec.ofNat 64 dim ||| (BitVec.ofNat 64 (tab.getD j 0 % 2 ^ 32 - dim) <<< 32))) ∧
  (∀ (n : BitVec 6) (engs : BitVec 4),
    State.ftReserved ((w.g a).extractLsb' 0 32) = false →
    ∃ u, CompletesP (.ftw n a engs tk) s (w.setBank c u) tk 4 ∧
      ∀ e, u.get e = if ((w.bank c).get e).life ≠ .off ∧ engs.getLsbD e.num = true
        then { (w.bank c).get e with ft := tset ((w.bank c).get e).ft n.toNat ((w.g a).extractLsb' 0 32) }
        else (w.bank c).get e) ∧
  (∀ rec_ where_ v,
    w.chkRead .sc (w.g a).toNat 64 64 = .ok → parseWalk (w.scratchBytes .sc (w.g a).toNat 64) = some rec_ →
    w.fenceReady 1 = true →
    let q := (w.bank c).job
    let prio := min rec_.prio (tget {} (w.ctx q.ctx).sqs q.sq.toNat : Sq).prio.toNat
    (w.releasePaths 1 5).placeLaunch q { rec_ with prio := prio }
      ((w.scratchBytes .sc (w.g a).toNat 64).set 18 (BitVec.ofNat 8 prio)) = (some where_, v) →
    CompletesP (.launch d a tk) s (v.setG d (BitVec.ofNat 64 where_)) tk 4) ∧
  (∀ g, w.gang (w.bank c).job.gang = some g → g.preempt.isSome = true → WritesGP (.yield d tk) s w tk 4 d 1) ∧
  (∀ g, w.gang (w.bank c).job.gang = some g → g.preempt = none → w.waitsAbove g.eff = false →
    WritesGP (.yield d tk) s w tk 4 d 0) ∧
  (∀ g, w.gang (w.bank c).job.gang = some g → g.preempt = none → w.waitsAbove g.eff = true →
    CompletesP (.yield d tk) s ((w.requestPreempt g.id).setG d 1) tk 4) ∧
  CompletesP (.gsfset d a tk) s
    ((w.modCtx x fun y => { y with gsf := (w.g a).getLsbD 0 }).setG d (boolWord (w.ctx x).gsf)) tk 4 ∧
  CompletesP (.gsfsetOr d a tk) s
    ((w.modCtx x fun y => { y with gsf := (w.ctx x).gsf || (w.g a).getLsbD 0 }).setG d (boolWord (w.ctx x).gsf)) tk 4 ∧
  (∀ fmt, exec (.kitld d a b fmt tk) s = .next s.illegal)

/-- R156, R159, R255, R300, R420: The bucket BSEL takes, and BSEL, FTW, LAUNCH, YIELD, GSFSET and KITLD. It says of
each of these that exec answers a next state, on conditions on the state and the operands alone: `bsel`, `launch`,
`ftw`, `kitld`, `yield`, `gsfset`, `gsfsetOr`. -/
def Obligations.ControlEngine : Prop := Claims.BucketChoice ∧ Claims.ControlEngine

/-- R361, R335: `RCALL` through a local handle with a free tag takes the lowest one and queues the call at the outpost of
its page with the caller, the entry, the payload registers and the handle's page, once the stream's stores to the page can
step; the tag's generation has moved on.  It completes for an `idem` function, and for another where its region is sealed already or no pre-emption is pending. -/
def Claims.CallsIssue : Prop := ∀ (s w : State) (d a : GReg) (r : HReg) (tk : Tk) (cw : CallW2) (c : Nat) (e : Eng)
    (n : Nat) (i : Instr),
  s.cur = .eng c e → s.afterWait tk = some w → i = .rcall d a r tk cw ∨ i = .rcallAe d a r tk cw →
  w.chkHandle r (w.g a).toInt 1 1 1 = .ok → Handle.remote (w.h r) = false → inWindow (Handle.addr (w.h r)).toNat = false →
  cw.nr = false → freeTag w.me = some n → w.forceHeld (w.pageStores (w.h r)) = false →
  w.idem cw.entry = true ∨ w.me.sealed = true ∨ w.preemptPending c = false →
  let o := outpostOf (Handle.addr (w.h r)).toNat
  ∃ u, CompletesP i s u tk 8 ∧
    (∀ q, u.g q = if q = d ∧ q ≠ 0 then BitVec.ofNat 64 n else w.g q) ∧
    u.me.call n = { st := .flight, gen := (w.me.call n).gen + 1, rb := cw.rb, rn := cw.rn, pc := w.me.pc, issued := w.cyc } ∧
    (u.outpost o).queue = (w.outpost o).queue ++
      [{ id := w.nextId, caller := .tag c (w.core c).runB e n ((w.me.call n).gen + 1), party := w.party
         ctx := (w.bank c).job.ctx, entry := cw.entry, payload := (regRange cw.pb cw.pn.toNat).map w.me.rg
         base := (Handle.addr (w.h r)).toNat, bytes := Handle.bytes (w.h r), perm := Handle.perm (w.h r), off := w.g a }]

/-- R363, R364, R335: `RWAIT` of a tag whose reply is ready writes the return registers and frees the tag; of a free one it
raises ILLEGAL_INSTR; of one in flight it waits, and after 12,000,000 ticks takes the timeout; of a fault reply it traps
with the fault's code.  `RPOLL` answers the tag's state and waits for nothing. -/
def Claims.CallsReturn : Prop := ∀ (s w : State) (d a : GReg) (tk : Tk) (c : Nat) (e : Eng) (i : Instr),
  s.cur = .eng c e → s.afterWait tk = some w → i = .rwait a tk ∨ i = .rwaitAe a tk →
  let n := (w.g a).toNat % 16
  let x := w.me.call n
  (∀ regs, x.st = .ready regs → x.rb.toNat + x.rn.toNat ≤ 64 →
    ∃ u, CompletesP i s u tk 4 ∧ (u.me.call n).st = .free ∧
      ∀ r, u.g r = if x.rb.toNat ≤ r.toNat ∧ r.toNat < x.rb.toNat + x.rn.toNat ∧ r ≠ 0
        then regs.getD (r.toNat - x.rb.toNat) 0 else w.g r) ∧
  (x.st = .free → exec i s = .next w.illegal) ∧
  (x.st = .flight → w.cyc < x.issued + 12000000 → ∃ u, WaitsP i u s ∧ u = w.setMe { w.me with waitId := n + 1 }) ∧
  (x.st = .flight → x.issued + 12000000 ≤ w.cyc → exec i s = .next ((w.freeCall n).trap 0x56 0)) ∧
  (∀ code addr pc word, x.st = .fault code addr pc word →
    exec i s = .next ((w.freeCall n).trapWords code 2 [x.pc, addr, word, pc, BitVec.ofNat 64 n] false)) ∧
  WritesGP (.rpoll d a tk) s w tk 4 d
    (match x.st with
      | .free => 0
      | .flight => if x.issued + 12000000 ≤ w.cyc then 4 else 1
      | .ready _ => 2
      | .fault .. => 3)

/-- R335, R361, R363, R364: RCALL queues its call; RWAIT and RPOLL collect it. It says of each of these that exec
answers a next state, on conditions on the state and the operands alone: `rcall`, `rcallAe`, `rwait`, `rpoll`,
`rwaitAe`. -/
def Obligations.RemoteCalls : Prop := Claims.CallsIssue ∧ Claims.CallsReturn

/-- R278, R308, R309, R313, R315, R316: a tile load, a transposed load or a tile store whose descriptor, shape, format and
handles pass their checks is issued as one request that carries what it captured and its pattern's signals; one that feeds
the operand queue takes its place in that queue's order.  It waits while 32 requests are outstanding. -/
def Claims.TilesIssue : Prop := ∀ (s w : State) (d a b : GReg) (fmt : Fmt) (tk : Tk) (tw : TldW2) (store trans : Bool)
    (i : Instr) (c : Nat) (desc : Desc) (f : Fmt × BitVec 3 × BitVec 2),
  s.cur = .eng c .ae → s.afterWait tk = some w →
  (store = false ∧ trans = false ∧ i = .tld d a b fmt tk tw) ∨ (store = false ∧ trans = true ∧ i = .tldt d a b fmt tk tw) ∨
    (store = true ∧ trans = false ∧ tw.kreg = 0 ∧ tw.q = false ∧ i = .tst d a b fmt tk tw.twm tw.thm tw.rm tw.ovf) →
  let box : TileBox :=
    { d := desc
      c := [((w.g b).extractLsb' 0 32).toInt, ((w.g b).extractLsb' 32 32).toInt, ((w.g (b + 1)).extractLsb' 0 32).toInt,
        ((w.g (b + 1)).extractLsb' 32 32).toInt]
      tw := tw.twm.toNat + 1, th := tw.thm.toNat + 1 }
  let dst := ((w.g d).extractLsb' 0 21).toNat
  w.chkRead .sc (w.g a).toNat 64 64 = .ok → parseDesc (w.scratchBytes .sc (w.g a).toNat 64) = some desc → box.ok = true →
  w.tileFmt desc fmt tw.rm tw.ovf = .ok f → w.tileBad box f.1 (w.g d) tw.q store trans = false →
  (trans = true → 8 ≤ Num.width desc.fmt ∧ desc.s 1 % 64 = 0 ∧ desc.s 1 ≤ 0x1000000) →
  (∀ r ∈ State.descHandles desc, w.handleLocked r = false) → w.tileHandles box (if store then 2 else 1) = .ok →
  (tw.q = false → w.chkScratch dst (tileBytes f.1 box.tw box.th) 64 = .ok) →
  (w.me.reqs.length < 32 →
    ∃ u, Completes i s u 8 ∧ w.AddsReq u
      (.tile { desc := desc, dh := w.h desc.dh, sh := w.h desc.sh, ph := w.h desc.ph, c := box.c, tw := box.tw, th := box.th
               outf := f.1, rm := if f.2.1 = 7 then w.me.fcw.extractLsb' 0 3 else f.2.1, ovf := f.2.2, dst := dst
               pad := (w.g d).extractLsb' 48 16, q := tw.q, transposed := trans, step := w.k tw.kreg, seed := w.g 56
               stepTid := w.g 57, rowCol := w.g 58, store := store }) (patSig (s.me.pattern tk)) ∧
      (u.bank c).oqOrder = (w.bank c).oqOrder ++ (if tw.q then [w.nextId] else [])) ∧
  (32 ≤ w.me.reqs.length → WaitsP i w s)

/-- R317, R318, R319, R320: `QLD`, `GLD` and `GST` with legal operands are issued as one request; `SCQ` appends its packet of
scale bytes, which it reads when it issues, to a FIFO that holds fewer than 32, and waits on a full one. -/
def Claims.FeedsAndGathers : Prop := ∀ (s w : State) (d a b : GReg) (h : HReg) (fmt : Fmt) (tk : Tk) (sz : BitVec 3) (c : Nat),
  s.cur = .eng c .ae → s.afterWait tk = some w →
  (∀ m k : Nat, w.g b = BitVec.ofNat 64 (m + 65536 * k) → 8 ≤ m → m ≤ 512 → m % 8 = 0 → 32 ≤ k → k ≤ 1024 → k % 32 = 0 →
    m * k * fmtSize fmt ≤ 131072 → w.chkScratch (w.g a).toNat (m * k * fmtSize fmt) 16 = .ok →
    (d ≠ 0 → w.chkScratch (w.g d).toNat (m * (k / 32)) 1 = .ok) → w.me.reqs.length < 32 →
    ∃ u, Completes (.qld fmt d a b tk) s u 4 ∧
      w.AddsReq u (.qld fmt (w.g a).toNat m k (if d = 0 then none else some (w.g d).toNat)) (patSig (s.me.pattern tk)) ∧
      (u.bank c).oqOrder = (w.bank c).oqOrder ++ [w.nextId]) ∧
  (let n := ((w.g b).extractLsb' 8 7).toNat
   let bytes := if w.me.held = [] then w.scratchBytes .sc (w.g a).toNat n else w.me.held
   1 ≤ n → n ≤ 64 → (w.me.held = [] → w.chkRead .sc (w.g a).toNat n 1 = .ok) →
    ((w.bank c).fifo.length < 32 →
      CompletesP (.scq a b tk) s
        (w.setBank c { w.bank c with
          fifo := (w.bank c).fifo ++ [{ tag := (w.g b).extractLsb' 0 8, bytes := bytes }]
          stuckSince := none, stuckFor := 0 }) tk 4) ∧
    (32 ≤ (w.bank c).fifo.length → WaitsP (.scq a b tk) (w.setMe { w.me with held := bytes }) s)) ∧
  (∀ (store : Bool) (n base : Nat),
    let size := gatherSize sz
    let offs := (List.range n).map fun j => base + w.scratchNat .sc ((w.g a).toNat + 4 * j) 4 * size
    w.g (a + 1) = BitVec.ofNat 64 (n + 4294967296 * base) → base < 4294967296 → base % 65536 = 0 → 1 ≤ n → n ≤ 256 → n * size ≤ 131072 →
    w.chkRead .sc (w.g a).toNat (4 * n) 4 = .ok → Handle.remote (w.h h) = false →
    (∀ o ∈ offs, w.chkHandle h o size (min size 64) (if store then 2 else 1) = .ok) →
    w.chkScratch (w.g d).toNat (n * size) (min size 64) = .ok → w.me.reqs.length < 32 →
    ∃ u, Completes (if store then .gst sz d h a tk else .gld sz d h a tk) s u 4 ∧
      w.AddsReq u (.gather store size (w.g d).toNat (w.h h) offs) (patSig (s.me.pattern tk)))

/-- R278, R308, R309, R313, R315, R316, R317, R318, R319, R320: Tile requests, feeds and gathers are issued with what
they captured. It says of each of these that exec answers a next state, on conditions on the state and the operands
alone: `tld`, `tldt`, `tst`, `qld`, `scq`, `gld`, `gst`. -/
def Obligations.TilesAndFeedsIssue : Prop := Claims.TilesIssue ∧ Claims.FeedsAndGathers

/-- R321: New(old, operand) of the integer atomics and of the operators that do not depend on the type. -/
def Claims.AtomicOperators : Prop :=
  (∀ o x c : Word,
    amoNew64 .add o x c = o + x ∧ amoNew64 .min o x c = (if x.toInt < o.toInt then x else o) ∧
    amoNew64 .max o x c = (if o.toInt < x.toInt then x else o) ∧ amoNew64 .and o x c = o &&& x ∧
    amoNew64 .or o x c = o ||| x ∧ amoNew64 .xor o x c = o ^^^ x ∧ amoNew64 .swap o x c = x ∧
    amoNew64 .cas o x c = (if o = c then x else o)) ∧
  (∀ o x c : W32,
    amoNew32 .add o x c = o + x ∧ amoNew32 .min o x c = (if x.toInt < o.toInt then x else o) ∧
    amoNew32 .max o x c = (if o.toInt < x.toInt then x else o) ∧ amoNew32 .and o x c = o &&& x ∧
    amoNew32 .or o x c = o ||| x ∧ amoNew32 .xor o x c = o ^^^ x ∧ amoNew32 .swap o x c = x ∧
    amoNew32 .cas o x c = (if o = c then x else o)) ∧
  (∀ (op : AtomOp) (x c : Word) (old : List Byte), (amoBytes op 1 x c old).length = 8 ∧ (amoBytes op 0 x c old).length = 4 ∧
    (amoBytes op 2 x c old).length = 4)

/-- R321, R371, R372, R375: an atomic of core scratch, and one through a local handle that passes its checks, reads the
newest entries of its location once the stream's own writes over it have stepped, appends New(old, operand) to each byte's
coherence sequence, and writes the old value to g[b]; no other register and no other byte changes.  It waits while an older
access of the stream has still to be made there, and where the schedule asks for it, it is issued into the path buffer. -/
def Claims.AtomicResults : Prop := ∀ (s w : State) (op : AtomOp) (loc : Bool) (h : HReg) (ty : BitVec 2) (a b : GReg)
    (tk : Tk) (c : Nat) (pa : Nat) (via : Option Handle),
  s.cur = .eng c .ae → s.afterWait tk = some w →
  let n := amoSize ty
  (loc = true ∧ w.chkScratch (w.g a).toNat n n = .ok ∧ pa = windowBase c + (w.g a).toNat ∧ via = none) ∨
    (loc = false ∧ w.chkHandle h (w.g a).toInt n n 4 = .ok ∧ Handle.remote (w.h h) = false ∧
      pa = ((Handle.addr (w.h h)).toNat + (w.g a).toInt).toNat ∧ via = some (w.h h)) →
  let i := amoInstr op loc h ty a b tk
  let cmp := if op = .cas then w.g (b + 1) else 0
  let v := w.stepOver w.party .sc w.nextId [(pa, n)]
  let old := (List.range n).map fun i => v.lastByte (pa + i)
  (w.me.lazy = true →
    CompletesP i s
      (w.deferLoad { id := 0, pc := 0, addr := pa, n := n, dest := .old b ty, amo := some (op, ty, w.g b, cmp)
                     via := via }) tk 4) ∧
  (w.me.lazy = false → w.readFirst pa n = true ∨ w.landHeld w.party .sc w.nextId [(pa, n)] = true → WaitsP i w s) ∧
  (w.me.lazy = false → w.readFirst pa n = false → w.landHeld w.party .sc w.nextId [(pa, n)] = false →
    w.eccHit pa n = false → (∀ j, j < n → mapped (pa + j) = true ∧ v.tpbGuarded (pa + j) = false) →
    ∃ u, CompletesP i s u tk 4 ∧
      (∀ r, u.g r = if r = b ∧ r ≠ 0 then amoOld ty old else w.g r) ∧
      ((List.range n).map fun j => u.lastByte (pa + j)) = amoBytes op ty (w.g b) cmp old ∧
      (∀ x, x < pa ∨ pa + n ≤ x → u.lastByte x = v.lastByte x))

/-- R321, R372, R375: Atomics: the new value, the old value, and their place in each coherence sequence. It says of
each of these that exec answers a next state, on conditions on the state and the operands alone: `amoAdd`, `amoMin`,
`amoMax`, `amoAnd`, `amoOr`, `amoXor`, `amoSwap`, `amoCas`. -/
def Obligations.Atomics : Prop := Claims.AtomicOperators ∧ Claims.AtomicResults

/-- R272, R322: a translation whose bounds entry admits the pointer is started: it clears V of the handle register and is in
flight; one whose entry does not admit it takes BOUNDS.  `XLTW` waits for the translation that it started and completes once
it is over. -/
def Claims.TranslationsStart : Prop := ∀ (s w : State) (need : BitVec 3) (h : HReg) (a b : GReg) (tk : Tk) (c : Nat) (e : Eng)
    (i : Instr),
  s.cur = .eng c e → s.afterWait tk = some w → i = .xlt need h a b tk ∨ i = .xltx need h a b tk →
  let bound := w.boundOf (w.bank c).job.ctx (ptrRid (w.g a))
  let started := fun (u : State) =>
    u.me.rh h = w.me.rh h &&& ~~~1 ∧ (∀ r, r ≠ h → u.me.rh r = w.me.rh r) ∧ u.me.g = w.me.g ∧
      (∃ x, u.me.xlates.getLast? = some x ∧ x.id = w.nextId ∧ x.hreg = h ∧ x.greg = b ∧ x.ptr = w.g a ∧ x.need = need ∧
        x.bperm = boundPerm bound ∧ x.walking = false ∧ x.live = true ∧ x.at_ = w.cycles)
  (boundAdmits bound (ptrVa (w.g a)) need = true → ∃ u, CompletesP i s u tk 4 ∧ started u) ∧
  (boundAdmits bound (ptrVa (w.g a)) need = false → exec i s = .next (w.trap 0x38 0)) ∧
  (boundAdmits bound (ptrVa (w.g a)) need = true → w.me.waitId = 0 →
    ∃ u, WaitsP (.xltw need h a b tk) u s ∧ u.me.waitId = w.nextId ∧ started u) ∧
  (w.me.waitId ≠ 0 → (∀ x ∈ w.me.xlates, x.id ≠ w.me.waitId) → CompletesP (.xltw need h a b tk) s w tk 4) ∧
  (w.me.waitId ≠ 0 → (∃ x ∈ w.me.xlates, x.id = w.me.waitId) → WaitsP (.xltw need h a b tk) w s)

/-- R274, R275, R323: an invalidation clears V of every handle register of the stream that its rule names, and of no other,
and completes where no earlier access that it may match is still on its way; one that waits completes once it is over. -/
def Claims.Invalidations : Prop := ∀ (s w : State) (a b : GReg) (tk : Tk) (c : Nat) (i : Instr) (r : InvMatch),
  s.cur = .eng c .ae → s.afterWait tk = some w →
  (i = .hinvAll tk ∧ r = .all) ∨ (i = .hinvRid a tk ∧ r = .rid ((w.g a).extractLsb' 0 7)) ∨
    (i = .hinvRange a b tk ∧ r = .range false (w.g a).toNat (w.g b).toNat) ∨
    (i = .hinvRangeRem a b tk ∧ r = .range true (w.g a).toNat (w.g b).toNat) →
  let x := (w.bank c).job.ctx
  let v := (w.invalidate x r).2
  (w.me.waitId = 0 → (∀ y ∈ v.invals, y.id = w.nextId → v.invOpen y = false) →
    ∃ u, CompletesP i s u tk 4 ∧ u.invals = v.invals.filter (fun y => y.id ≠ w.nextId) ∧ u.me.g = w.me.g ∧
      ((w.bank c).busy = true → ∀ q,
        u.me.rh q = if invHits r (w.me.rh q) = true then w.me.rh q &&& ~~~1 else w.me.rh q)) ∧
  (w.me.waitId = 0 → (∃ y ∈ v.invals, y.id = w.nextId ∧ v.invOpen y = true) →
    ∃ u, WaitsP i u s ∧ u.me.waitId = w.nextId) ∧
  (w.me.waitId ≠ 0 → (∀ y ∈ w.invals, y.id ≠ w.me.waitId) → CompletesP i s w tk 4) ∧
  (∀ q : Handle, invHits .all q = true ∧ (∀ k, invHits (.rid k) q = decide (Handle.rid q = k)) ∧
    (∀ m base len, invHits (.range m base len) q =
      (decide (len ≠ 0 ∧ Handle.st q = 1) || (decide (Handle.st q = 0) && (Handle.remote q == m) &&
        overlap (Handle.addr q).toNat (Handle.bytes q) base len))))

/-- R324, R325: `HCHK` reads the low half of a handle register and `HCHK.addr` its high half, waiting only for a lookup;
`HMOV` copies a handle that is not PENDING to a register of a started engine of the same job. -/
def Claims.HandleMoves : Prop := ∀ (s w : State) (d : GReg) (h hd : HReg) (eng : BitVec 2) (tk : Tk) (c : Nat),
  s.cur = .eng c .ae → s.afterWait tk = some w → w.handleLocked h = false →
  WritesGP (.hchk d h tk) s w tk 4 d ((w.h h).extractLsb' 0 64) ∧
  WritesGP (.hchkAddr d h tk) s w tk 4 d ((w.h h).extractLsb' 64 64) ∧
  (Handle.v (w.h h) = false ∨ Handle.st (w.h h) ≠ 1 → ((w.bank c).get (Eng.ofCode eng)).life ≠ .off →
    ∃ u, CompletesP (.hmov eng hd h tk) s u tk 4 ∧
      (∀ q, ((u.bank c).get (Eng.ofCode eng)).rh q =
        if q = hd then w.h h else ((w.bank c).get (Eng.ofCode eng)).rh q) ∧
      ((u.bank c).get (Eng.ofCode eng)).g = ((w.bank c).get (Eng.ofCode eng)).g ∧
      (∀ f, f ≠ Eng.ofCode eng → (u.bank c).get f = (w.bank c).get f)) ∧
  (Handle.v (w.h h) = true → Handle.st (w.h h) = 1 → WaitsP (.hmov eng hd h tk) w s)

/-- R272, R274, R275, R322, R323, R324, R325: Translations start, invalidations clear, and handles are read and moved.
It says of each of these that exec answers a next state, on conditions on the state and the operands alone: `xlt`,
`xltw`, `xltx`, `hinvAll`, `hinvRid`, `hinvRange`, `hinvRangeRem`, `hchk`, `hchkAddr`, `hmov`. -/
def Obligations.TranslationsAndHandles : Prop := Claims.TranslationsStart ∧ Claims.Invalidations ∧ Claims.HandleMoves

/-- R309, R326, R327, R328, R367, R413: with a tensor that passes the shared checks on the path of the instruction, `KGET` writes its COMMIT to k[d]; `WREL`, `TUPD`
and `TSKIP` issue their commands, which carry the handles and the step or the gradient, and seal the region.
It says of each of these that exec answers a next state, on conditions on the state and the operands alone: `kget`,
`wrel`, `tupd`, `tskip`. -/
def Obligations.WeightSteps : Prop := ∀ (s w : State) (a b : GReg) (k : KReg) (h : HReg) (tk : Tk) (c : Nat) (d : Desc) (t : Tpb),
  s.cur = .eng c .ae → s.afterWait tk = some w →
  let v := w.tensorRead t
  (w.NamesTensor .sc a d t → ∃ u, CompletesP (.kget k a tk) s (v.setMe u) tk 4 ∧ u = { v.me with k := u.k } ∧
    ∀ r, u.rk r = if r = k ∧ r ≠ 0 then t.commit else w.k r) ∧
  (w.NamesTensor .near a d t → w.me.reqs.length < 32 → w.me.sealed = true ∨ w.preemptPending c = false →
    (∃ u, Completes (.wrel a k tk) s u 4 ∧ u.me.sealed = true ∧
      v.AddsReq u (.wrel d (w.h d.ph) (w.h d.dh) (w.k k)) (patSig (s.me.pattern tk)) v.myRecord) ∧
    (∃ u, Completes (.tskip a tk) s u 4 ∧ u.me.sealed = true ∧
      v.AddsReq u (.update true d (w.h d.ph) (w.h d.dh) 0 0) (patSig (s.me.pattern tk)) v.myRecord) ∧
    (Handle.remote (w.h h) = false → v.chkHandle h (w.g b).toInt (4 * t.nelem) 64 1 = .ok →
      ∃ u, Completes (.tupd h a b tk) s u 4 ∧ u.me.sealed = true ∧
        v.AddsReq u (.update false d (w.h d.ph) (w.h d.dh) (w.h h) (w.g b).toInt.toNat) (patSig (s.me.pattern tk)) v.myRecord)) ∧
  (w.NamesTensor .near a d t → w.me.reqs.length < 32 → w.me.sealed = false → w.preemptPending c = true →
    ∃ u, WaitsP (.wrel a k tk) u s ∧ u.me.reqs = w.me.reqs)

/-- R309, R329, R330, R331, R333: a near-memory operation with legal operands and fewer than 64 outstanding is posted with
what it captured, to the queue of its unit; `NADD` and `NSEQ` seal the region. -/
def Claims.NearOperationsPost : Prop := ∀ (s w : State) (d a b : GReg) (h : HReg) (fmt : Fmt) (ty : BitVec 2) (tk : Tk) (c : Nat),
  s.cur = .eng c .ae → s.afterWait tk = some w → nearCount w.me < 64 →
  (let ctl := w.g d
   let at0 := (w.g a).toNat
   let r : HReg := ctl.extractLsb' 48 5
   let rlen := ((ctl.extractLsb' 40 6).toNat + 1) * 64
   let dst := (ctl.extractLsb' 0 21).toNat
   let idx := (List.range ((ctl.extractLsb' 32 4).toNat + 1)).map fun j => BitVec.ofNat 32 (w.scratchNat .near (at0 + 4 * j) 4)
   w.chkRead .near at0 64 64 = .ok → w.handleLocked r = false →
   ctl.extractLsb' 21 11 = 0 → ctl.extractLsb' 36 4 = 0 → ctl.extractLsb' 46 2 = 0 → ctl.extractLsb' 53 11 = 0 →
   Handle.remote (w.h r) = false →
   (∀ i ∈ idx, i ≠ BitVec.allOnes 32 → w.chkHandle r ((w.g b).toInt + i.toNat * rlen) rlen 64 1 = .ok) →
   w.chkScratch dst (if fmt = 2 then 2 * rlen else rlen) 64 = .ok →
   ∃ u, CompletesP (.nred fmt d a b tk) s u tk 4 ∧ w.AddsNear u (.nred fmt (w.h r) (w.g b).toInt rlen idx dst)) ∧
  (∀ n src : Nat, w.g b = BitVec.ofNat 64 (src + 4294967296 * (n - 1)) → 1 ≤ n → n ≤ 1024 → src < 2097152 →
    w.chkHandle h (w.g a).toInt (4 * n) 4 4 = .ok → w.chkRead .near src (4 * n) 4 = .ok → Handle.remote (w.h h) = false →
    w.me.sealed = true ∨ w.preemptPending c = false →
    ∃ u, CompletesP (.nadd fmt h a b tk) s u tk 4 ∧ u.me.sealed = true ∧
      w.AddsNear u (.nadd (decide (fmt = 9)) (w.h h) (w.g a).toInt.toNat
        ((List.range n).map fun i => BitVec.ofNat 32 (w.scratchNat .near (src + 4 * i) 4))) w.myRecord) ∧
  (∀ (op : AtomOp) (i : Instr),
    (op = .add ∧ i = .namoAdd ty h a b tk) ∨ (op = .max ∧ i = .namoMax ty h a b tk) ∨
      (op = .swap ∧ i = .namoSwap ty h a b tk) ∨ (op = .cas ∧ i = .namoCas ty h a b tk) →
    w.chkHandle h (w.g a).toInt (amoSize ty) (amoSize ty) 4 = .ok → Handle.remote (w.h h) = false →
    ∃ u, CompletesP i s u tk 4 ∧
      w.AddsNear u (.namo op ty (w.h h) (w.g a).toInt.toNat (w.g b) (if op = .cas then w.g (b + 1) else 0) b)) ∧
  (∀ q : SeqProg,
    let bytes := w.scratchBytes .near (w.g a).toNat 128
    let base := (Handle.addr (w.h q.ha)).toNat
    w.chkRead .near (w.g a).toNat 128 128 = .ok → parseSeq bytes = some q → Handle.remote (w.h q.ha) = false →
    (∀ x ∈ q.extents, w.chkHandle q.ha x.1 x.2 1 3 = .ok) →
    (∀ x ∈ q.extents, inStack (base / 0x1000000000) ((base : Int) + x.1).toNat x.2 = true) →
    w.me.sealed = true ∨ w.preemptPending c = false →
    ∃ u, CompletesP (.nseq a tk) s u tk 4 ∧ u.me.sealed = true ∧ w.AddsNear u (.nseq (w.h q.ha) bytes) w.myRecord)

/-- R334, R336, R337, R386: `NFENCE` completes when the stream has no posted operation left, its writes then visible at core
scope, and else waits; its poll form answers their number.  `TKQ` answers a ticket-table entry, 0 for an entry that holds
none or does not exist, and its count form the stream's own tickets; `PFT` changes no architectural state.  The model's choice,
log entry 48: an entry with V = 0 reads 0. -/
def Claims.NearFencesAndTickets : Prop := ∀ (s w : State) (d a b : GReg) (h : HReg) (tk : Tk) (c : Nat),
  s.cur = .eng c .ae → s.afterWait tk = some w → w.me.owed = [] →
  (nearPosted w.me = 0 →
    CompletesP (.nfence tk) s (w.widenWrites (fun x => x.party = w.party && x.path = .near) 0x11 1) tk 4) ∧
  (nearPosted w.me ≠ 0 → WaitsP (.nfence tk) w s) ∧
  WritesGP (.nfencePoll d tk) s w tk 4 d (BitVec.ofNat 64 (nearPosted w.me)) ∧
  WritesGP (.tkq d a tk) s w tk 4 d
    (if (w.g a).toNat < 32 then ticketWord w ((w.core c).ticket (w.g a).toNat) else 0) ∧
  (∀ t : Ticket, t.v = false → ticketWord w t = 0) ∧
  WritesGP (.tkqCnt d tk) s w tk 4 d
    (BitVec.ofNat 64 ((List.range 32).filter fun i =>
      ((w.core c).ticket i).v && ((w.core c).ticket i).bankB = (w.core c).runB && ((w.core c).ticket i).eng = .ae).length) ∧
  CompletesP (.pft h a b tk) s w tk 4

/-- R309, R329, R330, R331, R333, R334, R336, R337, R386: Near-memory operations are posted; NFENCE, TKQ and PFT. It
says of each of these that exec answers a next state, on conditions on the state and the operands alone: `nred`,
`nadd`, `namoAdd`, `namoMax`, `namoSwap`, `namoCas`, `nseq`, `nfence`, `nfencePoll`, `tkq`, `tkqCnt`, `pft`. -/
def Obligations.NearOperationsIssue : Prop := Claims.NearOperationsPost ∧ Claims.NearFencesAndTickets

/-- R155, R165, R167: the elementwise arithmetic on every element of the registers, in its own type or in that of the
format-table entry: for an integer type the exact result modulo 2^w; for a floating type the rounded result.  It completes
where FCW enables no trap, and changes no other register. -/
def Claims.VectorArithmetic : Prop := ∀ (s w : State) (op : VArith) (d a b : VReg) (fmt : Fmt) (tk : Tk) (c : Nat) (e : VEnv),
  s.cur = .eng c .ve → s.afterWait tk = some w → w.vResolve (vFloats ++ vInts) fmt = some e → w.noTraps →
  let n := Num.width e.fmt
  ∃ u, CompletesP (arithInstr op d a b fmt tk) s u tk 4 ∧ w.VecFrame u c [d.toNat] none none ∧
    ∀ j, j < 4096 / n →
      let x := intCode e.fmt (w.velem a n j)
      let y := intCode e.fmt (w.velem b n j)
      let z := intCode e.fmt (w.velem d n j)
      (isFlt e.fmt = false → (u.velem d n j : Int) = (match op with
        | .add => x + y
        | .sub => x - y
        | .mul => x * y
        | .fma => x * y + z
        | .fms => z - x * y
        | .min => min x y
        | .max => max x y) % 2 ^ n) ∧
      (isFlt e.fmt = true → u.velem d n j =
        (fpOp op (fltFmt e.fmt) e.mode (fcwDaz w.me.fcw) (fcwFtz w.me.fcw) (w.vsr e.mode j) (w.velem a n j) (w.velem b n j)
          (w.velem d n j)).bits % 2 ^ n)

/-- R167: the bitwise instructions and shifts on every element of an integer type: a count of the width or more gives 0,
or copies of the sign.  They always complete. -/
def Claims.VectorLogic : Prop := ∀ (s w : State) (op : VLogic) (d a b : VReg) (fmt : Fmt) (tk : Tk) (c : Nat),
  s.cur = .eng c .ve → s.afterWait tk = some w → vInts.contains fmt = true →
  let n := Num.width fmt
  ∃ u, CompletesP (logicInstr op d a b fmt tk) s u tk 4 ∧ w.VecFrame u c [d.toNat] none none ∧
    ∀ j k, j < 4096 / n → k < n →
      let x := w.velem a n j
      let y := w.velem b n j
      (u.velem d n j).testBit k = (match op with
        | .and => x.testBit k && y.testBit k
        | .or => x.testBit k || y.testBit k
        | .xor => x.testBit k != y.testBit k
        | .shl => decide (y ≤ k) && x.testBit (k - y)
        | .shr => decide (k + y < n) && x.testBit (k + y)
        | .sha => if k + y < n then x.testBit (k + y) else x.testBit (n - 1))

/-- R155, R165, R167: Elementwise vector arithmetic, logic and shifts. It says of each of these that exec answers a
next state, on conditions on the state and the operands alone: `vadd`, `vsub`, `vmul`, `vfma`, `vfms`, `vmin`, `vmax`,
`vand`, `vor`, `vxor`, `vshl`, `vshr`, `vsha`. -/
def Obligations.VectorElementwise : Prop := Claims.VectorArithmetic ∧ Claims.VectorLogic

/-- R168 to R172, R179 to R181, R184, R186: where the instructions that round complete in a type of their own: with legal
operands and no trap enabled in FCW they write their result registers and nothing else. -/
def Claims.VectorRoundingFamilies : Prop := ∀ (s w : State) (d a b : VReg) (x : GReg) (p : PReg) (src fmt : Fmt) (ty : BitVec 2)
    (tk : Tk) (c : Nat),
  s.cur = .eng c .ve → s.afterWait tk = some w → w.noTraps → fmt ≠ 15 →
  let writes := fun (i : Instr) (q : VPlan) (r : VReg) (g : Nat) =>
    q.legal {} = true →
      ∃ u, CompletesP i s u tk 4 ∧ w.VecFrame u c ((List.range g).map fun j => r.toNat + j) none none
  writes (.vwadd d a b fmt tk) (planVwadd d a b fmt) d (wideGroup fmt) ∧
  writes (.vwmul d a b fmt tk) (planVwmul d a b fmt) d (wideGroup fmt) ∧
  writes (.vwfma d a b fmt tk) (planVwfma d a b fmt) d (wideGroup fmt) ∧
  writes (.vcvt d a src fmt tk) (planVcvt d a src fmt) d (ratio fmt src) ∧
  writes (.vnrw d a src fmt tk) (planVnrw d a src fmt) d 1 ∧
  writes (.vqnt d a ty fmt tk) (planVqnt d a ty fmt) d 1 ∧
  writes (.vdqt d a fmt tk) (planVdqt d a fmt) d (group512 fmt) ∧
  writes (.vdrop d a x fmt tk) (planVdrop d a x fmt) d 1 ∧
  writes (.vrsum d a fmt tk) (planVrsum d a fmt) d 1 ∧
  writes (.vscan d a fmt tk) (planVscan d a fmt) d 1 ∧
  writes (.vsegr d a p fmt tk) (planVsegr d a p fmt) d 1 ∧
  writes (.vexp2 d a tk) (planVexp2 d a) d 1 ∧ writes (.vlog2 d a tk) (planVlog2 d a) d 1 ∧
  writes (.vrcp d a tk) (planVrcp d a) d 1 ∧ writes (.vrsq d a tk) (planVrsq d a) d 1 ∧
  writes (.vexp d a tk) (planVexp d a) d 1 ∧ writes (.vtanh d a tk) (planVtanh d a) d 1 ∧
  writes (.vsig d a tk) (planVsig d a) d 1 ∧ writes (.vgelu d a tk) (planVgelu d a) d 1

/-- R51, R54, R155, R162, R165, R168 to R172, R179 to R181, R184, R186: what they write, in types of their own or in those of
the format-table entry that fmt 15 names, with no trap enabled in FCW and, for a conversion, none by its overflow policy: the
exact widened integer, or the rounded value; the converted element under the mode and the policy, with AMAX over every input;
the codes and the scale byte of each block of 32, and the value of each code; the product where dropout keeps an element, and
0 elsewhere; the pairwise tree of sums, the running sums, and each segment's sum at its first element, 0 at the others; and
the special functions, a result that is not the operand itself flushed under FTZ (log entry 78: FTZ acts on each sum; entry
43: how a NaN block meets the policy; both are the model's reading). -/
def Claims.VectorRoundingResults : Prop := ∀ (s w : State) (d a b : VReg) (x : GReg) (p : PReg) (src sf fmt : Fmt) (ty : BitVec 2)
    (tk : Tk) (c : Nat) (e : VEnv),
  s.cur = .eng c .ve → s.afterWait tk = some w → w.noTraps →
  let daz := fcwDaz w.me.fcw
  let ftz := fcwFtz w.me.fcw
  let n := Num.width e.fmt
  let own := w.ownEnv {} fmt
  let group := fun (r : VReg) (k : Nat) => (List.range k).map fun j => r.toNat + j
  let writes := fun (i : Instr) (regs : List Nat) (holds : State → Prop) =>
    ∃ u, CompletesP i s u tk 4 ∧ w.VecFrame u c regs none none ∧ holds u
  -- R168
  (∀ op, w.vTypes fmt 0xF000 (e = own) (fun E =>
      e = State.entryEnv E (fld E 0 4) ∧ (fld E 4 4 : Fmt) = e.fmt ∧ (fld E 8 4 : Fmt) = wideResult e.fmt) →
    wideTypes.contains e.fmt = true → Machine.groupOk d (wideGroup e.fmt) = true →
    let g := wideGroup e.fmt
    let rw := Num.width (wideResult e.fmt)
    writes (wideInstr op d a b fmt tk) (group d g) fun u => ∀ j, j < 4096 / n →
      let z := (w.gget d g rw).getD j 0
      (isFlt e.fmt = true → (u.gget d g rw).getD j 0 =
        (wideFp op e.fmt e.mode daz ftz (w.vsr e.mode j) (w.velem a n j) (w.velem b n j) z).bits % 2 ^ rw) ∧
      (isFlt e.fmt = false → ((u.gget d g rw).getD j 0 : Int) =
        (match op with
          | .add => intCode e.fmt (w.velem a n j) + intCode e.fmt (w.velem b n j)
          | .mul => intCode e.fmt (w.velem a n j) * intCode e.fmt (w.velem b n j)
          | .fma => intCode e.fmt (w.velem a n j) * intCode e.fmt (w.velem b n j) + z) % 2 ^ rw)) ∧
  -- R169, R170
  (w.vTypes fmt 0xF0F0 (e = own ∧ sf = src) (fun E => src = 0 ∧ sf = fld E 0 4 ∧ e = State.entryEnv E (fld E 8 4)) →
    let m := Num.width sf
    let cv := fun (xs : Nat → Nat) (j : Nat) =>
      Num.cvt e.fmt e.mode e.pol ftz (w.vsr e.mode j) (Num.decodeDaz daz sf (xs j))
    let amax := fun (xs : Nat → Nat) (k : Nat) =>
      ((List.range k).map fun j => Num.decodeDaz daz sf (xs j)).foldl Num.amaxStep w.me.amax
    (Machine.cvtOk e.fmt sf = true → Machine.groupOk d (ratio e.fmt sf) = true →
      let xs := fun (j : Nat) => w.velem a m j
      (∀ j, j < 4096 / m → (cv xs j).trap = none) →
      writes (.vcvt d a src fmt tk) (group d (ratio e.fmt sf)) fun u => u.me.amax = amax xs (4096 / m) ∧
        ∀ j, j < 4096 / m → (u.gget d (ratio e.fmt sf) n).getD j 0 = (cv xs j).bits % 2 ^ n) ∧
    (Machine.nrwOk e.fmt sf = true → Machine.groupOk a (ratio sf e.fmt) = true →
      let xs := fun (j : Nat) => (w.gget a (ratio sf e.fmt) m).getD j 0
      (∀ j, j < 4096 / n → (cv xs j).trap = none) →
      writes (.vnrw d a src fmt tk) [d.toNat] fun u => u.me.amax = amax xs (4096 / n) ∧
        ∀ j, j < 4096 / n → u.velem d n j = (cv xs j).bits % 2 ^ n)) ∧
  -- R171
  (w.vTypes fmt 0xF0F0 (e = own) (fun E => (fld E 8 4 : Fmt) = 0xD ∧ e = State.entryEnv E (fld E 0 4)) →
    vFloats.contains e.fmt = true → Machine.groupOk a (group512 e.fmt) = true →
    let val := fun (j : Nat) => Num.decodeDaz daz e.fmt ((w.gget a (group512 e.fmt) n).getD j 0)
    let block := fun (k : Nat) => Num.f4Block ty.toNat e.mode e.pol ((List.range 32).map fun i => val (32 * k + i))
      ((List.range 32).map fun i => w.vsr e.mode (32 * k + i))
    (∀ k, k < 16 → (block k).trap = none) →
    writes (.vqnt d a ty fmt tk) [d.toNat] fun u =>
      u.me.amax = ((List.range 512).map val).foldl Num.amaxStep w.me.amax ∧
      (∀ k i, k < 16 → i < 32 → u.velem d 4 (32 * k + i) = (block k).codes.getD i 0 % 16) ∧
      (∀ k, k < 16 → u.velem d 8 (256 + k) = (block k).scale % 256) ∧ ∀ k, 272 ≤ k → k < 512 → u.velem d 8 k = 0) ∧
  -- R172
  (w.vTypes fmt 0xF0F0 (e = own) (fun E => (fld E 0 4 : Fmt) = 0xD ∧ e = State.entryEnv E (fld E 8 4)) →
    vFloats.contains e.fmt = true → Machine.groupOk d (group512 e.fmt) = true →
    let cv := fun (j : Nat) => Num.cvt e.fmt e.mode e.pol ftz (w.vsr e.mode j)
      (Num.f4Val (w.velem a 8 (256 + j / 32)) (w.velem a 4 j))
    (∀ j, j < 512 → (cv j).trap = none) →
    writes (.vdqt d a fmt tk) (group d (group512 e.fmt)) fun u =>
      ∀ j, j < 512 → (u.gget d (group512 e.fmt) n).getD j 0 = (cv j).bits % 2 ^ n) ∧
  -- R186
  (w.vResolve vFloats fmt = some e →
    writes (.vdrop d a x fmt tk) [d.toNat] fun u => ∀ j, j < 4096 / n → u.velem d n j =
      if (w.g x).toNat % 65536 ≤ ((w.vhash j).extractLsb' 32 16).toNat then
        (fpRound (fltFmt e.fmt) e.mode ftz ((w.vhash j).toNat % 65536)
          (Num.mulV (Num.decodeDaz daz e.fmt (w.velem a n j))
            (Num.decodeDaz daz 0 ((w.g x).extractLsb' 32 32).toNat))).bits % 2 ^ n
      else 0) ∧
  -- R179, R180, R181
  (vSums.contains fmt = true →
    let z := fun (i : Nat) => if fmt = 0 then dazCode daz Num.fp32 (w.velem a 32 i) else w.velem a 32 i
    let starts := fun (i : Nat) => i = 0 ∨ (w.p p).getLsbD i = true
    (writes (.vrsum d a fmt tk) [d.toNat] fun u => ∃ t : Nat → Nat → Nat,
      (∀ i, t 0 i = z i) ∧ (∀ k i, t (k + 1) i = (sumOp fmt ftz (t k (2 * i)) (t k (2 * i + 1))).bits) ∧
      ∀ i, i < 128 → u.velem d 32 i = if i = 0 then t 7 0 % 2 ^ 32 else 0) ∧
    (writes (.vscan d a fmt tk) [d.toNat] fun u => ∃ t : Nat → Nat,
      t 0 = 0 ∧ (∀ i, t (i + 1) = (sumOp fmt ftz (t i) (z i)).bits) ∧
      ∀ i, i < 128 → u.velem d 32 i = t (i + 1) % 2 ^ 32) ∧
    (writes (.vsegr d a p fmt tk) [d.toNat] fun u => ∃ t : Nat → Nat,
      (∀ i, starts i → t i = (sumOp fmt ftz 0 (z i)).bits) ∧
      (∀ i, ¬starts (i + 1) → t (i + 1) = (sumOp fmt ftz (t i) (z (i + 1))).bits) ∧
      (∀ i, i < 128 → ¬starts i → u.velem d 32 i = 0) ∧
      ∀ i j, i ≤ j → j < 128 → starts i → (∀ k, i < k → k ≤ j → ¬starts k) → (j = 127 ∨ starts (j + 1)) →
        u.velem d 32 i = t j % 2 ^ 32)) ∧
  -- R184
  (∀ k, k < 8 → writes (specialInstr k d a tk) [d.toNat] fun u => ∀ j, j < 128 →
    let y : W32 := BitVec.ofNat 32 (dazCode daz Num.fp32 (w.velem a 32 j))
    let r := (specialFn k y).1
    u.velem d 32 j = if r = y then r.toNat else dazCode ftz Num.fp32 r.toNat)

/-- R55, R58, R164: a vector instruction one of whose active elements meets a condition that FCW enables traps and writes
nothing.  Shown for an FP32 multiplication by a pair that raises the invalid flag under NVE, which takes FP_INVALID. -/
def Claims.VectorTrapWritesNothing : Prop := ∀ (s w : State) (d a b : VReg) (tk : Tk) (c : Nat) (j : Nat),
  s.cur = .eng c .ve → s.afterWait tk = some w → fcwNve w.me.fcw = true → j < 128 →
  (fpOp .mul Num.fp32 (modeOf 0 w.me.fcw) (fcwDaz w.me.fcw) (fcwFtz w.me.fcw) (w.vsr (modeOf 0 w.me.fcw) j) (w.velem a 32 j)
    (w.velem b 32 j) (w.velem d 32 j)).flags.getLsbD 0 = true →
  exec (.vmul d a b 0 tk) s = .next (w.trap Num.fpInvalid 0)

/-- R55, R58, R164, R165, R168, R169, R170, R171, R172, R179, R184, R186: Vector families that round: where they
complete, and what they write; one that traps writes nothing. It says of each of these that exec answers a next state,
on conditions on the state and the operands alone: `vwadd`, `vwmul`, `vwfma`, `vnrw`, `vcvt`, `vqnt`, `vdqt`, `vrsum`,
`vscan`, `vsegr`, `vexp2`, `vlog2`, `vrcp`, `vrsq`, `vexp`, `vtanh`, `vsig`, `vgelu`, `vdrop`, `add`, `mul`. -/
def Obligations.VectorRounding : Prop := Claims.VectorRoundingFamilies ∧ Claims.VectorRoundingResults ∧ Claims.VectorTrapWritesNothing

/-- R167, R173 to R178, R182, R183, R185: where the instructions that round nothing complete: with legal operands they
write their vector, predicate or general register and nothing else. -/
def Claims.VectorExactFamilies : Prop := ∀ (s w : State) (d a b : VReg) (g h : GReg) (p q r : PReg) (fmt : Fmt) (cc sz : BitVec 2)
    (m : BitVec 3) (tk : Tk) (c : Nat),
  s.cur = .eng c .ve → s.afterWait tk = some w →
  let vec := fun (i : Instr) (x : VPlan) (n : Nat) =>
    x.legal {} = true →
      ∃ u, CompletesP i s u tk 4 ∧ w.VecFrame u c ((List.range n).map fun j => d.toNat + j) none none
  let pred := fun (i : Instr) (x : VPlan) =>
    x.legal {} = true → ∃ u, CompletesP i s u tk 4 ∧ w.VecFrame u c [] none (some p)
  vec (.vabs d a fmt tk) (planVabs d a fmt) 1 ∧ vec (.vneg d a fmt tk) (planVneg d a fmt) 1 ∧
  vec (.vsel d a b fmt tk) (planVsel d a b fmt) 1 ∧ vec (.vperm d a b fmt tk) (planVperm d a b fmt) 1 ∧
  vec (.vshuf d a b tk) (planVshuf d a b) 1 ∧ vec (.vbcast d g fmt tk) (planVbcast d g fmt) 1 ∧
  vec (.vins d g h fmt tk) (planVins d g h fmt) 1 ∧ vec (.vslide d a g fmt tk) (planVslide d a g fmt) 1 ∧
  vec (.vzip d a b fmt tk) (planVzip d a b fmt) 2 ∧ vec (.vuzp d a fmt tk) (planVuzp d a fmt) 2 ∧
  vec (.vrmax d a fmt tk) (planVrmax d a fmt) 1 ∧ vec (.vrmin d a fmt tk) (planVrmin d a fmt) 1 ∧
  vec (.vsort d a fmt tk) (planVsort d a fmt) 2 ∧ vec (.vsortDesc d a fmt tk) (planVsortDesc d a fmt) 2 ∧
  vec (.vhash d fmt tk) (planVhash d fmt) 1 ∧
  pred (.vcmp cc p a b fmt tk) (planVcmp cc p a b fmt) ∧ pred (.vuniq p a fmt tk) (planVuniq p a fmt) ∧
  pred (.pand p q r tk) (planPand p q r) ∧ pred (.por p q r tk) (planPor p q r) ∧
  pred (.pxor p q r tk) (planPxor p q r) ∧ pred (.pnot p q tk) (planPnot p q) ∧
  pred (.pstage p g sz m tk) (planPstage p g sz m) ∧
  ((planVextr g a h fmt).legal {} = true → ∃ v, WritesGP (.vextr g a h fmt tk) s w tk 4 g v) ∧
  WritesGP (.pcnt g p sz tk) s w tk 4 g
    (BitVec.ofNat 64 (((List.range (sizeCount sz)).filter fun i => (w.p p).getLsbD i).length)) ∧
  (∀ k, k < sizeCount sz → (w.p p).getLsbD k = true → (∀ i, i < k → (w.p p).getLsbD i = false) →
    WritesGP (.pfirst g p sz tk) s w tk 4 g (BitVec.ofNat 64 k)) ∧
  ((∀ i, i < sizeCount sz → (w.p p).getLsbD i = false) → WritesGP (.pfirst g p sz tk) s w tk 4 g (BitVec.allOnes 64))

/-- R174, R175, R178: what some of them write: the bits of a predicate, and element by element the selected, broadcast,
inserted or permuted codes. -/
def Claims.PredicateAndPermuteResults : Prop := ∀ (s w : State) (d a b : VReg) (g h : GReg) (p q r : PReg) (fmt : Fmt) (tk : Tk) (c : Nat),
  s.cur = .eng c .ve → s.afterWait tk = some w → vAll.contains fmt = true →
  let n := Num.width fmt
  let setsP := fun (i : Instr) (v : PBits) =>
    ∃ u, CompletesP i s u tk 4 ∧ ∀ x, u.p x = if x = p ∧ x ≠ 0 then v else w.p x
  let sets := fun (i : Instr) (f : Nat → Nat) =>
    ∃ u, CompletesP i s u tk 4 ∧ ∀ j, j < 4096 / n → u.velem d n j = f j
  setsP (.pand p q r tk) (w.p q &&& w.p r) ∧ setsP (.por p q r tk) (w.p q ||| w.p r) ∧
  setsP (.pxor p q r tk) (w.p q ^^^ w.p r) ∧ setsP (.pnot p q tk) (~~~w.p q) ∧
  sets (.vsel d a b fmt tk) (fun j => w.velem a n j) ∧
  sets (.vbcast d g fmt tk) (fun _ => (w.g g).toNat % 2 ^ n) ∧
  sets (.vins d g h fmt tk) (fun j => if j = (w.g h).toNat % (4096 / n) then (w.g g).toNat % 2 ^ n else w.velem d n j) ∧
  sets (.vslide d a g fmt tk) (fun j =>
    if 0 ≤ (j : Int) + (w.g g).toInt ∧ (j : Int) + (w.g g).toInt < ((4096 / n : Nat) : Int)
    then w.velem a n ((j : Int) + (w.g g).toInt).toNat else 0) ∧
  (16 ≤ n → sets (.vperm d a b fmt tk) (fun j => w.velem a n (w.velem b n j % (4096 / n))))

/-- R173, R174, R175, R176, R177, R178, R182, R183: Vector families that never round, and what some of them write. It
says of each of these that exec answers a next state, on conditions on the state and the operands alone: `vabs`,
`vneg`, `vcmp`, `vsel`, `pand`, `por`, `pxor`, `pnot`, `pcnt`, `pfirst`, `pstage`, `vperm`, `vshuf`, `vbcast`,
`vextr`, `vins`, `vslide`, `vzip`, `vuzp`, `vrmax`, `vrmin`, `vsort`, `vsortDesc`, `vuniq`, `vhash`. -/
def Obligations.VectorExact : Prop := Claims.VectorExactFamilies ∧ Claims.PredicateAndPermuteResults

/-- R187, R188, R371, R381: a vector load whose 512 bytes pass their checks and hold no uncorrectable error reads every one of
them into the register, those apart that the stream has read ahead, and is issued into the path buffer where the schedule
asks for it, its eight units as parts of one load; a store writes every one of them; a strided or indexed load reads each
element at its own address, and a store writes each element at its own, of elements that share a byte the one of the highest
index, and leaves every byte outside its elements as it was.  A load waits for older accesses of the same bytes that have
still to be made.
It says of each of these that exec answers a next state, on conditions on the state and the operands alone: `vld`,
`vst`, `vlds`, `vsts`, `vgth`, `vsct`. -/
def Obligations.VectorMemory : Prop := ∀ (s w : State) (d b : VReg) (a g : GReg) (hf : Bool) (h : HReg) (fmt : Fmt) (tk : Tk) (c : Nat),
  s.cur = .eng c .ve → s.afterWait tk = some w →
  let p := w.party
  let pa := if hf then ((Handle.addr (w.h h)).toNat + (w.g a).toInt).toNat else windowBase c + (w.g a).toNat
  let n := Num.width fmt
  let stride := fun (j : Nat) => (w.g a + BitVec.ofNat 64 j * w.g g).toNat
  let index := fun (j : Nat) => (w.g a + BitVec.ofNat 64 (w.velem b n j * (n / 8))).toNat
  let changes := fun (u : State) =>
    u = { w with buf := u.buf, nextId := u.nextId }.setMe u.me ∧ u.me = { w.me with pre := u.me.pre } ∧ ∀ x ∈ u.me.pre, x ∈ w.me.pre
  let loads := fun (i : Instr) (at0 : Nat → Nat) =>
    (∀ j, j < 4096 / n → w.chkScratch (at0 j) (n / 8) (n / 8) = .ok ∧ w.readFirst (windowBase c + at0 j) (n / 8) = false ∧
      (w.readsNow (windowBase c + at0 j) (n / 8) = true → w.eccHit (windowBase c + at0 j) (n / 8) = false)) →
      ∃ u, CompletesP i s u tk 4 ∧ w.VecFrame u c [d.toNat] none none true ∧
        ∀ j, j < 4096 / n → u.velem d n j = leNat (w.aheadBytes (windowBase c + at0 j) (n / 8))
  let stores := fun (i : Instr) (at0 : Nat → Nat) =>
    (∀ j, j < 4096 / n → w.chkScratch (at0 j) (n / 8) (n / 8) = .ok) →
      ∃ u, CompletesP i s u tk 4 ∧ changes u ∧
        (∀ k, (∀ j, j < 4096 / n → k < windowBase c + at0 j ∨ windowBase c + at0 j + n / 8 ≤ k) →
          ∀ y q, u.readByte y q k = w.readByte y q k) ∧
        (c < 384 → ∀ j m, j < 4096 / n → m < n / 8 →
          (∀ i, j < i → i < 4096 / n → at0 j + m < at0 i ∨ at0 i + n / 8 ≤ at0 j + m) →
          u.readByte p .vec (windowBase c + at0 j + m) = BitVec.ofNat 8 (w.velem d n j / 256 ^ m)) ∧
        (∀ y q k, (y, q) ≠ (p, Path.vec) → u.readByte y q k = w.readByte y q k)
  ((planVld d a hf h fmt).legal {} = true → w.vChk a hf h 1 = .ok → (hf = true → Handle.remote (w.h h) = false) →
    (w.me.lazy = true → CompletesP (.vld d a hf h fmt tk) s
      ((List.range 8).foldl (fun t k => t.deferLoad
        { id := 0, pc := 0, addr := pa + 64 * k, n := 64, grp := w.nextId, via := if hf then some (w.h h) else none
          dest := .vec (BitVec.ofNat 6 (w.vphys d.toNat)) fmt (w.p 0) (64 * k) }) { w with nextId := w.nextId + 1 }) tk 4) ∧
    (w.me.lazy = false → (∃ k, k < 8 ∧ w.readFirst (pa + 64 * k) 64 = true) → WaitsP (.vld d a hf h fmt tk) w s) ∧
    (w.me.lazy = false → (∀ k, k < 8 → w.readFirst (pa + 64 * k) 64 = false ∧
        (w.readsNow (pa + 64 * k) 64 = true → w.eccHit (pa + 64 * k) 64 = false)) →
      ∃ u, CompletesP (.vld d a hf h fmt tk) s u tk 4 ∧ w.VecFrame u c [d.toNat] none none true ∧
        ∀ k j, k < 8 → j < 64 →
          (u.vreg d.toNat).extractLsb' (8 * (64 * k + j)) 8 = (w.aheadBytes (pa + 64 * k) 64).getD j 0)) ∧
  (∀ x k, w.readsNow x k = true → w.aheadBytes x k = (List.range k).map fun j => w.readByte p .vec (x + j)) ∧
  ((planVst d a hf h fmt).legal {} = true → w.vChk a hf h 2 = .ok → (hf = true → Handle.remote (w.h h) = false) →
    (∀ j, j < 512 → mapped (pa + j) = true) →
    ∃ u, CompletesP (.vst d a hf h fmt tk) s u tk 4 ∧ changes u ∧
      (∀ j, j < 512 → u.readByte p .vec (pa + j) = (w.vreg d.toNat).extractLsb' (8 * j) 8) ∧
      ∀ y q k, (y, q) ≠ (p, Path.vec) ∨ k < pa ∨ pa + 512 ≤ k → u.readByte y q k = w.readByte y q k) ∧
  (vTypes8.contains fmt = true → loads (.vlds d a g fmt tk) stride ∧ stores (.vsts d a g fmt tk) stride) ∧
  (vWide16.contains fmt = true → loads (.vgth d a b fmt tk) index ∧ stores (.vsct d a b fmt tk) index)

/-- R189, R191, R192, R193, R194: `ACCRD` and `ACCWR` of a row of the kit's half that no queued command touches copy its 256
accumulators to a group of two registers and back, a NaN as the canonical one, and trap outside the half; `VROTB` takes an
amount from the rotation base; `VDEFER` appends the elements that its predicate selects, in ascending order, to a queue that
holds at most 4,096, and traps where they do not fit; `VDRAIN` puts the oldest 128 into four registers, and `VDQN` drops
some; both answer how many.  Each completes on the states named here, and nothing else changes. -/
def Claims.JoinsAndDeferral : Prop := ∀ (s w : State) (d a : VReg) (g x : GReg) (p : PReg) (k1 : BitVec 2) (fmt : Fmt) (tk : Tk) (c : Nat),
  s.cur = .eng c .ve → s.afterWait tk = some w →
  let row := (w.g g).toNat
  let dq := (w.bank c).dq
  let picked := (List.range 128).filter fun i => (w.p p).getLsbD i
  let val := fun (j i : Nat) => if j ≤ k1.toNat then BitVec.ofNat 32 (w.velem (a + BitVec.ofNat 6 j) 32 i) else (0 : W32)
  ((partRows w.part).1 ≤ row → row < (partRows w.part).2 → rowPending (w.bank c) row = false → Machine.groupOk d 2 = true →
    (∃ u, CompletesP (.accrd d g tk) s u tk 4 ∧ w.VecFrame u c [d.toNat, d.toNat + 1] none none ∧
      (u.core c).acc = (w.core c).acc ∧ ∀ col, col < 256 → (u.gget d 2 32).getD col 0 = (w.accGet c row col).toNat) ∧
    (∃ u, CompletesP (.accwr d g tk) s u tk 4 ∧ (∀ r, r < 64 → u.vreg r = w.vreg r) ∧ u.me = w.me ∧ w.SameReads u ∧
      (∀ r col, r ≠ row → col < 256 → u.accGet c r col = w.accGet c r col) ∧
      ∀ col, col < 256 →
        let v := BitVec.ofNat 32 ((w.gget d 2 32).getD col 0)
        u.accGet c row col = if Num.isNan32 v then Num.nan32 else v)) ∧
  (row < (partRows w.part).1 ∨ (partRows w.part).2 ≤ row → Machine.groupOk d 2 = true →
    exec (.accrd d g tk) s = .next (w.trap 0x20 0) ∧ exec (.accwr d g tk) s = .next (w.trap 0x20 0)) ∧
  (∃ v : W32, CompletesP (.vrotb g tk) s (w.setMe { w.me with vrb := v }) tk 4 ∧
    v.extractLsb' 0 5 = w.me.vrb.extractLsb' 0 5 - (w.g g).extractLsb' 0 5 ∧ v >>> 5 = w.me.vrb >>> 5) ∧
  (vSums.contains fmt = true → a.toNat + k1.toNat ≤ 63 → dq.length + picked.length ≤ 4096 →
    CompletesP (.vdefer k1 a p fmt tk) s
      (w.setBank c { w.bank c with dq := dq ++ picked.map fun i => (val 0 i, val 1 i, val 2 i, val 3 i) }) tk 4) ∧
  (vSums.contains fmt = true → a.toNat + k1.toNat ≤ 63 → 4096 < dq.length + picked.length →
    exec (.vdefer k1 a p fmt tk) s = .next (w.trap 0x1D 0)) ∧
  (vSums.contains fmt = true → Machine.groupOk d 4 = true →
    ∃ u, CompletesP (.vdrain d g fmt tk) s u tk 4 ∧ (u.bank c).dq = dq.drop 128 ∧
      (∀ r, u.g r = if r = g ∧ r ≠ 0 then BitVec.ofNat 64 (min 128 dq.length) else w.g r) ∧
      (∀ i, i < 128 →
        let e := dq.getD i (0, 0, 0, 0)
        u.velem d 32 i = e.1.toNat ∧ u.velem (d + 1) 32 i = e.2.1.toNat ∧ u.velem (d + 2) 32 i = e.2.2.1.toNat ∧
          u.velem (d + 3) 32 i = e.2.2.2.toNat) ∧
      (∀ r, r < 64 → r < d.toNat ∨ d.toNat + 4 ≤ r → u.vreg r = w.vreg r)) ∧
  (∃ u, CompletesP (.vdqn x g tk) s u tk 4 ∧ (u.bank c).dq = dq.drop (min row dq.length) ∧
    (∀ r, r < 64 → u.vreg r = w.vreg r) ∧
    ∀ r, u.g r = if r = x ∧ r ≠ 0 then BitVec.ofNat 64 (min row dq.length) else w.g r)

/-- R82, R163, R164, R167: the extended form runs the instruction that W2 names, under the first word's pattern and with the
options of W2, as the short form does with options that are 0.  It completes for every elementwise instruction on integers:
an active element receives its result and an inactive one keeps its old code.  A W2 that names no instruction raises
ILLEGAL_INSTR. -/
def Claims.ExtendedVectorForm : Prop := ∀ (s w : State) (o : VOps) (w2 : VW2) (c : Nat),
  s.cur = .eng c .ve → s.afterWait o.tk = some w →
  let n := Num.width o.fmt
  let sets := fun (f : Nat → Int) =>
    ∃ u, CompletesP (.extendedVectorForm o w2) s u o.tk 8 ∧ w.VecFrame u c [o.d.toNat] none none ∧
      ∀ j, j < 4096 / n → (u.velem o.d n j : Int) = if (w.p w2.pred).getLsbD j then f j else w.velem o.d n j
  (∀ op, decodeVec w2.op o = .ok (arithInstr op o.d o.a o.b o.fmt o.tk) → vInts.contains o.fmt = true → w2.rm = 0 →
    w2.ovf = 0 → w2.daz = false →
    sets fun j =>
      let x := intCode o.fmt (w.velem o.a n j)
      let y := intCode o.fmt (w.velem o.b n j)
      let z := intCode o.fmt (w.velem o.d n j)
      (match op with
        | .add => x + y
        | .sub => x - y
        | .mul => x * y
        | .fma => x * y + z
        | .fms => z - x * y
        | .min => min x y
        | .max => max x y) % 2 ^ n) ∧
  (∀ op, op = .and ∨ op = .or ∨ op = .xor → decodeVec w2.op o = .ok (logicInstr op o.d o.a o.b o.fmt o.tk) →
    vInts.contains o.fmt = true → w2.rm = 0 → w2.ovf = 0 → w2.daz = false →
    sets fun j =>
      let x := w.velem o.a n j
      let y := w.velem o.b n j
      ((if op = .and then x &&& y else if op = .or then x ||| y else x ^^^ y : Nat) : Int)) ∧
  (∀ i, decodeVec w2.op o = .ok i → ∃ q, Instr.vplan i = some q ∧ exec i s = .next (s.runVec q {} o.tk) ∧
    exec (.extendedVectorForm o w2) s =
      .next (s.runVec q { pred := w2.pred, rm := w2.rm, ovf := w2.ovf, daz := w2.daz, n := 8 } o.tk)) ∧
  (∀ r, decodeVec w2.op o = .error r → exec (.extendedVectorForm o w2) s = .next s.illegal)

/-- R82, R164, R189, R191, R192, R193, R194: Accumulator joins, rotation, deferral, and the extended vector form. It
says of each of these that exec answers a next state, on conditions on the state and the operands alone: `accrd`,
`accwr`, `vrotb`, `vdefer`, `vdrain`, `vdqn`, `extendedVectorForm`. -/
def Obligations.VectorJoinsAndExtended : Prop := Claims.JoinsAndDeferral ∧ Claims.ExtendedVectorForm

/-- R340, R341, R342, R343, R345, R346, R347: a copy whose descriptor, receivers, handles and ranges pass their checks is
issued in the lowest free copy slot, which captures the descriptor's fields, the handles, the receivers and the signals of
its pattern; g[b] receives the slot's number and g[d] a promise, a free value after this tick; a rotation's promise is
written when it starts.  With no free slot it waits; a multicast with an empty mask is REQ_BAD and one to a core that has
no member of the gang takes GANG_MASK; a rotation that finds a partner gone takes GANG_ABSENT, and the last of a gang's to issue
one of another length XROT_MISMATCH, which ends the others' rotations too (log entry 54). -/
def Claims.CopiesIssue : Prop := ∀ (s w : State) (kind : CopyKind) (rows : Nat) (mask : BitVec 4) (rows1 : BitVec 12)
    (d a b : GReg) (tk : Tk) (c : Nat) (x : Copy) (i : Instr),
  s.cur = .eng c .xe → s.afterWait tk = some w →
  (kind = .copy ∧ rows = 1 ∧ mask = 0 ∧ i = .xcopy d a b tk) ∨ (kind = .fill ∧ rows = 1 ∧ mask = 0 ∧ i = .xfill d a b tk) ∨
    (kind = .mcast ∧ rows = 1 ∧ i = .xmcast mask d a b tk) ∨
    (kind = .copy2d ∧ rows = rows1.toNat + 1 ∧ mask = 0 ∧ i = .xcopy2d d a b tk rows1) ∨
    (kind = .rot ∧ rows = 1 ∧ mask = 0 ∧ i = .xrot d a b tk) →
  let bytes := w.scratchBytes .cp (w.g a).toNat 32
  let regs := copyRegs bytes
  let present := fun r => ∃ y ∈ w.members c (w.core c).runB, y.1 = r
  w.chkRead .cp (w.g a).toNat 32 32 = .ok → parseCopy kind rows bytes = some x →
  (x.kind = kind ∧ x.rows = rows ∧ x.src.toNat = recNat bytes 0 8 ∧ x.dst.toNat = recNat bytes 8 8 ∧ x.len = recNat bytes 16 4) ∧
  ((kind = .mcast → mask ≠ 0 ∧ ∀ r ∈ maskCores c mask, present r) → w.copyChecks x regs = .ok →
    (kind = .rot → ∀ code, w.rotFault c (w.core c).runB ((w.bank c).rots + 1) x.len = some code →
      (∃ n, n < 16 ∧ ((w.bank c).copy n).busy = false) →
      exec i s = .next ((w.endRots c (w.core c).runB ((w.bank c).rots + 1) code).trap code 0)) ∧
    (∀ n, n < 16 → ((w.bank c).copy n).busy = false → (∀ m, m < n → ((w.bank c).copy m).busy = true) →
      (kind = .rot → w.rotFault c (w.core c).runB ((w.bank c).rots + 1) x.len = none) →
      ∃ u : State, Completes i s u (if kind = .copy2d then 8 else 4) ∧
        (u.bank c).copy n =
          { x with
            sh := w.h regs.1, dh := w.h regs.2, mask := mask, dreg := d, busy := true, pc := w.me.pc
            rotN := if kind = .rot then (w.bank c).rots + 1 else x.rotN
            w1 := (w.reportedWords w.me.pc).extractLsb' 0 32, w2 := (w.reportedWords w.me.pc).extractLsb' 32 32
            seq := w.nextId, sig := patSig (s.me.pattern tk) } ∧
        (∀ m, m ≠ n → (u.bank c).copy m = (w.bank c).copy m) ∧
        (∀ r, u.g r = if r = b ∧ r ≠ 0 then BitVec.ofNat 64 n
          else if kind ≠ .rot ∧ r = d ∧ r ≠ 0 then BitVec.ofNat 64 w.cyc + Config.promiseDelay w.freeCtr else w.g r) ∧
        w.SameReads u) ∧
    ((∀ m, m < 16 → ((w.bank c).copy m).busy = true) → WaitsP i w s)) ∧
  (kind = .mcast → mask = 0 → exec i s = .next (w.trap 0x48 0)) ∧
  (kind = .mcast → mask ≠ 0 → (∃ r ∈ maskCores c mask, ¬present r) → exec i s = .next (w.trap 0x53 0))

/-- R352, R354, R355: `XSTAT` answers the status word of the slot that g[b] names; its wait form waits for the slot to be
free, until its deadline, and has then seen the landed units; `XCANCEL` of a free slot answers what the copy landed, and of a
busy one frees the slot once nothing that has been read is still to land. -/
def Claims.CopyStatus : Prop := ∀ (s w : State) (d a b : GReg) (tk : Tk) (c : Nat),
  s.cur = .eng c .xe → s.afterWait tk = some w → w.me.owed = [] →
  let n := (w.g b).toNat % 16
  let x := (w.bank c).copy n
  let word := BitVec.ofNat 64 ((if x.busy then 1 else 0) + (if x.flt then 2 else 0) + (if x.canc then 4 else 0) + x.landed * 2 ^ 32)
  WritesGP (.xstat d b tk) s w tk 4 d word ∧
  (x.busy = false → CompletesP (.xstatWait d a b tk) s (w.joinUnits.setG d word) tk 4 ∧
    WritesGP (.xcancel d b tk) s w tk 4 d (BitVec.ofNat 64 x.landed)) ∧
  (x.busy = true → a ≠ 0 → (w.g a).toNat ≤ w.cyc % 2 ^ 64 → exec (.xstatWait d a b tk) s = .next (w.trap 0x50 0)) ∧
  (x.busy = true → a = 0 ∨ w.cyc % 2 ^ 64 < (w.g a).toNat → 
    WaitsP (.xstatWait d a b tk) (w.setMe { w.me with waitId := 1 }) s) ∧
  (x.busy = true → x.remote = false → x.data = [] →
    ∃ u : State, CompletesP (.xcancel d b tk) s u tk 4 ∧ (u.bank c).copy n = { x with busy := false, canc := true } ∧
      (∀ m, m ≠ n → (u.bank c).copy m = (w.bank c).copy m) ∧
      (∀ r, u.g r = if r = d ∧ r ≠ 0 then BitVec.ofNat 64 x.landed else w.g r) ∧ w.SameReads u) ∧
  (x.busy = true → x.remote = true ∨ x.data ≠ [] →
    ∃ u : State, WaitsP (.xcancel d b tk) u s ∧ (u.bank c).copy n = { x with canc := true } ∧ u.me = w.me)

/-- R340, R341, R342, R343, R345, R346, R347, R354, R355: Copies issue; XSTAT and XCANCEL. It says of each of these
that exec answers a next state, on conditions on the state and the operands alone: `xcopy`, `xmcast`, `xrot`, `xfill`,
`xcopy2d`, `xstat`, `xstatWait`, `xcancel`. -/
def Obligations.Copies : Prop := Claims.CopiesIssue ∧ Claims.CopyStatus

/-- R349, R350, R351, R375: barrier objects, once the stream's own earlier accesses to one have taken their steps; the
instruction waits for them.  `BINIT` gives it its mark, phase 0, an expected count and no arrivals, and `BINIT.CLR` no orphans
as well; `BQRY` answers the arrivals, the phase, whether they are complete and whether it is bad; `BWAIT` of a complete one
turns the phase, clears the arrivals and has seen the landed units, waits for more until its deadline, of which a register
number or value of 0 names none, and traps on a bad or
an overrun one.  Nothing outside the object's 16 bytes changes. -/
def Claims.BarrierObjects : Prop := ∀ (s w : State) (d a b : GReg) (tk : Tk) (c : Nat),
  s.cur = .eng c .xe → s.afterWait tk = some w → c < 384 → w.me.owed = [] → w.chkScratch (w.g a).toNat 16 16 = .ok →
  let pa := windowBase c + (w.g a).toNat
  let held := w.readFirst pa 16 || w.landHeld w.party .cp w.nextId [(pa, 16)]
  let v := w.stepOver w.party .cp w.nextId [(pa, 16)]
  let old := v.homeBytes pa 16
  let arr := recNat old 8 4
  let exp := recNat old 4 4
  let bad := recNat old 0 2 ≠ 0xB47E ∨ recNat old 12 4 ≠ 0
  let leaves := fun (i : Instr) (bs : List Byte) => ∃ u : State, CompletesP i s u tk 4 ∧ u.homeBytes pa 16 = bs ∧
    (∀ x, x < pa ∨ pa + 16 ≤ x → u.lastByte x = v.lastByte x) ∧ u.me = { w.me with clk := u.me.clk, doneAt := u.me.doneAt } ∧
    (i ≠ .bwait a b tk → u.me = w.me)
  (held = true → WaitsP (.binit a b tk) w s ∧ WaitsP (.binitClr a b tk) w s ∧ WaitsP (.bqry d a tk) w s ∧
    WaitsP (.bwait a b tk) w s) ∧
  (held = false →
    ((∀ i, i < 16 → v.tpbGuarded (pa + i) = false) →
      leaves (.binit a b tk) (natBytes 2 0xB47E ++ natBytes 2 0 ++ natBytes 4 ((w.g b).toNat % 2 ^ 32) ++ natBytes 4 0 ++ old.drop 12) ∧
      leaves (.binitClr a b tk) (natBytes 2 0xB47E ++ natBytes 2 0 ++ natBytes 4 ((w.g b).toNat % 2 ^ 32) ++ natBytes 4 0 ++ natBytes 4 0) ∧
      (¬bad → arr = exp →
        leaves (.bwait a b tk) (old.take 2 ++ [old.getD 2 0 ^^^ 1] ++ (old.drop 3).take 5 ++ natBytes 4 0 ++ old.drop 12))) ∧
    CompletesP (.bqry d a tk) s (v.setG d (BitVec.ofNat 64 (arr + (if recNat old 2 1 % 2 = 1 then 2 ^ 32 else 0) +
      (if recNat old 0 2 = 0xB47E ∧ exp ≤ arr then 2 ^ 33 else 0) + (if bad then 2 ^ 34 else 0)))) tk 4 ∧
    (bad → exec (.bwait a b tk) s = .next (v.trap 0x51 (w.g a))) ∧
    (¬bad → exp < arr → exec (.bwait a b tk) s = .next (v.trap 0x52 (w.g a))) ∧
    (¬bad → arr < exp → w.g b ≠ 0 → (w.g b).toNat ≤ w.cyc % 2 ^ 64 → exec (.bwait a b tk) s = .next (v.trap 0x50 (w.g a))) ∧
    (¬bad → arr < exp → w.g b = 0 ∨ w.cyc % 2 ^ 64 < (w.g b).toNat →
      WaitsP (.bwait a b tk) (v.setMe { v.me with waitId := 1 }) s))

/-- R353, R378: `BARR` releases the copy path at cluster scope as it is issued, once nothing holds the release back, and
completes with the last member of the gang; it waits for a member that has not issued its own, and for one whose job has
failed (log entry 90), and takes GANG_ABSENT, as if it had not been issued, when a member can no longer do so. -/
def Claims.GangBarriers : Prop := ∀ (s w : State) (tk : Tk) (c : Nat),
  s.cur = .eng c .xe → s.afterWait tk = some w → w.me.waitId = 0 →
  let B := (w.core c).runB
  let k := (w.bank c).barrs + 1
  let r := w.releasePaths 4 2
  let ms := w.members c B
  let bank := fun (y : Nat × Bool) => (w.core y.1).get y.2
  let all := ms.length = w.gangSize c B
  (w.fenceReady 4 = false → WaitsP (.barr tk) w s) ∧
  (w.fenceReady 4 = true → (w.bank c).barrDone < k →
    (all → (∀ y ∈ ms, y = (c, B) ∨ k ≤ (bank y).barrs) →
      ∃ u : State, CompletesP (.barr tk) s u tk 4 ∧ (∀ y ∈ ms, k ≤ ((u.core y.1).get y.2).barrDone) ∧ u.buf = r.buf ∧ u.log = r.log ∧
        u.me.g = w.me.g) ∧
    (w.partnerGone c B = false → (¬all ∨ ∃ y ∈ ms, y ≠ (c, B) ∧ (bank y).barrs < k) →
      (∀ y ∈ ms, y = (c, B) ∨ k ≤ (bank y).barrs ∨ (bank y).xe.life = .running) →
      ∃ u : State, WaitsP (.barr tk) u s ∧ u.buf = r.buf ∧ u.log = r.log ∧ (u.bank c).barrs = k ∧ u.me.waitId = 1) ∧
    (w.partnerGone c B = true ∨ (∃ y ∈ ms, y ≠ (c, B) ∧ (bank y).barrs < k ∧ (bank y).xe.life ≠ .running) →
      ∃ u : State, exec (.barr tk) s = .next (u.trap 0x54 0) ∧ u.buf = r.buf ∧ u.log = r.log ∧
        (u.bank c).barrs = (w.bank c).barrs))

/-- R349, R350, R351, R353, R378: Barrier objects and BARR. It says of each of these that exec answers a next state,
on conditions on the state and the operands alone: `binit`, `binitClr`, `bwait`, `bqry`, `barr`. -/
def Obligations.Barriers : Prop := Claims.BarrierObjects ∧ Claims.GangBarriers

/-- R444, R445, R446: with a slot descriptor that passes its checks, `FREQ` books the earliest tick, from its T and 2000
ticks on, at which the lane is free, and answers it, all ones when that is too late (the model's choice, log entry 56, counts
the 2^24 ticks from the later of T and CYC + 2000); `FSEND` of a booking takes it and a copy slot, traps without one, and is too
late at its tick; `FRECV` arms a receive, or waits while eight are armed; `FWIDEN` hops
the whole buffer at once, after the stream's own earlier accesses to what it reads and writes. -/
def Claims.FabricSlots : Prop := ∀ (s w : State) (d a b : GReg) (tk : Tk) (dur : BitVec 24) (c : Nat) (x : SlotDesc),
  s.cur = .eng c .xe → s.afterWait tk = some w → w.chkRead .cp (w.g a).toNat 64 64 = .ok →
  parseSlot (w.scratchBytes .cp (w.g a).toNat 64) = some x →
  let bk := w.bank c
  let lane := w.laneBooks (Config.laneOf x.peer.toNat x.chan.toNat)
  let from_ := max x.t.toNat (w.cyc + 2000)
  let free := fun t => laneFree lane t dur.toNat = true
  ((w.liveBooks bk).length < 16 → ∀ t, from_ ≤ t → free t → (∀ t', from_ ≤ t' → t' < t → ¬free t') →
    (t ≤ from_ + 2 ^ 24 →
      ∃ u : State, CompletesP (.freq d a tk dur) s u tk 8 ∧
        (u.bank c).books = bk.books ++ [{ id := w.nextId, peer := x.peer, chan := x.chan, at_ := t, dur := dur.toNat }] ∧
        (∀ r, u.g r = if r = d ∧ r ≠ 0 then BitVec.ofNat 64 t else w.g r) ∧ w.SameReads u) ∧
    (from_ + 2 ^ 24 < t → WritesGP (.freq d a tk dur) s w tk 8 d (BitVec.allOnes 64))) ∧
  (16 ≤ (w.liveBooks bk).length → WaitsP (.freq d a tk dur) w s) ∧
  (x.countOk = true → slotFmt x.ifmt = true → x.rcore < 384 → w.chkScratch x.buf (slotLen x.ifmt x.n) 64 = .ok →
    let hit := fun (y : Booking) => y.peer = x.peer ∧ y.chan = x.chan ∧ y.at_ = x.t.toNat
    ((∀ y ∈ w.liveBooks bk, ¬hit y) → exec (.fsend a b tk) s = .next (w.trap 0x6B 0)) ∧
    (∀ y, (w.liveBooks bk).filter (fun z => decide (hit z)) = [y] →
      (x.t.toNat ≤ w.cyc → ∃ u : State, exec (.fsend a b tk) s = .next (u.trap 0x6C 0) ∧
        (u.bank c).books = bk.books.filter fun z => z.id ≠ y.id) ∧
      (w.cyc < x.t.toNat → 64 * y.dur < slotLen x.ifmt x.n → exec (.fsend a b tk) s = .next (w.trap 0x48 0)) ∧
      (w.cyc < x.t.toNat → slotLen x.ifmt x.n ≤ 64 * y.dur → (∀ m, m < 16 → (bk.copy m).busy = true) →
        WaitsP (.fsend a b tk) w s) ∧
      (w.cyc < x.t.toNat → slotLen x.ifmt x.n ≤ 64 * y.dur →
        ∀ n, n < 16 → (bk.copy n).busy = false → (∀ m, m < n → (bk.copy m).busy = true) →
        ∃ u : State, Completes (.fsend a b tk) s u 4 ∧ (u.bank c).books = (bk.books.filter fun z => z.id ≠ y.id) ∧
          (∀ r, u.g r = if r = b ∧ r ≠ 0 then BitVec.ofNat 64 n else w.g r) ∧
          ((u.bank c).copy n).kind = .send ∧ ((u.bank c).copy n).busy = true ∧ ((u.bank c).copy n).src = BitVec.ofNat 64 x.buf ∧
          ((u.bank c).copy n).len = slotLen x.ifmt x.n ∧ ((u.bank c).copy n).at_ = x.t.toNat ∧
          ((u.bank c).copy n).sig = patSig (s.me.pattern tk) ∧
          (u.bank c).sends = bk.sends ++ [(n, (u.bank c).copy n)] ∧ w.SameReads u))) ∧
  (x.hopOk = true → w.hopChecks x false = .ok →
    (bk.recvs.length < 8 →
      ∃ u : State, CompletesP (.frecv a tk) s u tk 4 ∧ (u.bank c).recvs = bk.recvs ++ [{ id := w.nextId, desc := x }] ∧ u.me = w.me ∧
        w.SameReads u) ∧
    (8 ≤ bk.recvs.length → WaitsP (.frecv a tk) w s)) ∧
  (x.hopOk = true → w.hopChecks x true = .ok →
    let rs := State.hopRanges c x
    let ins := (windowBase c + x.buf, slotLen x.ifmt x.n) :: if x.add then [(windowBase c + x.acc, 4 * x.n)] else []
    (w.landHeld w.party .cp w.nextId rs = true ∨ w.awayOpen w.party .cp w.nextId ins = true → WaitsP (.fwiden a tk) w s) ∧
    (w.landHeld w.party .cp w.nextId rs = false → w.awayOpen w.party .cp w.nextId ins = false → CompletesP (.fwiden a tk) s
      ((w.stepOver w.party .cp w.nextId rs).hop w.party false
        { id := 0, desc := x, got := w.scratchBytes .cp x.buf (slotLen x.ifmt x.n) }).1 tk 4)) ∧
  (∀ f n, slotLen f n = if f = 0 then 4 * n else n * Num.width f / 8 + n / 32)

/-- R442, R445, R446: from its tick on, a send puts one unit of its buffer on the lane each tick, while its package is in a
group and neither an older access of its stream to the unit nor the drain of an earlier engine holds it; a unit that arrives goes to the first armed receive of its peer and channel, lands at once where nothing is converted
or added, and completes the receive with the last; without a receive its sender is told.  A booking lapses at its end.  The model's
choice, log entry 57: LANDED of a send counts the bytes that have gone, and slot data leaves by the package's outputs. -/
def Claims.SlotsCarry : Prop := ∀ (s : State) (c : CoreId),
  (∀ (slot : BitVec 4) (bk : Bool) (x : Copy), s.HasCopy c.val slot.toNat bk x → x.kind = .send →
    let a := windowBase c.val + x.src.toNat + 64 * x.unit
    let i : Instr := .slotSendStart c slot
    let idle := State.drainHeld ((s.core c.val).get bk) 1 = false
    let away := s.awayOpen (Party.stream c.val bk .xe) .cp x.seq [(a, 64)] = true
    (s.cyc < x.at_ + x.unit → Leaves i s s) ∧
    (¬idle → Leaves i s s) ∧
    (s.mgmt.peerid.getLsbD 12 = true → away → Leaves i s s) ∧
    (idle → x.at_ + x.unit ≤ s.cyc → s.mgmt.peerid.getLsbD 12 = false → Leaves i s (s.faultCopy c.val bk slot.toNat 0x6A 0)) ∧
    (idle → ¬away → x.at_ + x.unit ≤ s.cyc → s.mgmt.peerid.getLsbD 12 = true → s.eccHit a 64 = false →
      ∃ u : State, Leaves i s u ∧ s.SameReads u ∧
        u.outs = s.outs ++ [.slot x.peer x.rcore x.chan (s.loadAsOf (Party.stream c.val bk .xe) .cp x.seq a 64)] ∧
        let y := ((u.core c.val).get bk).copy slot.toNat
        y.landed = x.landed + 64 ∧ y.unit = x.unit + 1 ∧ (y.busy = true ↔ x.unit + 1 < x.total ∧ x.canc = false))) ∧
  (∀ peer chan (data : BitVec 512),
    let i : Instr := .slotArrival c peer chan data
    let bs := natBytes 64 data.toNat
    (s.armed c.val peer chan = none → ∃ u : State, Leaves i s u ∧ u = { s with outs := s.outs ++ [.unarmed peer chan] }) ∧
    (∀ bk r, s.armed c.val peer chan = some (bk, r) →
      ∃ u : State, Leaves i s u ∧
        (slotLen r.desc.ifmt r.desc.n ≤ r.got.length + 64 →
          ((u.core c.val).get bk).recvs = ((s.core c.val).get bk).recvs.filter fun y => y.id ≠ r.id) ∧
        (r.got.length + 64 < slotLen r.desc.ifmt r.desc.n → r ∈ ((s.core c.val).get bk).recvs →
          ∃ y ∈ ((u.core c.val).get bk).recvs, y.id = r.id ∧ y.got = r.got ++ bs) ∧
        (r.through = true → r.got.length = 64 * r.out → r.desc.bar = none → r.desc.out + 64 * r.out + 64 ≤ 0x200000 →
          u.homeBytes (windowBase c.val + r.desc.out + 64 * r.out) 64 = bs))) ∧
  (∀ n, ∃ u : State, Leaves (.bookingLapse c n) s u ∧ ∀ bk, ((u.core c.val).get bk).books =
    ((s.core c.val).get bk).books.filter fun x => !(x.id = n && decide (x.at_ + x.dur ≤ s.cyc)))

/-- R442, R444, R445, R446: FREQ, FSEND, FRECV and FWIDEN, and the slots that carry their units. It says of each of
these that exec answers a next state, on conditions on the state and the operands alone: `fsend`, `frecv`, `fwiden`,
`freq`, `slotSendStart`, `slotArrival`, `bookingLapse`. -/
def Obligations.FabricSlots : Prop := Claims.FabricSlots ∧ Claims.SlotsCarry

/-- R201, R202, R212, R211, R220: how a command of the matrix engine ends, and the commands that only end: `MNOP`, `SEMSIG`,
`BSLOT`, which selects or empties a slot, and `ACCZ`, which clears its tile.  A command that is done leaves the queue and
adds one to its semaphore, and one for each signal of a dropped command, up to 255; a command whose own signal finds its
semaphore at 255 stops the engine and owes the fault to the control engine's stream; where the job is over, a command that
is done leaves the queue and its results go with the accumulator rows (R417). -/
def Claims.MatrixCommandsEnd : Prop := ∀ (s : State) (c : Nat) (m : MqEntry),
  s.RunsCmd c m →
  let h := mxHdr m.record
  exec .mnop s = .next (s.meDone c m) ∧ (∀ k, exec (.semsig k) s = .next (s.meDone c m)) ∧
  (∀ r : BslotRec, ∃ u : State, exec (.bslot r) s = .next (u.meDone c m) ∧
    u = s.setBank c (if r.rel then (s.bank c).setWslot r.slot .empty else { s.bank c with active := r.slot })) ∧
  (∀ r : AcczRec, r.tile.col0.toNat * 32 + tileN r.tile.ncols ≤ 256 →
    ∃ u : State, exec (.accz r) s = .next (u.meDone c m) ∧ u.bank c = s.bank c ∧ s.SameReads u ∧
      ∀ row col, col < 256 → u.accGet c row col =
        if r.tile.row0.toNat ≤ row ∧ row < r.tile.row0.toNat + tileM r.tile.mrows ∧ r.tile.col0.toNat * 32 ≤ col ∧
          col < r.tile.col0.toNat * 32 + tileN r.tile.ncols then 0 else s.accGet c row col) ∧
  (∀ u : State, (u.bank c).st ≠ .empty → h.sse = false ∨ (u.bank c).sem h.ssi ≤ 254 →
    ((u.meDone c m).bank c).mq = (u.bank c).mq.tail ∧ ((u.meDone c m).bank c).dropSig = [] ∧ u.SameReads (u.meDone c m) ∧
    ((u.meDone c m).core c).acc = (u.core c).acc ∧
    ∀ j, ((u.meDone c m).bank c).sem j =
      max ((u.bank c).sem j) (min 255 ((u.bank c).sem j + (if h.sse = true ∧ j = h.ssi then 1 else 0) +
        ((u.bank c).dropSig.map (·.1)).count j))) ∧
  (∀ u : State, (u.bank c).st = .empty → u.meDone c m = u.afterStop c) ∧
  (∀ u : State, (u.bank c).st ≠ .empty → h.sse = true → 255 ≤ (u.bank c).sem h.ssi →
    ((u.meDone c m).bank c).mq = [] ∧ ((u.meDone c m).bank c).meStopped = true ∧
    ((u.meDone c m).bank c).ce.owed = (u.bank c).ce.owed ++
      [{ seq := 0, code := 0x19, cls := 1
         words := [m.pc, 0, m.record.extractLsb' 0 64, m.record.extractLsb' 64 64,
           BitVec.ofNat 64 (State.meProgress m (u.bank c))], since := u.coreCycles c, me := true }] ∧
    ∀ j, ((u.meDone c m).bank c).sem j = (u.bank c).sem j)

/-- R207, R208, R209: `BLOAD` fills its slot: with a binding of the handle to the banks where the placement keeps the operand
there, and with its columns, and its scale bytes for F4, as they are read now otherwise; a handle that is not valid empties
the slot and faults.  That it faults at execution under every placement (log entry 71), and that AUTO asks a free bit whether a
bank is busy (entries 9 and 18), is the model's choice. -/
def Claims.WeightLoads : Prop := ∀ (s : State) (c : Nat) (m : MqEntry) (r : BloadRec),
  s.RunsCmd c m →
  let bf := (bloadFmt r m.fte).1
  let bw := (bloadFmt r m.fte).2
  let k := (r.kb.toNat + 1) * 64
  let n := tileN r.nb
  let cstr := r.cstr.toNat * 16
  let hbm := inHbm (Handle.addr m.h).toNat
  let base := if r.src then (Handle.addr m.h).toNat else windowBase c
  let atBank := r.src = true ∧ (r.place = 1 ∨ (r.place = 2 ∧ hbm = true ∧ (r.rh.toNat ≤ 4 ∨ Config.autoBusy s.freeCtr = true)))
  let fills := fun (x : WSlot) => ∃ u : State, exec (.bload r) s = .next (u.meDone c m) ∧
    u.bank c = (s.bank c).setWslot r.slot x ∧ (u.core c).acc = (s.core c).acc ∧ s.SameReads u
  (r.src = true → Handle.v m.h = false →
    ∃ u : State, exec (.bload r) s = .next (u.meFault c m 0x06 0 0) ∧ u.bank c = (s.bank c).setWslot r.slot .empty) ∧
  (r.src = true → Handle.v m.h = true → atBank → fills (.bank k n bf bw m.h r.baddr.toNat cstr r.saddr.toNat)) ∧
  ((r.src = true → Handle.v m.h = true) → ¬atBank →
    (∀ j, j < n → s.eccHit (base + r.baddr.toNat + j * cstr) (colBytes bf k) = false ∧
      (bf = 13 → s.eccHit (base + r.saddr.toNat + j * (k / 32)) (k / 32) = false)) →
    ∃ cells scales, fills (.anvil k n bf bw cells scales) ∧ ∀ j, j < n →
      cells.readN (j * colBytes bf k) (colBytes bf k) =
        s.loadBytes s.party .mx (base + r.baddr.toNat + j * cstr) (colBytes bf k) ∧
      (bf = 13 → scales.readN (j * (k / 32)) (k / 32) =
        s.loadBytes s.party .mx (base + r.saddr.toNat + j * (k / 32)) (k / 32)))

/-- R201, R202, R207, R208, R209, R211, R212, R220: How a matrix command ends, and the commands that only end; BLOAD.
It says of each of these that exec answers a next state, on conditions on the state and the operands alone: `mnop`,
`bslot`, `accz`, `semsig`, `bload`. -/
def Obligations.MatrixCommands : Prop := Claims.MatrixCommandsEnd ∧ Claims.WeightLoads

/-- R203, R204, R205, R206, R210: `MMA`, `MMAZ` and `ABANK` with a slot that holds an operand of an accepted pair of formats
write the dot product of every row of A with every column of B, added to the accumulator or alone, and change no other
accumulator; the rows of A come from core scratch or from the tile at the head of the operand queue, their scale bytes from
the packets of the scale FIFO or from that tile, and both are popped.  A command waits for a tile or a packet while the
access engine's stream runs, and faults when it is over; a slot with no operand faults.
It says of each of these that exec answers a next state, on conditions on the state and the operands alone: `mma`,
`mmaz`, `abank`. -/
def Obligations.MatrixProducts : Prop := ∀ (s : State) (c : Nat) (m : MqEntry) (r : MmaRec) (zero bank : Bool) (i : Instr),
  s.RunsCmd c m →
  (zero = false ∧ bank = false ∧ i = .mma r) ∨ (zero = true ∧ bank = false ∧ i = .mmaz r) ∨
    (zero = false ∧ bank = true ∧ i = .abank r) →
  let b := s.bank c
  let w := b.wslot (if bank then !b.active else b.active)
  let af := (mmaFmt r m.fte).1
  let scl := (mmaFmt r m.fte).2.2
  let M := tileM r.mrows
  (w.shape = none → exec i s = .next (s.meFault c m 0x2A 0 0)) ∧
  (∀ k n bf bw, w.shape = some (k, n, bf, bw) → (bank = true → w.code = 3) → Num.pairOk af bf = true →
    r.col0.toNat * 32 + n ≤ 256 → (r.af = 15 → m.fte.extractLsb' 4 4 = bf) →
    (∀ h x y z, w = .bank k n bf bw h x y z → Handle.v h = true) → s.slotBad w = none →
    let rowB := k * fmtSize af
    let nb := k / 32
    (r.oq = false → rowB ≤ r.astride.toNat ∧ s.chkScratch r.aaddr.toNat ((M - 1) * r.astride.toNat + rowB) 16 = .ok) →
    (r.oq = true → b.oq = [] → b.ae.life = .running → exec i s = .next (s.pass 1)) ∧
    (r.oq = true → b.oq = [] → b.ae.life ≠ .running → exec i s = .next (s.meFault c m 0x2C 0 0)) ∧
    (∀ (q : OqTile) (oq : List OqTile) (got : List Byte) (fifo : List Packet),
      (r.oq = true → b.oq = q :: oq ∧ q.m = M ∧ q.k = k ∧ q.fmt = af ∧ q.scales.length = if scl = 2 then M * nb else 0) →
      (scl = 1 → State.takePackets r.seq (M * nb) m.got b.fifo = (got, fifo, false)) → (scl = 2 → r.oq = true) →
      (scl = 1 → got.length < M * nb → b.ae.life = .running →
        ∃ u : State, exec i s = .next (u.pass 1) ∧ u = s.setBank c { b with fifo := fifo, mq := { m with got := got } :: b.mq.tail }) ∧
      (scl = 1 → got.length < M * nb → b.ae.life ≠ .running →
        ∃ u : State, exec i s = .next (u.meFault c m 0x2C 0 (got.length / nb))) ∧
      ((scl = 1 → M * nb ≤ got.length) →
        let row := fun (a : Nat) => aBlocks af (Num.alignWidth (mmaFmt r m.fte).2.1) k
          (if r.oq then (q.bytes.drop (a * rowB)).take rowB
            else s.loadBytes s.party .mx (windowBase c + r.aaddr.toNat + a * r.astride.toNat) rowB)
          (if scl = 1 then (got.drop (a * nb)).take nb else if scl = 2 then (q.scales.drop (a * nb)).take nb else [])
        ∃ u : State, exec i s = .next (u.meDone c m) ∧
          u.bank c = { b with oq := if r.oq then oq else b.oq, fifo := if scl = 1 then fifo else b.fifo } ∧
          s.SameReads u ∧
          (∀ a j, a < M → j < n → u.accGet c (r.row0.toNat + a) (r.col0.toNat * 32 + j) =
            Num.dot (row a) (s.slotCol j w)
              (if zero then none else some (s.accGet c (r.row0.toNat + a) (r.col0.toNat * 32 + j)))) ∧
          (∀ y x, x < 256 → y < r.row0.toNat ∨ r.row0.toNat + M ≤ y ∨ x < r.col0.toNat * 32 ∨ r.col0.toNat * 32 + n ≤ x →
            u.accGet c y x = s.accGet c y x))))

/-- R213, R214, R215, R217: `DRAIN`, with the parameter block that it read when it started and a policy that traps nothing,
of a tile whose biases and residuals do not lie in its destination, stores for every element its scaled, biased and added
value, dropped out, activated and converted, and clears the tile under CLR. -/
def Claims.DrainsStore : Prop := ∀ (s : State) (c : Nat) (m : MqEntry) (r : DrainRec),
  s.RunsCmd c m → c < 384 →
  let fmt := outFmt r.outf r.rm r.ovf m.fte
  let p := drainParam m.pb
  let dst := r.dst.toNat * 64
  r.tile.col0.toNat * 32 + tileN r.tile.ncols ≤ 256 → dstrOk fmt.1 r.tile.ncols r.dstr = true →
  s.chkScratch dst (drainBytes fmt.1 r.tile r.dstr) 64 = .ok → outFmtOk fmt.1 = true → fmt.2.2 ≠ 3 →
  s.PreReady r p 1 (fun a n => a + n ≤ dst ∨ dst + drainBytes fmt.1 r.tile r.dstr ≤ a) →
  ∃ u : State, exec (.drain r) s = .next (u.meDone c m) ∧
    s.Drained u c r.tile r.clr (fmtSize fmt.1) dst (r.dstr.toNat * 16)
      (fun i j => (drainPost r fmt m.rm p i j (s.preVal c r p i j j)).1) (fun _ => False)

/-- R225, R226, R227, R228, R229, R236, R238: `PRJ` with a policy that traps nothing, with radii that can be used, whose
inputs lie in no byte that it writes, projects the valid elements of every logical row onto its set, drops out, activates
and converts them, stores them with zeros after them, and stores the row's support record when it is asked for. -/
def Claims.ProjectionsStore : Prop := ∀ (s : State) (c : Nat) (m : MqEntry) (r : PrjRec),
  s.RunsCmd c m → c < 384 →
  let d := r.drain
  let fmt := outFmt d.outf d.rm d.ovf m.fte
  let p := drainParam m.pb
  let q := projParam (m.pb.drop 64)
  let span := r.span.toNat + 1
  let N := tileN d.tile.ncols
  let len := N * span
  let valid := if q.vlen = 0 then len else q.vlen
  let rows := tileM d.tile.mrows / span
  let dst := d.dst.toNat * 64
  let top := dst + drainBytes fmt.1 d.tile d.dstr
  let recN := recLen r.set len
  let apart := fun (a n : Nat) => (a + n ≤ dst ∨ top ≤ a) ∧
    (r.recs = true → ∀ j, j < rows → a + n ≤ q.recaddr + j * q.recstr ∨ q.recaddr + j * q.recstr + recN ≤ a)
  let radius := fun (j : Nat) =>
    if r.set.toNat < 3 ∧ r.rsrc = 1 then q.rad
    else if r.set.toNat < 3 ∧ r.rsrc = 2 then BitVec.ofNat 32 (s.scratchNat .mx (q.raddr + 4 * j) 4)
    else Num.one32
  let proj := fun (j : Nat) => project r.set (radius j) q.lo q.hi
    ((List.range valid).map fun e => s.preVal c d p (j * span + e / N) (e % N) e)
  let isRec := fun (a : Nat) => r.recs = true ∧ ∃ j, j < rows ∧
    windowBase c + q.recaddr + j * q.recstr ≤ a ∧ a < windowBase c + q.recaddr + j * q.recstr + recN
  d.tile.col0.toNat * 32 + N ≤ 256 → tileM d.tile.mrows % span = 0 → dstrOk fmt.1 d.tile.ncols d.dstr = true →
  s.chkScratch dst (drainBytes fmt.1 d.tile d.dstr) 64 = .ok → outFmtOk fmt.1 = true → fmt.2.2 ≠ 3 →
  r.set.toNat ≤ 4 → projStart q r.set len r.recs false = none →
  s.PreReady d p span apart →
  (∀ j, j < rows → r.set.toNat < 3 → r.rsrc = 1 ∨ r.rsrc = 2 → radiusOk (radius j) = true ∧
    (r.rsrc = 2 → s.chkScratch (q.raddr + 4 * j) 4 4 = .ok ∧ apart (q.raddr + 4 * j) 4)) →
  (r.recs = true → ∀ j, j < rows → s.chkScratch (q.recaddr + j * q.recstr) recN 32 = .ok ∧
    (q.recaddr + j * q.recstr + recN ≤ dst ∨ top ≤ q.recaddr + j * q.recstr)) →
  ∃ u : State, exec (.prj r) s = .next (u.meDone c m) ∧
    s.Drained u c d.tile d.clr (fmtSize fmt.1) dst (d.dstr.toNat * 16)
      (fun i k =>
        let j := i / span
        let e := i % span * N + k
        if e < valid then (drainPost d fmt m.rm p j e ((proj j).xs.getD e 0)).1 else 0) isRec ∧
    (r.recs = true → ∀ j, j < rows →
      u.loadBytes s.party .mx (windowBase c + q.recaddr + j * q.recstr) recN = recBytes r.set len valid (proj j))

/-- R239, R240, R241, R242: `PRJADJ` with a policy that traps nothing, whose rows do not overlap and whose records agree with the command and the
saved results, and lie with them in no byte that it writes, stores the input gradient of every logical row. -/
def Claims.AdjointsStore : Prop := ∀ (s : State) (c : Nat) (m : MqEntry) (r : AdjRec),
  s.RunsCmd c m → c < 384 →
  let fmt := outFmt r.outf r.rm r.ovf m.fte
  let mode := Num.RMode.ofCode (if fmt.2.1 = 7 then m.rm else fmt.2.1)
  let q := projParam m.pb
  let span := r.span.toNat + 1
  let N := tileN r.tile.ncols
  let len := N * span
  let valid := if q.vlen = 0 then len else q.vlen
  let rows := tileM r.tile.mrows / span
  let dst := r.dst.toNat * 64
  let top := dst + drainBytes fmt.1 r.tile r.dstr
  let recN := recLen r.set len
  let sz := if q.yfmt = 0 then 4 else 2
  let apart := fun (a n : Nat) => a + n ≤ dst ∨ top ≤ a
  let saved := fun (j e : Nat) => Num.rne32 (Num.decodeVal (BitVec.ofNat 4 q.yfmt)
    (s.scratchNat .mx (q.yaddr + (j * span + e / N) * q.ystr + sz * (e % N)) sz))
  let ys := fun (j : Nat) => (List.range valid).map (saved j)
  let gs := fun (j : Nat) => (List.range valid).map fun e =>
    s.accGet c (r.tile.row0.toNat + j * span + e / N) (r.tile.col0.toNat * 32 + e % N)
  let record := fun (j : Nat) => recIn (s.loadBytes s.party .mx (windowBase c + q.recaddr + j * q.recstr) recN)
  r.tile.col0.toNat * 32 + N ≤ 256 → tileM r.tile.mrows % span = 0 → dstrOk fmt.1 r.tile.ncols r.dstr = true →
  s.chkScratch dst (drainBytes fmt.1 r.tile r.dstr) 64 = .ok → outFmtOk fmt.1 = true → fmt.2.2 ≠ 3 →
  r.set.toNat ≤ 4 → projStart q r.set len true true = none →
  (∀ j, j < rows → s.chkScratch (q.recaddr + j * q.recstr) recN 32 = .ok ∧ apart (q.recaddr + j * q.recstr) recN ∧
    recOk (record j) r.set len valid (ys j) q.lo q.hi = true) →
  (∀ i, i < tileM r.tile.mrows → s.chkScratch (q.yaddr + i * q.ystr) (N * sz) 1 = .ok ∧ apart (q.yaddr + i * q.ystr) (N * sz)) →
  ∃ u : State, exec (.prjadj r) s = .next (u.meDone c m) ∧
    s.Drained u c r.tile r.clr (fmtSize fmt.1) dst (r.dstr.toNat * 16)
      (fun i k =>
        let j := i / span
        let e := i % span * N + k
        (drainCvt fmt.1 mode fmt.2.2
          ((Num.hash 0 0 0 (BitVec.ofNat 32 j) (BitVec.ofNat 32 e)).extractLsb' 0 16).toNat
          ((adjoint (record j) r.set q.lo q.hi (ys j) (gs j)).getD e 0)).1) (fun _ => False)

/-- R213, R214, R215, R217, R225, R226, R227, R228, R236, R239, R240, R241: DRAIN, PRJ and PRJADJ. It says of each of
these that exec answers a next state, on conditions on the state and the operands alone: `drain`, `prj`, `prjadj`. -/
def Obligations.MatrixStores : Prop := Claims.DrainsStore ∧ Claims.ProjectionsStore ∧ Claims.AdjointsStore

/-- R357, R358, R359: in a call frame, an access through an offset into the target page that passes its checks reads or
changes just the bytes at the page's address plus that offset: `OLD` and `OVLD` load them, `OST` and `OVST` write them at
the memory at once, `OAMO` is atomic and answers the old value.  An offset out of bounds ends the call with a fault.  (A frame
reads at once: `readFirst` holds of none that a run reaches.) -/
def Claims.OutpostAccesses : Prop := ∀ (s : State) (o f : Nat) (call : OCall) (d a b : GReg) (wd : WReg) (sz : BitVec 3)
    (ty : BitVec 2),
  s.cur = .frame o f → (s.frame o f).call = some call →
  let off := (s.g a).toInt
  let pa := (call.base + off).toNat
  let fits := fun (n : Nat) (perm : BitVec 3) =>
    0 ≤ off ∧ off + n ≤ call.bytes ∧ off % n = 0 ∧ perm &&& ~~~call.perm = 0
  let free := fun (v : State) (n : Nat) => ∀ i, i < n → mapped (pa + i) = true ∧ v.tpbGuarded (pa + i) = false
  let stores := fun (i : Instr) (n : Nat) (bs : List Byte) => ∃ u : State, Completes i s u 4 ∧ u.me = s.me ∧
    u.homeBytes pa n = bs ∧ ∀ x, x < pa ∨ pa + n ≤ x → u.lastByte x = s.lastByte x
  (ldSizeOk sz = true → fits (sizeBytes sz) 1 → s.readFirst pa (sizeBytes sz) = false → s.eccHit pa (sizeBytes sz) = false →
    ReadsG (.old d a sz) s [(pa, sizeBytes sz)] 4 d (extendLoad sz (s.loadBytes call.party .rem pa (sizeBytes sz)))) ∧
  (stSizeOk sz = true → fits (sizeBytes sz) 2 → free s (sizeBytes sz) →
    stores (.ost d a sz) (sizeBytes sz) (natBytes (sizeBytes sz) (s.g d).toNat)) ∧
  (fits 64 2 → free s 64 → stores (.ovst wd a) 64 (natBytes 64 (s.wreg wd).toNat)) ∧
  (fits 64 1 → s.eccHit pa 64 = false →
    ∃ u : State, Completes (.ovld wd a) s u 4 ∧ u = (s.ask [(pa, 64)]).setFrame o f { s.frame o f with w := (u.frame o f).w } ∧
      ∀ r, u.wreg r = if r = wd then BitVec.ofNat 512 (leNat (s.loadBytes call.party .rem pa 64)) else s.wreg r) ∧
  (∀ op i, (op = .add ∧ i = .oamoAdd ty a b) ∨ (op = .max ∧ i = .oamoMax ty a b) ∨ (op = .swap ∧ i = .oamoSwap ty a b) ∨
      (op = .cas ∧ i = .oamoCas ty a b) →
    let n := amoSize ty
    let old := s.homeBytes pa n
    fits n 4 → s.eccHit pa n = false → free s n →
    ∃ u : State, Completes i s u 4 ∧ u.homeBytes pa n = amoBytes op ty (s.g b) (if op = .cas then s.g (b + 1) else 0) old ∧
      (∀ r, u.g r = if r = b ∧ r ≠ 0 then amoOld ty old else s.g r) ∧
      ∀ x, x < pa ∨ pa + n ≤ x → u.lastByte x = s.lastByte x) ∧
  (off < 0 ∨ call.bytes < off + sizeBytes sz →
    exec (.old d a sz) s = .next (s.frameFault o f 0x07 (BitVec.ofInt 64 (call.base + off)) s.me.pc (s.reportedWords s.me.pc)))

/-- R358: the lane by lane instructions of an outpost write one `w` register and nothing else. -/
def Claims.OutpostVectors : Prop := ∀ (s : State) (o f : Nat) (call : OCall) (d a b : WReg) (i : Instr)
    (op : W32 → W32 → W32 → W32),
  s.cur = .frame o f → (s.frame o f).call = some call →
  (i = .ovadd d a b ∧ op = fun x y _ => Num.add32 x y) ∨ (i = .ovmul d a b ∧ op = fun x y _ => Num.mul32 x y) ∨
    (i = .ovfma d a b ∧ op = fun x y z => Num.fma32 x y z) ∨ (i = .ovmax d a b ∧ op = fun x y _ => minMax32 true x y) →
  ∃ u : State, Completes i s u 4 ∧ u = s.setFrame o f { s.frame o f with w := (u.frame o f).w } ∧
    (∀ r, r ≠ d → u.wreg r = s.wreg r) ∧
    ∀ n, n < 16 → (u.wreg d).extractLsb' (32 * n) 32 =
      op ((s.wreg a).extractLsb' (32 * n) 32) ((s.wreg b).extractLsb' (32 * n) 32) ((s.wreg d).extractLsb' (32 * n) 32)

/-- R357, R358, R359: Outpost accesses and vector instructions. It says of each of these that exec answers a next
state, on conditions on the state and the operands alone: `old`, `ost`, `oamoAdd`, `oamoMax`, `oamoSwap`, `oamoCas`,
`ovld`, `ovst`, `ovadd`, `ovmul`, `ovfma`, `ovmax`. -/
def Obligations.OutpostInstructions : Prop := Claims.OutpostAccesses ∧ Claims.OutpostVectors

/-- R357, R358, R361, R363, R388: `OREPLY` sends the values of its registers to the caller and ends the call (what a call from
another package has written is then visible there); the oldest call of an outpost's queue starts in a free frame with its payload, offset and length in the registers and everything else zero; a
call that has run for 10,000,000 ticks is ended; and a reply reaches the tag that waits for it.  The model's choice, log
entry 76: the two low bits of an entry PC that is no multiple of 4 are dropped.  The model's choice, log entry 59: queued
calls start in the order of their arrival, and a reply that comes 12,000,000 ticks or more after its call is dropped.
It says of each of these that exec answers a next state, on conditions on the state and the operands alone: `oreply`,
`remoteCallStart`, `callRunTimeout`, `callReply`. -/
def Obligations.OutpostCalls : Prop := ∀ (s : State) (o f : Nat) (call : OCall),
  (s.cur = .frame o f → (s.frame o f).call = some call → ∀ n a,
    ∃ t, exec (.oreply n a) s = .next t ∧ (t.frame o f).busy = false ∧ (t.frame o f).call = none ∧
      (s.showCall call).SameReads t ∧
      (∀ core bk eng tag gen, call.caller = .tag core bk eng tag gen → s.SameReads t ∧
        t.replies = s.replies ++
          [{ core := core, bankB := bk, eng := eng, tag := tag, gen := gen, st := .ready ((regRange a n.toNat).map s.g) }]) ∧
      ∀ p tag, call.caller = .peer p tag →
        t = ((s.showCall call).toPeer p (.reply p tag ((regRange a n.toNat).flatMap fun r => natBytes 8 (s.g r).toNat))).endFrame o f) ∧
  (∀ (x : OutId) (y : FrameId) rest k w, x.val = o → y.val = f → (s.outpost o).queue = call :: rest →
    (s.frame o f).busy = false → s.entryWord call.ctx call.entry = some (k, w) →
    ∃ t, exec (.remoteCallStart x y) s = .next t ∧ (t.outpost o).queue = rest ∧ (t.frame o f).busy = true ∧
      (t.frame o f).call = some call ∧ (t.frame o f).st.pc = BitVec.ofNat 64 ((w.extractLsb' 0 14).toNat / 4 * 4) ∧ (t.frame o f).data = [] ∧
      (t.frame o f).w = [] ∧ (t.frame o f).started = s.cyc ∧ s.SameReads t ∧
      (call.payload.length ≤ 8 → ∀ r : GReg, (t.frame o f).st.rg r =
        if 1 ≤ r.toNat ∧ r.toNat ≤ call.payload.length then call.payload.getD (r.toNat - 1) 0
        else if r.toNat = 9 then call.off else if r.toNat = 10 then BitVec.ofNat 64 call.bytes else 0)) ∧
  (∀ (x : OutId) (y : FrameId), x.val = o → y.val = f → (s.frame o f).busy = true → (s.frame o f).started + 10000000 ≤ s.cyc →
    ∃ t, exec (.callRunTimeout x y) s = .next t ∧ (t.frame o f).busy = false ∧ (t.frame o f).call = none ∧
      t.replies = s.replies ∧ t.outs = s.outs) ∧
  (∀ (c : CoreId) (e : Eng) (tag : BitVec 4) (r : CallReply), s.findReply c.val e tag.toNat = some r →
    let t0 := ((s.core r.core).get r.bankB).get r.eng
    let x := t0.call r.tag
    (x.st = .flight → x.gen = r.gen → s.cyc < x.issued + 12000000 →
      ∃ t, exec (.callReply c e tag) s = .next t ∧ t.replies = s.replies.erase r ∧
        (((t.core r.core).get r.bankB).get r.eng).call r.tag = { x with st := r.st } ∧
        (((t.core r.core).get r.bankB).get r.eng).g = t0.g ∧ s.SameReads t) ∧
    (x.st ≠ .flight ∨ x.gen ≠ r.gen → exec (.callReply c e tag) s = .next { s with replies := s.replies.erase r }))

/-- R272, R273, R275: a translation ends in its 32nd cycle where a directory holds its page: the handle register is READY with
the leaf's page and the permissions that bounds and leaf share, or FAULTED where the leaf lacks one that it needs, and the
offset register is written, and the reason is recorded (R271); else it is PENDING until a walk ends, which enters what it finds
into the directory.  A walk that fails for an answered page fault puts its READY bank back in WAIT (R424).  Where an
invalidation since its issue names the handle it is not valid and nothing is entered, and where the handle register has been
written or invalidated since only the offset register is.  An invalidation is
complete when no earlier access that it may match is on its way.  The model's choice, log entries 36, 84 and 87: the numbers of
the reasons, and where they are kept.  The model's choice, log entry 34: the READY bank's return to WAIT.
It says of each of these that exec answers a next state, on conditions on the state and the operands alone:
`translationLookup`, `pageWalkEnd`, `invalidationComplete`. -/
def Obligations.TranslationsEnd : Prop := ∀ (s : State) (c : CoreId) (e : Eng) (id : Nat) (bk : Bool) (x : Xlate),
  s.HasXlate c.val e id bk x →
  let t := s.bstrm c.val bk e
  let job := ((s.core c.val).get bk).job
  let va := ptrVa x.ptr
  let hit := fun (h : Handle) => x.invs.any fun r => invHits r h
  let kept := fun (h : Handle) => if hit h then h &&& ~~~1 else h
  let faulted := kept (mkHandle 2 false 0 0 (ptrRid x.ptr) 0)
  let ready := fun (pgsz : BitVec 4) (perm : BitVec 3) (rem : Bool) (addr : BitVec 57) =>
    mkHandle 0 rem pgsz (perm &&& x.bperm) (ptrRid x.ptr) addr
  let early := x.walking = false ∧ s.cycles < x.at_ + 32
  let fails := fun (i : Instr) (reason : Nat) => ∃ u : State, Leaves i s u ∧ u.dir = s.dir ∧
    t.XlateOver (u.bstrm c.val bk e) x faulted (BitVec.allOnes 64)
      (tset t.horig x.hreg.toNat { (tget {} t.horig x.hreg.toNat : HOrigin) with reason := reason }) ∧
    (x.pf = none ∨ ((s.core c.val).get bk).st ≠ .ready → s.SameReads u) ∧
    ∀ pc word, x.pf = some (pc, word) → ((s.core c.val).get bk).st = .ready →
      ((u.core c.val).get bk).st = .wait ∧
      ∃ w, ((u.core c.val).get bk).pf = some w ∧ w.eng = e ∧ w.hreg = x.hreg ∧ w.pc = pc ∧ w.word = word ∧ w.draining = false
  (x.walking = true → Leaves (.translationLookup c e id) s s) ∧
  (x.walking = false → Leaves (.pageWalkEnd c e id) s s) ∧
  (x.live = false → ¬early → ∃ u : State,
    Leaves (if x.walking then .pageWalkEnd c e id else .translationLookup c e id) s u ∧ u.dir = s.dir ∧ s.SameReads u ∧
    t.XlateOver (u.bstrm c.val bk e) x (t.rh x.hreg) (BitVec.allOnes 64)) ∧
  (early → Leaves (.translationLookup c e id) s s) ∧
  (x.walking = false → ¬early → x.live = true →
    (∀ d, s.dir.find? (fun d => d.covers (dieOf c.val) job.ctx va) = some d →
      (x.need &&& ~~~d.perm = 0 → ∃ u : State, Leaves (.translationLookup c e id) s u ∧ u.dir = s.dir ∧ s.SameReads u ∧
        t.XlateOver (u.bstrm c.val bk e) x (kept (ready d.pgsz d.perm d.rem d.addr)) (BitVec.ofNat 64 (va % pageBytes d.pgsz))) ∧
      (x.need &&& ~~~d.perm ≠ 0 → fails (.translationLookup c e id) 3)) ∧
    (s.dir.find? (fun d => d.covers (dieOf c.val) job.ctx va) = none →
      ∃ u : State, Leaves (.translationLookup c e id) s u ∧ s.SameReads u ∧
        (u.bstrm c.val bk e).rh x.hreg = kept (mkHandle 1 false 0 0 (ptrRid x.ptr) 0) ∧ (u.bstrm c.val bk e).g = t.g ∧
        (u.bstrm c.val bk e).xlates = t.xlates.map fun y => if y.id = id then
            { y with walking := true, live := !hit (mkHandle 1 false 0 0 (ptrRid x.ptr) 0) }
          else y)) ∧
  (x.walking = true → x.live = true →
    (∀ pgsz perm rem addr, s.walk job.ctx va = .leaf pgsz perm rem addr → x.need &&& ~~~perm = 0 →
      ∃ u : State, Leaves (.pageWalkEnd c e id) s u ∧ s.SameReads u ∧
        t.XlateOver (u.bstrm c.val bk e) x (kept (ready pgsz perm rem (BitVec.ofNat 57 addr))) (BitVec.ofNat 64 (va % pageBytes pgsz)) ∧
        u.dir = if hit (ready pgsz perm rem (BitVec.ofNat 57 addr)) then s.dir else s.dir ++
          [{ die := dieOf c.val, ctx := job.ctx, page := va / pageBytes pgsz, pgsz := pgsz, perm := perm, rem := rem
             addr := BitVec.ofNat 57 addr }]) ∧
    (∀ pgsz perm rem addr, s.walk job.ctx va = .leaf pgsz perm rem addr → x.need &&& ~~~perm ≠ 0 →
      fails (.pageWalkEnd c e id) 3) ∧
    (s.walk job.ctx va = .notPresent → fails (.pageWalkEnd c e id) 0) ∧
    (s.walk job.ctx va = .badEntry → fails (.pageWalkEnd c e id) 1) ∧
    (s.walk job.ctx va = .unmapped → fails (.pageWalkEnd c e id) 2) ∧
    (∀ a, s.walk job.ctx va = .uncorr a → fails (.pageWalkEnd c e id) 4)) ∧
  (∀ n v, s.invals.find? (fun y => y.id = n) = some v →
    (s.invOpen v = false → Leaves (.invalidationComplete n) s { s with invals := s.invals.filter fun y => y.id ≠ n }) ∧
    (s.invOpen v = true → Leaves (.invalidationComplete n) s s))

/-- R278, R279, R297, R311, R313, R316, R317, R375: a tile request to a tensor without hallmarks waits while an earlier access
of its stream must come first, or an earlier engine's drain (R417); else a load delivers its tile to core scratch, or to the operand queue when its turn has come
and there is room, a store writes the tensor, and the request is then over and signals.  It reads memory as it stands at the
request's place in program order.  Delivered in the tensor's own format of whole bytes, an element inside the tensor holds
the tensor's bytes and one outside holds the pad.  A policy's trap and an uncorrectable error are owed by the stream.  The model's
choice, log entry 28: the reads of one request are made in one event. -/
def Claims.TilesServed : Prop := ∀ (s : State) (c : CoreId) (id : Nat) (bk : Bool) (r : Req) (t : TileReq),
  s.HasReq c.val id bk r → r.kind = .tile t → r.tile = none → r.waiting = none →
  let p := Party.stream c.val bk .ae
  let b := (s.core c.val).get bk
  let gone := fun (u : State) => (u.bstrm c.val bk .ae).reqs = b.ae.reqs.filter fun y => y.id ≠ id
  let w := s.ask t.tensor
  let free := s.reqHeld c.val bk r = false ∧ State.drainHeld b 3 = false
  (¬free → Leaves (.tileRequest c id) s s) ∧
  (free → t.store = false → t.desc.hv = false → w.tileEcc t = none →
    (∀ code, w.tileOut p r.seq t none = .error code → Leaves (.tileRequest c id) s (w.faultReq c.val bk r (code, 0) 0 0)) ∧
    ∀ out, w.tileOut p r.seq t none = .ok out →
    (t.q = false →
      let u := ((w.stepOver p .sc r.seq [(windowBase c.val + t.dst, tileBytes t.outf t.tw t.th)]).tileStore c.val p t out).finishReq
        c.val bk r
      Leaves (.tileRequest c id) s u ∧ gone u) ∧
    (t.q = true → b.oqOrder.head? = some id → b.oq.length < 4 →
      ∃ u : State, Leaves (.tileRequest c id) s u ∧ gone u ∧
        ((u.core c.val).get bk).oq = b.oq ++
          [{ m := if t.transposed then t.tw else t.th, k := if t.transposed then t.th else t.tw, fmt := t.outf
             bytes := out.1, scales := [] }] ∧
        ((u.core c.val).get bk).oqOrder = b.oqOrder.filter (· ≠ id)) ∧
    (t.outf = t.desc.fmt → Num.width t.outf % 8 = 0 → ∀ n x y, t.order[n]? = some (x, y) →
      let k := Num.width t.outf / 8
      (out.1.drop (k * n)).take k =
        if t.box.holds x y then s.loadAsOf p .sc r.seq ((Handle.addr t.dh).toNat + t.box.bitAt x y / 8) k
        else natBytes k (padCode (Num.width t.outf) t.pad))) ∧
  (free → t.store = false → t.desc.hv = false → ∀ a, w.tileEcc t = some a →
    Leaves (.tileRequest c id) s (w.faultReq c.val bk r (0x3D, BitVec.ofNat 64 a) 0 0)) ∧
  (free → t.store = true →
    (∀ code, s.tileIn c.val p r.seq t = .error code → Leaves (.tileRequest c id) s (s.faultReq c.val bk r (code, 0) 0 0)) ∧
    ∀ x, s.tileIn c.val p r.seq t = .ok x →
      Leaves (.tileRequest c id) s (((s.stepOver p .sc r.seq t.tensor).tilePut p t x.1 x.2).finishReq c.val bk r))

/-- R291, R292, R293, R294, R303, R310: a step-named request that no earlier access of its stream holds resolves at once when its step
is in the tensor's window and committed; it is refused below the release line or the window, and beyond it; between COMMIT and
the window it waits for at most WAITLIM ticks, with the REL that it has sampled; a wait goes on when its step is committed,
whatever else the block holds by then, and expires at its limit.  A request whose block fails its check is TPB_BAD.  All of
this waits for an earlier engine's drain (R417). -/
def Claims.StepsResolve : Prop := ∀ (s : State) (c : CoreId) (id : Nat) (bk : Bool) (r : Req) (t : TileReq) (tpb : Tpb),
  s.HasReq c.val id bk r → r.kind = .tile t → r.tile = none → t.store = false → t.desc.hv = true →
  let p := Party.stream c.val bk .ae
  let v := s.learnTpb tpb.at0
  let idle := State.drainHeld ((s.core c.val).get bk) 3 = false
  let free := s.reqHeld c.val bk r = false ∧ idle
  let step := if t.step = BitVec.allOnes 32 then tpb.commit else t.step
  let below := (tpb.rel ≠ BitVec.allOnes 32 ∧ step.toNat ≤ tpb.rel.toNat) ∨ step.toNat + tpb.back < tpb.commit.toNat
  let beyond := tpb.commit.toNat + tpb.fwd < step.toNat
  (r.waiting = none → ¬free → Leaves (.tileRequest c id) s s) ∧
  (r.waiting = none → free → s.readTpb p r.seq .sc t.desc t.ph t.dh = .ok tpb →
    (below → Leaves (.tileRequest c id) s (v.faultReq c.val bk r (0x41, 0) 0 step)) ∧
    (¬below → beyond → Leaves (.tileRequest c id) s (v.faultReq c.val bk r (0x42, 0) 0 step)) ∧
    (¬below → ¬beyond → tpb.commit.toNat < step.toNat → tpb.waits = true →
      ∃ u : State, Leaves (.tileRequest c id) s u ∧ s.SameReads u ∧
        (u.bstrm c.val bk .ae).reqs = (s.bstrm c.val bk .ae).reqs.map fun y =>
          if y.id = r.id then
            { r with waiting := some (s.cyc + tpb.waitlim, tpb.rel, step), sampled := some (tpb.rel, step, step) }
          else y) ∧
    (¬below → ¬beyond → step.toNat ≤ tpb.commit.toNat ∨ tpb.waits = false →
      Leaves (.tileRequest c id) s
        (v.resolveTile c.val bk { r with sampled := some (tpb.rel, step, tpb.commit) } t tpb step false))) ∧
  (r.waiting = none → free → ∀ e, s.readTpb p r.seq .sc t.desc t.ph t.dh = .error e →
    Leaves (.tileRequest c id) s ((s.nameTpb t.ph).faultReq c.val bk r e 0 t.step)) ∧
  (∀ deadline rel named b, r.waiting = some (deadline, rel, named) → s.tpbFields p r.seq .sc t.ph = .ok (tpb, b) →
    (named.toNat ≤ tpb.commit.toNat →
      Leaves (.stepWaitResume c id) s (if free then s.resolveTile c.val bk r t tpb named true else s) ∧
      Leaves (.waitExpired c id) s s) ∧
    (tpb.commit.toNat < named.toNat →
      Leaves (.stepWaitResume c id) s s ∧
      (deadline ≤ s.cyc → idle → Leaves (.waitExpired c id) s (s.faultReq c.val bk r (0x43, 0) 0 named)) ∧
      (s.cyc < deadline ∨ ¬idle → Leaves (.waitExpired c id) s s)))

/-- R311, R318, R320, R375, R384: a `QLD` whose turn has come appends the tile and the scale bytes that it reads to an operand
queue with room; a gather moves its elements one by one between the page and core scratch, each read as it was where nothing
that the request writes lies on what it reads; both read memory as it stands at their place in program order, and are then
over.  What an earlier access of the stream or the drain of an earlier engine holds waits. -/
def Claims.FeedsServed : Prop := ∀ (s : State) (c : CoreId) (id : Nat) (bk : Bool) (r : Req),
  s.HasReq c.val id bk r →
  let p := Party.stream c.val bk .ae
  let b := (s.core c.val).get bk
  let gone := fun (u : State) => (u.bstrm c.val bk .ae).reqs = b.ae.reqs.filter fun y => y.id ≠ id
  let free := s.reqHeld c.val bk r = false ∧ State.drainHeld b 3 = false
  (∀ fmt addr m k scale, r.kind = .qld fmt addr m k scale →
    (free → b.oqOrder.head? = some id → b.oq.length < 4 →
      ∃ u : State, Leaves (.qldAppend c id) s u ∧ gone u ∧ ((u.core c.val).get bk).oq = b.oq ++
        [{ m := m, k := k, fmt := fmt, bytes := s.loadAsOf p .sc r.seq (windowBase c.val + addr) (m * k * fmtSize fmt)
           scales := match scale with
             | some z => s.loadAsOf p .sc r.seq (windowBase c.val + z) (m * (k / 32))
             | none => [] }]) ∧
    (¬free ∨ b.oqOrder.head? ≠ some id ∨ 4 ≤ b.oq.length → Leaves (.qldAppend c id) s s)) ∧
  (∀ store size loc h offs, r.kind = .gather store size loc h offs → ¬free →
    Leaves (.gatherPerform c id) s s) ∧
  (∀ size loc h offs, r.kind = .gather false size loc h offs → free →
    let base := (Handle.addr h).toNat
    let dst := windowBase c.val + loc
    let n := offs.length * size
    let w := (s.ask (r.kind.reads (windowBase c.val))).stepOver p .sc r.seq [(dst, n)]
    (∀ o, offs.find? (fun o => s.eccHit (base + o) size) = some o →
      Leaves (.gatherPerform c id) s (s.faultReq c.val bk r (0x3D, BitVec.ofNat 64 (base + o)) 0 0)) ∧
    ((∀ x ∈ offs, s.eccHit (base + x) size = false) → loc + n ≤ 0x200000 →
      (∀ x ∈ offs, base + x + size ≤ dst ∨ dst + n ≤ base + x) →
      ∃ u : State, Leaves (.gatherPerform c id) s u ∧ gone u ∧
        (∀ j (h : j < offs.length), u.loadAsOf p .sc r.seq (dst + j * size) size = w.loadAsOf p .sc r.seq (base + offs[j]) size) ∧
        (∀ a, a < dst ∨ dst + n ≤ a → u.lastByte a = w.lastByte a))) ∧
  (∀ size loc h offs, r.kind = .gather true size loc h offs → free →
    let base := (Handle.addr h).toNat
    let src := windowBase c.val + loc
    let n := offs.length * size
    let w := (s.ask (r.kind.reads (windowBase c.val))).stepOver p .sc r.seq (offs.map fun x => (base + x, size))
    ∃ u : State, Leaves (.gatherPerform c id) s u ∧ gone u ∧
      (∀ a, (∀ x ∈ offs, a < base + x ∨ base + x + size ≤ a) → u.lastByte a = w.lastByte a) ∧
      ((∀ x ∈ offs, ∀ i, i < size → mapped (base + x + i) = true ∧ (inHbm (base + x + i) = true → 256 ≤ (base + x + i) % 4096)) →
        (∀ x ∈ offs, base + x + size ≤ src ∨ src + n ≤ base + x) →
        (∀ i j (hi : i < offs.length) (hj : j < offs.length), i ≠ j →
          offs[i] + size ≤ offs[j] ∨ offs[j] + size ≤ offs[i]) →
        ∀ j (h : j < offs.length), u.homeBytes (base + offs[j]) size = w.loadAsOf p .sc r.seq (src + j * size) size))

/-- R299, R301, R302, R303, R311, R370: a `WREL` below COMMIT as it arrives, which no unfinished request holds, raises REL to its
step, which it never lowers; one that is held keeps the step that it had then, and is performed once nothing holds it.  An
update or a skip joins the end of its tensor's temper queue; the first of the queue that no unfinished request holds writes
every granule at the next step and then COMMIT.  A tile that waits for the operand queue is unfinished.  The model's choice, log
entry 27: an update applies all granules and COMMIT in one event. -/
def Claims.StepCommands : Prop := ∀ (s : State) (c : CoreId) (id : Nat) (bk : Bool) (r : Req) (tpb : Tpb),
  s.HasReq c.val id bk r →
  let p := Party.stream c.val bk .ae
  let idle := State.drainHeld ((s.core c.val).get bk) 3 = false
  let gone := fun (u : State) => (u.bstrm c.val bk .ae).reqs = (s.bstrm c.val bk .ae).reqs.filter (fun y => y.id ≠ id)
  (∀ d ph dh named, r.kind = .wrel d ph dh named →
    let held := fun (at0 : Nat) (step : W32) => ∃ y ∈ s.arrived at0, ∃ w, y.sampled = some w ∧
      (w.1 = BitVec.allOnes 32 ∨ w.1.toNat < step.toNat) ∧ w.2.1.toNat ≤ step.toNat
    let raises := fun (step : W32) => inHbm tpb.at0 = true → inHbm (tpb.at0 + 11) = true →
      ∃ u : State, Leaves (.stepRelease c id) s u ∧ gone u ∧
        (tpb.rel = BitVec.allOnes 32 ∨ tpb.rel.toNat < step.toNat → u.homeBytes (tpb.at0 + 8) 4 = natBytes 4 step.toNat) ∧
        (tpb.rel ≠ BitVec.allOnes 32 → step.toNat ≤ tpb.rel.toNat → u.homeBytes (tpb.at0 + 8) 4 = s.homeBytes (tpb.at0 + 8) 4) ∧
        ∀ a, a < tpb.at0 + 8 ∨ tpb.at0 + 12 ≤ a → u.lastByte a = s.lastByte a
    (¬idle → Leaves (.stepRelease c id) s s) ∧
    (r.sampled = none → s.commandHeld c.val bk r = true → Leaves (.stepRelease c id) s s) ∧
    (idle → r.sampled = none → s.commandHeld c.val bk r = false →
      (∀ e, s.readTpb p r.seq .near d ph dh = .error e →
        Leaves (.stepRelease c id) s ((s.nameTpb ph).faultCmd c.val bk r e 0 named)) ∧
      (s.readTpb p r.seq .near d ph dh = .ok tpb →
        let step := if named = BitVec.allOnes 32 then tpb.commit - 1 else named
        (tpb.commit.toNat ≤ step.toNat → Leaves (.stepRelease c id) s (s.faultCmd c.val bk r (0x45, 0) 0 step)) ∧
        (step.toNat < tpb.commit.toNat → held tpb.at0 step →
          Leaves (.stepRelease c id) s ((s.learnTpb tpb.at0).putReq c.val bk { r with sampled := some (0, step, tpb.commit) })) ∧
        (step.toNat < tpb.commit.toNat → ¬held tpb.at0 step → raises step))) ∧
    (∀ x step y, r.sampled = some (x, step, y) →
      (held (Handle.addr ph).toNat step → Leaves (.stepRelease c id) s s) ∧
      (idle → ¬held (Handle.addr ph).toNat step →
        (∀ e, s.tpbFields p r.seq .near ph = .error e → Leaves (.stepRelease c id) s (s.faultCmd c.val bk r e 0 step)) ∧
        (∀ b, s.tpbFields p r.seq .near ph = .ok (tpb, b) → raises step)))) ∧
  (∀ sk d ph dh gh goff, r.kind = .update sk d ph dh gh goff →
    let q := tget [] s.temperQ (Handle.addr ph).toNat
    let here := id ∈ q
    let v := if here then s else { s with temperQ := tset s.temperQ (Handle.addr ph).toNat (q ++ [id]) }
    let first := (if here then q else q ++ [id]).head? = some id
    (¬idle ∨ (¬here ∧ s.commandHeld c.val bk r = true) → Leaves (.temperUpdate c id) s s) ∧
    (idle → here ∨ s.commandHeld c.val bk r = false → ¬first → Leaves (.temperUpdate c id) s v) ∧
    (idle → here ∨ s.commandHeld c.val bk r = false → first →
      (∀ e, v.readTpb p r.seq .near d ph dh = .error e →
        Leaves (.temperUpdate c id) s ((v.nameTpb ph).faultCmd c.val bk r e 0 0)) ∧
      (v.readTpb p r.seq .near d ph dh = .ok tpb →
        let step := tpb.commit + 1
        let held := ∃ y ∈ s.arrived tpb.at0, ∃ w, y.sampled = some w ∧
          (w.2.2.toNat < tpb.commit.toNat ∨
            (tpb.commit.toNat < w.2.1.toNat ∧ ∃ x, y.waiting = some x ∧ x.1 ≤ s.cyc))
        let skip := sk || (s.ctx ((s.core c.val).get bk).job.ctx).gsf
        let x := (v.learnTpb tpb.at0).temperGrans p r.seq tpb skip ((Handle.addr gh).toNat + goff) step.toNat
          (List.range tpb.granules) 0
        (tpb.commit = 0xFFFFFFFE → Leaves (.temperUpdate c id) s (v.faultCmd c.val bk r (0x40, 0) 0 step)) ∧
        (tpb.commit ≠ 0xFFFFFFFE → held → Leaves (.temperUpdate c id) s v) ∧
        (tpb.commit ≠ 0xFFFFFFFE → ¬held → ∀ e, x.2.2 = some e →
          Leaves (.temperUpdate c id) s (x.1.faultCmd c.val bk r e x.2.1 step)) ∧
        (tpb.commit ≠ 0xFFFFFFFE → ¬held → x.2.2 = none → inHbm tpb.at0 = true → inHbm (tpb.at0 + 7) = true →
          ∃ u : State, Leaves (.temperUpdate c id) s u ∧ gone u ∧
            u.homeBytes (tpb.at0 + 4) 4 = natBytes 4 step.toNat ∧
            ∀ a, a < tpb.at0 + 4 ∨ tpb.at0 + 8 ≤ a → u.lastByte a = x.1.lastByte a))))

/-- R278, R279, R291, R292, R293, R297, R299, R301, R311, R316, R318, R320: Tile requests, feeds and gathers are
served; steps resolve; weight-step commands are performed. It says of each of these that exec answers a next state, on
conditions on the state and the operands alone: `tileRequest`, `stepWaitResume`, `waitExpired`, `qldAppend`,
`gatherPerform`, `stepRelease`, `temperUpdate`. -/
def Obligations.TileRequestsServed : Prop := Claims.TilesServed ∧ Claims.StepsResolve ∧ Claims.FeedsServed ∧ Claims.StepCommands

/-- R285, R329, R330, R331, R332, R333, R370, R375: a posted operation that no earlier one of its stream, and no earlier command
to a tensor, holds is performed, at its place in issue order, and leaves the queue of its unit: `NRED` writes the sums of its rows to core scratch, `NADD` adds its elements and an `NSEQ` program
runs, and each is then over; `NAMO` is atomic at its location, and its reply writes the old value to its register.  An
uncorrectable error at a row of an `NRED` or at the location of a `NAMO` is a fault.
It says of each of these that exec answers a next state, on conditions on the state and the operands alone:
`nredPerform`, `naddPerform`, `namoPerform`, `nearMemoryReply`, `bankSequencerRun`. -/
def Obligations.NearOperationsPerformed : Prop := ∀ (s : State) (c : CoreId) (id : Nat) (bk : Bool) (o : NearOp),
  s.HasNear c.val id bk o →
  let p := Party.stream c.val bk .ae
  let st := s.bstrm c.val bk .ae
  let gone := fun (u : State) => (u.bstrm c.val bk .ae).near = st.near.filter (fun y => y.id ≠ id) ∧ (u.bstrm c.val bk .ae).g = st.g
  let q := leaveQueues [id] s.nearQ
  let held := s.nearWaits c.val bk o = true ∨ State.drainHeld ((s.core c.val).get bk) 3 = true ∨
    ∃ r ∈ st.reqs, r.id < o.id ∧ rangesMeet (s.commandRanges r.kind) (o.kind.ranges c.val) = true
  let free := o.performed = false ∧ ¬held
  (o.performed = true ∨ held →
    Leaves (.nredPerform c id) s s ∧ Leaves (.naddPerform c id) s s ∧ Leaves (.namoPerform c id) s s ∧
    Leaves (.bankSequencerRun c id) s s) ∧
  (free → ∀ fmt h base rlen idx dst, o.kind = .nred fmt h base rlen idx dst →
    let row := fun (i : W32) => ((Handle.addr h).toNat + base + i.toNat * rlen : Int).toNat
    let rows := (idx.filter (· ≠ BitVec.allOnes 32)).map row
    ((∀ a ∈ rows, s.eccHit a rlen = false) →
      ∃ u : State, Leaves (.nredPerform c id) s u ∧ gone u ∧ u.nearQ = q ∧
        u.log = (s.performUnits p .near (windowBase c.val + dst)
          ((s.nredSums p fmt ((Handle.addr h).toNat + base) rlen idx).flatMap fun w => natBytes 4 w.toNat) false (some o.seq)).log) ∧
    ∀ a, rows.find? (fun a => s.eccHit a rlen) = some a → Leaves (.nredPerform c id) s (s.faultNear c.val bk o a 0)) ∧
  (free → ∀ int h off data, o.kind = .nadd int h off data →
    let r := s.addElems p (some o.seq) int ((Handle.addr h).toNat + off) data 0
    (r.2.2 = none → ∃ u : State, Leaves (.naddPerform c id) s u ∧ gone u ∧ u.nearQ = q ∧ u.log = r.1.log ∧ u.buf = r.1.buf) ∧
    ∀ a, r.2.2 = some a → Leaves (.naddPerform c id) s (r.1.faultNear c.val bk o a r.2.1)) ∧
  (free → ∀ h prog x, o.kind = .nseq h prog → parseSeq prog = some x →
    let r := State.seqRun p o.seq x (Handle.addr h).toNat x.counters { a := x.a, b := x.b, c := x.c, zero := false } (s, none)
    r.2 = none → ∃ u : State, Leaves (.bankSequencerRun c id) s u ∧ gone u ∧ u.nearQ = q ∧ u.log = r.1.log ∧ u.buf = r.1.buf) ∧
  (∀ op ty h off x cmp g, o.kind = .namo op ty h off x cmp g →
    let a := (Handle.addr h).toNat + off
    let n := amoSize ty
    (free → s.eccHit a n = false → (∀ i, i < n → mapped (a + i) = true ∧ s.tpbGuarded (a + i) = false) →
      ∃ u : State, Leaves (.namoPerform c id) s u ∧ u.homeBytes a n = amoBytes op ty x cmp (s.homeBytes a n) ∧
        (∀ y, y < a ∨ a + n ≤ y → u.lastByte y = s.lastByte y) ∧ (u.bstrm c.val bk .ae).g = st.g ∧ u.nearQ = q ∧
        (u.bstrm c.val bk .ae).near = st.near.map fun y =>
          if y.id = o.id then { y with performed := true, reply := amoOld ty (s.homeBytes a n) } else y) ∧
    (free → s.eccHit a n = true → Leaves (.namoPerform c id) s (s.faultNear c.val bk o a 0)) ∧
    (o.performed = true → ∃ u : State, Leaves (.nearMemoryReply c id) s u ∧ s.SameReads u ∧
      (u.bstrm c.val bk .ae).near = st.near.filter (fun y => y.id ≠ id) ∧
      ∀ k, (u.bstrm c.val bk .ae).rg k = if k = g ∧ k ≠ 0 then o.reply else st.rg k))

/-- R342, R343, R344, R346, R349, R355, R375: the next unit of a copy, which waits while an earlier access of the stream to its
bytes must come first, lands in every receiver's scratch, and a barrier counts it there, or it lands at its home; the copy
leaves its slot with its last unit, and once it is cancelled.  A unit landed at its home is counted when its acknowledgement
returns.  A handle that is no longer valid when a unit is read ends the copy with a fault.  The drain of an earlier engine
holds it (R417).  The model's choice, log entry 53: a unit of a multicast lands in every receiver in one event. -/
def Claims.CopiesLand : Prop := ∀ (s : State) (c : CoreId) (slot : BitVec 4) (bk : Bool) (x : Copy),
  s.HasCopy c.val slot.toNat bk x → x.kind ≠ .send → x.kind ≠ .rot →
  let n := slot.toNat
  let p := Party.stream c.val bk .xe
  let i : Instr := .copyLanding c slot
  let from_ := if x.sk then handlePhys x.sh (x.src.toNat + x.unitAt x.sstr x.unit)
    else windowBase c.val + (x.src.toNat + x.unitAt x.sstr x.unit)
  let off := x.dst.toNat + x.unitAt x.dstr x.unit
  let data := if x.data ≠ [] then x.data
    else if x.kind = .fill then (List.range 8).flatMap (fun _ => natBytes 8 x.src.toNat)
    else s.loadAsOf p .cp x.seq from_ 64
  let reads := x.data = [] ∧ x.kind ≠ .fill
  let w := if reads then s.ask [(from_, 64)] else s
  let v := w.stepOver p .cp x.seq (w.unitRanges c.val bk x x.unit)
  let idle := State.drainHeld ((s.core c.val).get bk) 1 = false
  let free := reads → s.awayOpen p .cp x.seq [(from_, 64)] = false
  let at_ := fun (u : State) => ((u.core c.val).get bk).copy n
  let next := fun (u : State) => (at_ u).unit = x.unit + 1 ∧ ((at_ u).busy = true ↔ x.unit + 1 < x.total ∧ x.canc = false)
  let valid := (x.sk = true → Handle.v x.sh = true) ∧ (x.dk = true → Handle.v x.dh = true)
  let near := x.sk = true → Handle.remote x.sh = false
  (¬idle → Leaves i s s) ∧
  (idle → x.remote = false → x.data = [] → ¬valid → Leaves i s (s.faultCopy c.val bk n 0x06 0)) ∧
  (x.remote = false → valid → reads → near → ¬free → Leaves i s s) ∧
  (idle → x.remote = false → valid → reads → near → free → s.eccHit from_ 64 = true →
    Leaves i s (s.faultCopy c.val bk n 0x3D (BitVec.ofNat 64 from_))) ∧
  (idle → x.remote = false →
    x.data.length = 64 ∨ (x.data = [] ∧ valid ∧ (x.kind = .fill ∨ (near ∧ free ∧ s.eccHit from_ 64 = false))) →
    (x.dk = true → Handle.remote x.dh = false) →
    (w.landHeld p .cp x.seq (w.unitRanges c.val bk x x.unit) = true →
      Leaves i s (w.modCopy c.val bk n fun y => { y with data := data })) ∧
    (w.landHeld p .cp x.seq (w.unitRanges c.val bk x x.unit) = false →
      (x.dk = false → off + 64 ≤ 0x200000 → (∀ a, x.bar = some a → a + 16 ≤ 0x200000 ∧ (a + 16 ≤ off ∨ off + 64 ≤ a)) →
        ∃ u : State, Leaves i s u ∧ (at_ u).landed = x.landed + 64 ∧ next u ∧
          ∀ r ∈ s.receivers c.val bk x, u.homeBytes (windowBase r + off) 64 = data ∧
            ∀ a, x.bar = some a → u.homeBytes (windowBase r + a) 16 = barCount (v.homeBytes (windowBase r + a) 16)) ∧
      (x.dk = true →
        let pa := handlePhys x.dh off
        inWindow pa = false → (∀ k, k < 64 → mapped (pa + k) = true ∧ v.tpbGuarded (pa + k) = false) →
        ∃ u : State, Leaves i s u ∧ u.homeBytes pa 64 = data ∧ (at_ u).landed = x.landed + 64 ∧
          (x.bar = none → next u) ∧
          (x.bar ≠ none → (at_ u).unit = x.unit ∧ (at_ u).remote = true ∧ (at_ u).busy = true)))) ∧
  (idle → x.remote = true → x.landed = 64 * (x.unit + 1) → ∀ a, x.bar = some a → a + 16 ≤ 0x200000 →
    let bar := [(windowBase c.val + a, 16)]
    (s.landHeld p .cp x.seq bar = true → Leaves i s s) ∧
    (s.landHeld p .cp x.seq bar = false → ∃ u : State, Leaves i s u ∧ (at_ u).landed = x.landed ∧ next u ∧
      u.homeBytes (windowBase c.val + a) 16 = barCount ((s.stepOver p .cp x.seq bar).homeBytes (windowBase c.val + a) 16))) ∧
  (x.remote = true → x.landed ≠ 64 * (x.unit + 1) → Leaves i s s)

/-- R347: the first rotation that a core has not started starts when every member of the gang has issued it, with one
length: every member's tile is read whole, is counted on its neighbour's barrier, and its promise register receives a free
value; with different lengths every member's copy takes XROT_MISMATCH, and where a member has ended without issuing it the
core's takes GANG_ABSENT.  A member that has failed is no such member: its partners wait to be discarded (R405).  The model's
choice, log entry 54: a partner that ends, or a mismatch that comes, after an `XROT` has issued is an imprecise fault that its
copy owes, as of every copy after its issue (R348); at the issue of the last member it is precise (R404). -/
def Claims.RotationsStart : Prop := ∀ (s : State) (c : CoreId) (bk : Bool) (k n : Nat),
  s.bankWhere c.val (fun b => (State.firstRot b).isSome) = some bk →
  State.firstRot ((s.core c.val).get bk) = some k → State.rotSlot ((s.core c.val).get bk) k = some n →
  let ms := s.members c.val bk
  let bank := fun (y : Nat × Bool) => (s.core y.1).get y.2
  let lost := ms.length < s.gangSize c.val bk
  let gone := s.partnerGone c.val bk = true ∨ ∃ y ∈ ms, (bank y).rots < k ∧ (bank y).xe.life ≠ .running
  let len := fun (y : Nat × Bool) => (State.rotSlot (bank y) k).map fun m => ((bank y).copy m).len
  let i : Instr := .xrotRotationStart c
  let slots := ms.filterMap fun y => (State.rotSlot (bank y) k).map fun m => (y, m)
  (gone → Leaves i s (s.faultCopy c.val bk n 0x54 0)) ∧
  let all := ¬lost ∧ ∀ y ∈ ms, k ≤ (bank y).rots
  let away := ∃ x ∈ slots, let y := (bank x.1).copy x.2
    s.awayOpen (Party.stream x.1.1 x.1.2 .xe) .cp y.seq [(windowBase x.1.1 + y.src.toNat, y.len)] = true
  (s.partnerGone c.val bk = true ↔ lost ∧ ¬∃ g, s.gang ((s.core c.val).get bk).job.gang = some g ∧ g.failing = true) ∧
  (¬gone → ¬all → Leaves i s s) ∧
  (all → away → (∀ y ∈ ms, ∀ z ∈ ms, len y = len z) → Leaves i s s) ∧
  (¬gone → all → (∃ y ∈ ms, ∃ z ∈ ms, ∃ l m, len y = some l ∧ len z = some m ∧ l ≠ m) →
    Leaves i s (slots.foldl (fun t y => t.faultCopy y.1.1 y.1.2 y.2 0x55 0) s)) ∧
  (¬gone → all → ¬away → (ms.map (·.1)).Nodup → (∀ y ∈ ms, (State.rotSlot (bank y) k).isSome = true) →
    (∀ y ∈ ms, ∀ z ∈ ms, len y = len z) →
    ∃ u : State, Leaves i s u ∧ s.SameReads u ∧ ∀ y ∈ ms, ∀ m, State.rotSlot (bank y) k = some m →
      let x := (bank y).copy m
      let z := ((u.core y.1).get y.2).copy m
      z.rotOn = true ∧ z.data = s.loadAsOf (Party.stream y.1 y.2 .xe) .cp x.seq (windowBase y.1 + x.src.toNat) x.len ∧
      (∀ q ∈ ms, ∀ l, q.1 = s.neighbour y.1 y.2 → State.rotSlot (bank q) k = some l → z.bar = ((bank q).copy l).bar) ∧
      (∃ v : Nat, ∀ r, (u.bstrm y.1 y.2 .xe).rg r =
        if r = x.dreg ∧ r ≠ 0 then BitVec.ofNat 64 s.cyc + Config.promiseDelay v else (s.bstrm y.1 y.2 .xe).rg r))

/-- R342, R343, R344, R346, R347, R349, R355: Copy units land; rotations start. It says of each of these that exec
answers a next state, on conditions on the state and the operands alone: `copyLanding`, `xrotRotationStart`. -/
def Obligations.CopiesLand : Prop := Claims.CopiesLand ∧ Claims.RotationsStart

/-- R351, R354, R363: the deadline of a waiting `BWAIT` or touch, and the timeout of a waiting `RWAIT`, bring the instruction
to be looked at again, as it is then: a touch of a busy slot takes PROMISE_MISS, and a wait for a call in flight takes
CALL_LOST.  A deadline register that holds 0 names no deadline of a `BWAIT`. -/
def Claims.WaitsRunOut : Prop := ∀ (s w : State) (c : CoreId) (e : Eng) (d a b : GReg) (tk : Tk) (t : State),
  let at_ := { s with cur := .eng c.val e }
  s.mayIssue c.val e = true → ((s.bank c.val).get e).blocked = true →
  (e = .xe → at_.fetch = .exec (.bwait a b tk) t → b ≠ 0 → t.g b ≠ 0 → (t.g b).toNat ≤ t.cyc % 2 ^ 64 →
    ∃ u, exec (.bwait a b tk) t = .next u ∧ Leaves (.promiseMiss c) s u) ∧
  (e = .xe → at_.fetch = .exec (.xstatWait d a b tk) t → a ≠ 0 → (t.g a).toNat ≤ t.cyc % 2 ^ 64 →
    (∃ u, exec (.xstatWait d a b tk) t = .next u ∧ Leaves (.promiseMiss c) s u) ∧
    (t.afterWait tk = some w → w.me.owed = [] → w.g a = t.g a → w.cyc = t.cyc →
      ((w.bank c.val).copy ((w.g b).toNat % 16)).busy = true → Leaves (.promiseMiss c) s (w.trap 0x50 0))) ∧
  (let x := t.me.call ((t.g a).toNat % 16)
   x.st = .flight → x.issued + 12000000 ≤ t.cyc →
    ∀ i, i = .rwait a tk ∨ i = .rwaitAe a tk → at_.fetch = .exec i t →
      (∃ u, exec i t = .next u ∧ Leaves (.callLost c e) s u) ∧
      (t.afterWait tk = some w → w.me.calls = t.me.calls → w.g a = t.g a → w.cyc = t.cyc →
        Leaves (.callLost c e) s ((w.freeCall ((t.g a).toNat % 16)).trap 0x56 0)))

/-- R151, R310, R353, R414: a job whose started streams and matrix engine are all stuck is looked at from then on, and after 2^20
cycles in which they are ends with TOKEN_DEADLOCK; a fault that a stream has owed for 2^20 cycles is reported at the instruction that it holds
(a `BARR` that it abandons no longer counts as issued); and a sealed region past its length takes REGION_LONG at the next
instruction that is no `REGION` or `RDV`, or meets its fetch's trap.  The model's choice, log entry 29: when the count of R151
starts and pauses, and that a late report abandons a `BARR` that not every member has issued. -/
def Claims.LateJobs : Prop := ∀ (s : State) (c : CoreId) (e : Eng),
  let b := s.bank c.val
  (b.allStuck = false → Leaves (.tokenDeadlock c) s s) ∧
  (b.allStuck = true → b.stuckSince = none →
    Leaves (.tokenDeadlock c) s (s.setBank c.val (b.beginStuck (s.coreCycles c.val)))) ∧
  (∀ n, b.allStuck = true → b.stuckSince = some n → s.coreCycles c.val + b.stuckFor < n + 1048576 → Leaves (.tokenDeadlock c) s s) ∧
  (∀ n, b.allStuck = true → b.stuckSince = some n → n + 1048576 ≤ s.coreCycles c.val + b.stuckFor →
    Leaves (.tokenDeadlock c) s (s.jobFail c.val (s.core c.val).runB
      { code := 0x18, cls := 4, src := srcField c.val 7, words := b.deadlockWords })) ∧
  (∀ o, firstOwed (b.get e).owed = some o → s.mayIssue c.val e = true →
    ((∀ y ∈ (b.get e).owed, s.coreCycles c.val < y.since + 1048576) → Leaves (.impreciseReportTimeout c e) s s) ∧
    (s.barrComplete c.val e = false → (∃ y ∈ (b.get e).owed, y.since + 1048576 ≤ s.coreCycles c.val) →
      Leaves (.impreciseReportTimeout c e) s
        (State.report ({ ((if e = Eng.xe then s.dropBarr c.val else s).modBank c.val fun k => { k with stuckSince := none, stuckFor := 0 }) with
          cur := .eng c.val e }.noteIssue) o))) ∧
  (s.mayIssue c.val e = true → (b.get e).sealed = true → 65536 < (b.get e).sealCount →
    let at_ : State := { s with cur := .eng c.val e }
    let next := at_.imemWord (at_.me.pc + 4)
    (∀ u, at_.fetch = .other u → Leaves (.regionLong c e) s u) ∧
    (∀ w i, at_.imemWord at_.me.pc = some w → (wLong w = true → next.isSome = true) → decode at_.map w (next.getD 0) = .ok i →
      at_.me.loads = [] → interlocked at_.me i = false → at_.rotHeld i = false → at_.loadsHold i = false →
      (∀ mask, i ≠ .region mask) → i ≠ .rdv → Leaves (.regionLong c e) s (at_.noteIssue.trap 0x61 0)))

/-- R151, R310, R351, R354, R363, R414: Deadlines of waits, token deadlock, late reports and long regions. It says of
each of these that exec answers a next state, on conditions on the state and the operands alone: `promiseMiss`,
`callLost`, `tokenDeadlock`, `impreciseReportTimeout`, `regionLong`. -/
def Obligations.WaitsRunOut : Prop := Claims.WaitsRunOut ∧ Claims.LateJobs

/-- R389, R390, R434, R435, R438, R439, R441, R442: an access that reaches the package's gateway and that the exporting function admits is
performed where its page is in the export directory with the permission that it needs: a load is answered with the bytes, a
store, an atomic and an addition are acknowledged once what they write is visible everywhere, and a call is queued with the
permissions that the page and the caller's handle share.  Where the page is not there, or an earlier access of the stream to
the page has a ticket, it is ticketed; one that is not admitted, or lacks the permission, gets a fault reply, and so does one to a
function under reset; and with `PEERID.V` clear nothing is served.  An uncorrectable error is answered with the first byte that
the operation reads and that it holds.  The model's choice, log entry 46: an acknowledgement is a turn of its own, which makes
what it acknowledges visible everywhere.  The model's choice, log entry 72: an owner's ticket is used up when its access comes
again after the notice, with those of earlier accesses of the stream that have expired. -/
def Claims.RemoteAccessesArrive : Prop := ∀ (s : State) (r : RemReq) (ctx : CtxId),
  let fn := (r.addr.extractLsb' 36 9).toNat
  let i : Instr := .remoteAccessArrival r
  let w : Word := (r.addr.extractLsb' 0 45).setWidth 64
  let page : BitVec 24 := r.addr.extractLsb' 12 24
  let p := s.peerParty r.peer r.strm
  let refusal := fun (v : State) (code : Nat) (a : Word) => v.toPeer r.peer (.faultReply r.peer r.tag code a 0 0)
  let replied := fun (v : State) (bs : List Byte) => v.toPeer r.peer (.reply r.peer r.tag bs)
  (s.mgmt.peerid.getLsbD 12 = false → Leaves i s s) ∧
  (s.mgmt.peerid.getLsbD 12 = true → 385 ≤ fn → Leaves i s (refusal s 0x69 w)) ∧
  (s.mgmt.peerid.getLsbD 12 = true → ctx.val = fn →
    let x := s.ctx ctx
    let peer := r.peer.toNat
    let va := (r.addr.extractLsb' 0 36).toNat
    let mine := fun (t : OwnTicket) => t.peer = r.peer ∧ t.strm = r.strm ∧ t.ctx = ctx ∧ t.page = page
    let v : State := if ∃ t ∈ s.tickets, mine t ∧ t.tag = r.tag then
        { s with tickets := s.tickets.filter fun t => decide ¬(mine t ∧ t.tag ≤ r.tag) } else s
    let admits := x.exctl.getLsbD 24 = true ∧ (x.exctl.extractLsb' 0 12).toNat ≤ peer ∧ peer ≤ (x.exctl.extractLsb' 12 12).toNat
    let behind := ∃ t ∈ v.tickets, mine t ∧ t.tag < r.tag
    (x.reset ≠ none → Leaves i s (refusal v 0x63 w)) ∧
    (x.reset = none → ¬admits → Leaves i s (refusal v 0x69 w)) ∧
    (x.reset = none → admits → behind ∨ s.dir.find? (fun d => d.covers 4 ctx va) = none →
      Leaves i s (State.toPeer
        { v with tickets := v.tickets ++ [{ peer := r.peer, strm := r.strm, tag := r.tag, ctx := ctx, page := page, addr := r.addr }] }
        r.peer (.ticket r.peer r.strm r.tag page))) ∧
    (∀ d, x.reset = none → admits → ¬behind → s.dir.find? (fun d => d.covers 4 ctx va) = some d →
      let off := va % pageBytes d.pgsz
      let pa := d.addr.toNat + off
      let n := State.opBytes r.op
      let no := v.remPlace r
      let b := (v.stepOver p r.path no [(pa, n)]).ask [(pa, n)]
      let bad := (List.range n).find? fun k => State.opReads k r.op && b.eccHit (pa + k) 1
      let free := ∀ k, k < n → mapped (pa + k) = true ∧ b.tpbGuarded (pa + k) = false
      let later := fun (u : State) (data : List Byte) => Leaves i s u ∧ u.outs = s.outs ∧ u.loops = s.loops ∧
        (∃ hi, u.acks = s.acks ++ [{ req := r, lo := b.nextId, hi := hi, data := data }]) ∧
        ∀ y, y < pa ∨ pa + n ≤ y → u.lastByte y = b.lastByte y
      (State.opNeed r.op &&& ~~~d.perm ≠ 0 → Leaves i s (refusal v 0x69 w)) ∧
      (State.opNeed r.op &&& ~~~d.perm = 0 →
        (∀ k, bad = some k →
          Leaves i s (refusal (b.depositSev 0 4 1 (BitVec.ofNat 64 (pa + k))) 0x3D (BitVec.ofNat 64 (pa + k)))) ∧
        (∀ n, r.op = .load n → bad = none → Leaves i s (replied b (b.loadAsOf p r.path no pa n))) ∧
        (∀ bs, r.op = .store bs → free → ∃ u, later u [] ∧ u.homeBytes pa bs.length = bs) ∧
        (∀ op ty x cmp, r.op = .atom op ty x cmp → bad = none → free →
          ∃ u, later u (b.homeBytes pa n) ∧ u.homeBytes pa n = amoBytes op ty x cmp (b.homeBytes pa n)) ∧
        (∀ m bs, r.op = .bits m bs → bad = none → m.length = bs.length → free →
          ∃ u, later u [] ∧ ∀ k (h : k < bs.length), u.lastByte (pa + k) = maskByte (m.getD k 0) bs[k] (b.lastByte (pa + k))) ∧
        (∀ int xs, r.op = .add int xs → bad = none →
          ∃ u, later u [] ∧ u.log = (b.addElems p none int pa xs 0).1.log) ∧
        (∀ entry ws nr perm, r.op = .call entry ws nr perm → inWindow d.addr.toNat = false →
          ∃ u : State, Leaves i s u ∧ b.SameReads u ∧
            (nr = true → u.outs = (replied b []).outs ∧ u.loops = (replied b []).loops) ∧
            (nr = false → u.outs = s.outs ∧ u.loops = s.loops) ∧
            (u.outpost (outpostOf d.addr.toNat)).queue = (s.outpost (outpostOf d.addr.toNat)).queue ++
              [{ id := b.nextId, caller := if nr then .none else .peer r.peer r.tag, party := p, ctx := ctx
                 entry := entry, payload := ws, base := d.addr.toNat, bytes := pageBytes d.pgsz, perm := d.perm &&& perm
                 off := BitVec.ofNat 64 off }]) ∧
        (∀ entry ws perm, r.op = .call entry ws false perm → inWindow d.addr.toNat = true →
          Leaves i s (refusal b 0x58 0))))) ∧
  (∀ n (a : Ack), s.acks[n]? = some a → ∀ w ∈ (s.ackTurn n).log, a.lo ≤ w.no → w.no < a.hi → ∀ y q, w.visTo y q = true)

/-- R439, R440, R442: at the owner, an export walk that finds a leaf enters it and sends each stream with a recorded ticket of the
page a replay notice that names the window page, while the records stay for the replays; one that does not posts a record and
starts no second walk; a cancel notice drops the tickets of its stream and page; and a host-loss notice is logged.  The model's
choice, log entry 68: which kind the entry has in the log of the links. -/
def Claims.OwnersAnswer : Prop := ∀ (s : State) (ctx : CtxId) (page : BitVec 24) (peer : BitVec 12) (strm : Nat),
  let mine := fun (t : OwnTicket) => t.ctx = ctx ∧ t.page = page ∧ t.noticed = false
  let va := page.toNat * 4096
  ((∀ t ∈ s.tickets, mine t → t.walking = false) → Leaves (.exportWalkEnd ctx page) s s) ∧
  (∀ first, s.tickets.find? (fun t => decide (mine t ∧ t.walking = true)) = some first →
    let w := s.ask (s.walkReads va 3 2 (((s.ctx ctx).exroot.extractLsb' 12 33).toNat * 4096))
    let ended := fun (w : State) => Leaves (.exportWalkEnd ctx page) s (State.postRec
        { w with tickets := s.tickets.map fun t => if mine t then { t with walking := false } else t } ctx
        { code := 0x68, cls := 5, src := 0xFFF
          words := [first.peer.setWidth 64, (first.addr.extractLsb' 0 45).setWidth 64, BitVec.ofNat 64 ctx.val] })
    (∀ pgsz perm rem addr, s.exportWalk ctx va = .leaf pgsz perm rem addr →
      let who := ((s.tickets.filter fun t => decide (mine t)).map fun t => (t.peer, t.strm)).eraseDups
      Leaves (.exportWalkEnd ctx page) s (who.foldl (fun u x => u.toPeer x.1 (.notice x.1 x.2 (BitVec.ofNat 9 ctx.val ++ page)))
        { w with
          tickets := s.tickets.map fun t => if mine t then { t with walking := false, noticed := true } else t
          dir := (s.dir.filter fun d => !d.covers 4 ctx va) ++
            [{ die := 4, ctx := ctx, page := va / pageBytes pgsz, pgsz := pgsz, perm := perm, rem := false
               addr := BitVec.ofNat 57 addr }] })) ∧
    (s.exportWalk ctx va = .notPresent ∨ s.exportWalk ctx va = .badEntry ∨ s.exportWalk ctx va = .unmapped → ended w) ∧
    (∀ a, s.exportWalk ctx va = .uncorr a → ended (w.depositSev 0 4 1 (BitVec.ofNat 64 a)))) ∧
  Leaves (.ticketCancelNotice peer strm ctx page) s
    { s with tickets := s.tickets.filter fun t => !(t.peer = peer && t.strm = strm && t.ctx = ctx && t.page = page) } ∧
  Leaves (.hostLossNotice peer) s (s.depositKind 2 5 (peer.setWidth 64))

/-- R435, R439, R440, R441, R442: What the owner of a page answers to a remote access, a walk and a notice. It says of
each of these that exec answers a next state, on conditions on the state and the operands alone:
`remoteAccessArrival`, `exportWalkEnd`, `ticketCancelNotice`, `hostLossNotice`. -/
def Obligations.RemoteOwners : Prop := Claims.RemoteAccessesArrive ∧ Claims.OwnersAnswer

/-- R148, R164, R187, R436, R437, R438, R440, R442: the answer of a remote access ends it, and where its instruction finishes with
it its signals are sent.  A reply writes what the access was made for.  The parts of a vector load, and of a store, end together
with the last answer: with the register written, or, where a part has a fault, with the report of the lowest one and nothing
written.  The ticket-table entry is free once nothing else uses it; where a replay notice has come the next held access goes
out, once no earlier one and no other replay is on its way; and where none of those left holds a ticket, the hold is over.  A
fault reply, and the gateway's answer for a peer that does not, is owed to the stream with the fabric address and the peer, or
reaches the call's tag.  An access that is held, or has had its answer, takes no reply; a fault reply reaches a held one too.
The model's choice, log entry 72: held accesses go out again one at a time, and an entry is free when no access shares it. -/
def Claims.RemoteAnswers : Prop := ∀ (s : State) (c : CoreId) (e : Eng) (id : Nat) (bk : Bool) (r : RemAcc) (data : List Byte)
    (code : BitVec 16) (addr pc word : Word),
  s.HasRem c.val e id bk r →
  let st := s.bstrm c.val bk e
  let i : Instr := .remoteReply c e id data
  let f : Instr := .remoteFaultReply c e id code addr pc word
  let g : Instr := .peerUnreach c e id
  let window : Word := if code.toNat = 0x3D then (r.addr &&& ~~~0xFFF).setWidth 64 ||| (addr.extractLsb' 0 12).setWidth 64
    else r.addr.setWidth 64
  let x := (s.core c.val).ticket r.entry
  let left := st.rems.filter fun y => y.id ≠ id
  let here := left.filter fun y => y.entry = r.entry
  let after := fun (u : State) => (u.bstrm c.val bk e).rems.map (·.id) = left.map (·.id) ∧
    (here = [] → (u.core c.val).ticket r.entry = {}) ∧
    (here ≠ [] → x.v = true → x.notice = false → (∀ y ∈ here, y.held = true → y.ticketed = false) →
      (u.core c.val).ticket r.entry = { x with v := false, notice := false } ∧
      ∀ y ∈ (u.bstrm c.val bk e).rems, y.entry = r.entry → y.held = false) ∧
    (x.v = true → x.notice = true → ∀ y, here.find? (fun y => y.held) = some y →
      (∀ z ∈ here, z.held = true ∨ (z.replayed = false ∧ y.id ≤ z.id)) →
      ∃ z ∈ (u.bstrm c.val bk e).rems, z.id = y.id ∧ z.held = false ∧ z.replayed = true)
  let owed := fun (y : RemAcc) (n cls : Nat) (w : Word) =>
    ({ seq := y.seq, code := n, cls := cls, since := s.coreCycles c.val,
       words := [y.pc, w, (y.words.extractLsb' 0 32).setWidth 64, (y.words.extractLsb' 32 32).setWidth 64,
         (y.addr.extractLsb' 45 12).setWidth 64] } : Owed)
  let writes := fun (d : GReg) (v : Word) => ∃ u : State, Leaves i s u ∧ after u ∧ s.SameReads u ∧
    ∀ k, (u.bstrm c.val bk e).rg k = if k = d ∧ k ≠ 0 then v else st.rg k
  let owes := fun (i : Instr) (n : Nat) (w : Word) => ∃ u : State, Leaves i s u ∧ after u ∧
    (u.bstrm c.val bk e).g = st.g ∧ (u.bstrm c.val bk e).owed = st.owed ++ [owed r n 1 w]
  let joins := fun (i : Instr) (d : List Byte) (bad : Option (Nat × Nat × Word)) =>
    let all := (st.rems.filter fun y => y.seq = r.seq).map fun y => if y.id = id then { y with got := some d, bad := bad } else y
    let vs := fun (u : State) => ((u.core c.val).get bk).v
    ((∃ y ∈ all, y.got = none) → ∃ u : State, Leaves i s u ∧ s.SameReads u ∧ vs u = vs s ∧ (u.bstrm c.val bk e).g = st.g ∧
      (u.bstrm c.val bk e).owed = st.owed ∧ (u.bstrm c.val bk e).rems.map (·.id) = st.rems.map (·.id) ∧
      ∃ y ∈ (u.bstrm c.val bk e).rems, y.id = id ∧ y.got = some d ∧ y.bad = bad) ∧
    ((∀ y ∈ all, y.got ≠ none) → ∃ u : State, Leaves i s u ∧ s.SameReads u ∧
      (u.bstrm c.val bk e).rems.map (·.id) = (st.rems.filter fun y => y.seq ≠ r.seq).map (·.id) ∧
      (∀ y n cls w, all.findSome? (fun y => y.bad.map fun b => (y, b)) = some (y, n, cls, w) →
        vs u = vs s ∧ (u.bstrm c.val bk e).g = st.g ∧ (u.bstrm c.val bk e).owed = st.owed ++ [owed y n cls w]) ∧
      ((∀ y ∈ all, y.bad = none) → (u.bstrm c.val bk e).owed = st.owed ∧
        vs u = all.foldl (fun t y =>
          match y.dest with
          | .vec v fmt act lo => tset t v.toNat (vecReply (tget 0 t v.toNat) fmt act lo (y.got.getD []))
          | _ => t) (vs s)))
  (r.held = true ∨ r.got ≠ none → Leaves i s s ∧ Leaves g s s) ∧
  (r.got ≠ none → Leaves f s s) ∧
  (r.held = false → r.got = none →
    (∀ d sz, r.dest = .greg d sz ∨ r.dest = .acq d sz → writes d (extendLoad sz data)) ∧
    (∀ d ty, r.dest = .old d ty → writes d (amoOld ty data)) ∧
    (State.inParts r.dest = true → joins i data none) ∧
    (∀ tag gen, r.dest = .call tag gen → (st.call tag).st = .flight → (st.call tag).gen = gen →
      s.cyc < (st.call tag).issued + 12000000 →
      ∃ u : State, Leaves i s u ∧ after u ∧
        ((u.bstrm c.val bk e).call tag) = { st.call tag with st := .ready (replyWords 4 data) }) ∧
    (∀ slot ack, r.dest = .unit slot ack → ack = false → (((s.core c.val).get bk).copy slot).busy = true →
      ∃ u : State, Leaves i s u ∧ after u ∧
        ((u.core c.val).get bk).copy slot = { ((s.core c.val).get bk).copy slot with data := data, remote := false })) ∧
  (∀ tag gen entry ws perm, r.got = none → r.op = .call entry ws false perm → r.dest = .call tag gen → (st.call tag).st = .flight →
    (st.call tag).gen = gen → s.cyc < (st.call tag).issued + 12000000 →
    ∃ u : State, Leaves f s u ∧ after u ∧ (u.bstrm c.val bk e).owed = st.owed ∧
      (u.bstrm c.val bk e).call tag = { st.call tag with st := .fault code.toNat addr pc word }) ∧
  ((∃ d sz, r.dest = .greg d sz ∨ r.dest = .acq d sz) ∨ (∃ d ty, r.dest = .old d ty) →
    (∀ entry ws nr perm, r.op ≠ .call entry ws nr perm) → r.got = none →
    owes f code.toNat window ∧ (r.held = false → owes g 0x6A (r.addr.setWidth 64))) ∧
  (State.inParts r.dest = true → (∀ entry ws nr perm, r.op ≠ .call entry ws nr perm) → r.got = none →
    joins f [] (some (code.toNat, 1, window)) ∧ (r.held = false → joins g [] (some (0x6A, 1, r.addr.setWidth 64))))

/-- R410, R438, R440, R451: a ticket holds its access and makes its table entry valid from the first ticket on; a replay notice
lets the first held access behind every entry of its page go out again, unless one that went out, or an earlier one, has still
to be answered; an entry with no notice after 10,000,000 ticks ends its first held access with TICKET_EXPIRED and lets the
others go.  A ticket that comes while the notice stands, for an access that was on its way before, keeps it.  The model's
choice, log entry 72: the replay of held accesses one at a time. -/
def Claims.TicketsHold : Prop := ∀ (s : State) (c : CoreId),
  let ticket := fun (s : State) (n : Nat) => (s.core c.val).ticket n
  let next := fun (n : Nat) (rems : List RemAcc) => (rems.filter fun y => y.entry = n).find? fun y => y.held
  let goes := fun (n : Nat) (rems : List RemAcc) (y : RemAcc) => next n rems = some y ∧
    ∀ z ∈ rems, z.entry = n → z.held = true ∨ (z.replayed = false ∧ y.id ≤ z.id)
  let sent := fun (y : RemAcc) => { y with held := false, ticketed := false, replayed := true }
  (∀ e id bk r, s.HasRem c.val e id bk r →
    let t := ticket s r.entry
    let notice := t.v && t.notice && !r.replayed
    let rems := (s.bstrm c.val bk e).rems.map fun y =>
      if y.id = id then { y with held := true, ticketed := true, replayed := false } else y
    (r.held = true ∨ r.got ≠ none → Leaves (.faultTicket c e id) s s) ∧
    (r.held = false → r.got = none → ∃ u : State, Leaves (.faultTicket c e id) s u ∧ s.SameReads u ∧
      ticket u r.entry = { t with v := true, reserved := true, notice := notice, first := if t.v then t.first else s.cyc } ∧
      (notice = false ∨ (∀ y, ¬goes r.entry rems y) → (u.bstrm c.val bk e).rems = rems) ∧
      ∀ y, notice = true → goes r.entry rems y →
        (u.bstrm c.val bk e).rems = rems.map fun z => if z.id = y.id then sent z else z)) ∧
  (∀ peer page, (∀ bk e, ((s.bstrm c.val bk e).rems.map (·.id)).Nodup) →
    let hits := (List.range 32).filter fun n => (ticket s n).v && (ticket s n).peer = peer && (ticket s n).page = page
    let rems := fun (u : State) (n : Nat) => (u.bstrm c.val (ticket s n).bankB (ticket s n).eng).rems
    let own := s.mgmt.peerid.extractLsb' 0 12
    let out := fun (n : Nat) (y : RemAcc) =>
      Out.request (y.addr.extractLsb' 45 12) y.id (strmNo c.val (ticket s n).bankB (ticket s n).eng) y.path y.addr y.op
    ∃ u : State, Leaves (.replayNotice c peer page) s u ∧ s.SameReads u ∧
      (∀ n ∈ hits, ticket u n = { ticket s n with notice := true }) ∧
      (∀ n ∈ hits, ∀ y, goes n (rems s n) y → sent y ∈ rems u n ∧
        (s.mgmt.peerid.getLsbD 12 = true →
          (y.addr.extractLsb' 45 12 ≠ own → out n y ∈ u.outs) ∧ (y.addr.extractLsb' 45 12 = own → out n y ∈ u.loops))) ∧
      (∀ x ∈ u.outs, x ∈ s.outs ∨ ∃ n ∈ hits, ∃ y, goes n (rems s n) y ∧ x = out n y) ∧
      (∀ x ∈ u.loops, x ∈ s.loops ∨ ∃ n ∈ hits, ∃ y, goes n (rems s n) y ∧ x = out n y)) ∧
  (∀ entry : BitVec 5,
    let n := entry.toNat
    let t := ticket s n
    let st := s.bstrm c.val t.bankB t.eng
    (t.v = false ∨ t.notice = true ∨ s.cyc < t.first + 10000000 → Leaves (.ticketExpired c entry) s s) ∧
    (∀ r, t.v = true → t.notice = false → t.first + 10000000 ≤ s.cyc → (st.rems.map (·.id)).Nodup →
      st.rems.find? (fun y => y.entry = n && y.held) = some r → (∀ k a, r.dest ≠ .unit k a) →
      (∀ en ws perm, r.op ≠ .call en ws true perm) →
      (State.inParts r.dest = true → ∀ y ∈ st.rems, y.seq = r.seq → y.id ≠ r.id → y.got ≠ none ∧ y.bad = none) →
      ∃ u : State, Leaves (.ticketExpired c entry) s u ∧
        (∀ y ∈ (u.bstrm c.val t.bankB t.eng).rems, y.id ≠ r.id ∧ (y.entry = n → y.held = false)) ∧
        (u.bstrm c.val t.bankB t.eng).owed = st.owed ++
          [{ seq := r.seq, code := 0x60, cls := 3
             words := [r.pc, (r.addr.extractLsb' 0 45).setWidth 64, (r.words.extractLsb' 0 32).setWidth 64,
               (r.words.extractLsb' 32 32).setWidth 64, (r.addr.extractLsb' 45 12).setWidth 64]
             since := s.coreCycles c.val }]))

/-- R410, R436, R437, R438, R442: Answers of remote accesses and the ticket table. It says of each of these that exec
answers a next state, on conditions on the state and the operands alone: `remoteReply`, `remoteFaultReply`,
`peerUnreach`, `faultTicket`, `replayNotice`, `ticketExpired`. -/
def Obligations.RemoteAnswers : Prop := Claims.RemoteAnswers ∧ Claims.TicketsHold

/-- R245, R246, R247, R264: a doorbell write sets the tail, and one beyond the capacity of a queue that is served is QUEUE_BAD at
once; the device fetches the entry at the head of an enabled queue that
is not empty, and takes it for a graph to start where its fields are legal; more entries than the queue has, or one that
cannot be read, is QUEUE_BAD, which stops the queue; and the oldest fetched entry's graph starts, after the one that it is
ordered behind, with every node's count of predecessors.  The model's choice, log entry 61: where an entry is rejected, and with
what word.  The model's choice, log entry 20: the device reads what it reads at its own event.  A read that meets an uncorrectable
error is logged (R283). -/
def Claims.QueuesServed : Prop := ∀ (s : State) (c : CtxId) (q : BitVec 4) (tail : BitVec 32),
  let x := s.sq c q
  let up := (s.ctx c).reset = none ∧ s.mgmt.ready = true
  let serves := up ∧ s.mgmt.hold = false
  let n := (x.tail - x.head).toNat
  let at0 := x.base + BitVec.ofNat 64 (32 * (x.head.toNat % 2 ^ x.log2n.toNat))
  let v := s.ctxNote c at0 32
  let beyond := serves ∧ x.en = true ∧ 2 ^ x.log2n.toNat < (tail - x.head).toNat
  (up → ¬beyond → ∃ u : State, Leaves (.doorbellWrite c q tail) s u ∧ u.sq c q = { x with tail := tail } ∧ s.SameReads u) ∧
  (up → beyond → ∃ u : State, Leaves (.doorbellWrite c q tail) s u ∧ u.sq c q = { x with tail := tail, err := true, en := false }) ∧
  (¬up → Leaves (.doorbellWrite c q tail) s s) ∧
  (¬serves ∨ x.en = false ∨ x.head = x.tail → Leaves (.submissionFetch c q) s s) ∧
  (serves → x.en = true → x.head ≠ x.tail → n ≤ 2 ^ x.log2n.toNat → ∀ b, s.ctxLoad c at0 32 = some b → (parseSub b).2 = true →
    ∃ u : State, Leaves (.submissionFetch c q) s u ∧ u.sq c q = { x with head := x.head + 1 } ∧
      u.subs c q = s.subs c q ++ [(parseSub b).1] ∧ s.SameReads u) ∧
  (serves → x.en = true → x.head ≠ x.tail → 2 ^ x.log2n.toNat < n ∨ s.ctxLoad c at0 32 = none →
    let u := (if 2 ^ x.log2n.toNat < n then s else v).queueBad c q
    Leaves (.submissionFetch c q) s u ∧ (u.sq c q).err = true ∧ (u.sq c q).en = false) ∧
  (∀ e es ns, s.subs c q = e :: es → serves → (e.ser = true → s.graph (tget 0 (s.ctx c).lastGraph q.toNat) = none) →
    s.readGraph c e.graph = .ok ns → (∀ g ∈ s.graphs, g.id < s.nextId) →
    let g : Graph :=
      { id := s.nextId, ctx := c, sq := q, sub := e, nodes := ns
        pending := (ns.zipIdx.filter fun x => x.1.npred ≠ 0).map fun x => (x.2, x.1.npred) }
    (∃ m, m < ns.length ∧ g.ready m = true) →
    ∃ u : State, Leaves (.graphStart c q) s u ∧ u.subs c q = es ∧ s.SameReads u ∧
      u.graphs = s.graphs ++ [{ g with readyNo := (((List.range ns.length).filter g.ready).map fun m => (m, s.nextId + 1)) }]) ∧
  (∀ e es, s.subs c q = e :: es → ¬serves ∨ (e.ser = true ∧ (s.graph (tget 0 (s.ctx c).lastGraph q.toNat)).isSome = true) →
    Leaves (.graphStart c q) s s)

/-- R249, R250, R251, R252: a ready node does what its type says.  A walk node's walk becomes a candidate, or waits for the
pool; a copy node starts its copy, which goes unit by unit and completes with the last; a condition node releases its first
successor where the condition holds and its second where it does not; a switch node the successor that its word counts, the
last at most; an event node writes its constant and raises its interrupt; a loop node runs its body again while its condition
holds and is done when it does not.  The model's choice, log entry 62: one unit of a copy node to an event.  The model's choice,
log entry 32: which nodes are a loop's body, and that their counts start anew.  The model's choice, log entry 20: the device
reads what it reads at its own event. -/
def Claims.NodesRun : Prop := ∀ (s : State) (gid n : Nat) (g : Graph) (x : Node),
  (s.NodeReady gid n 0 g x → (∀ c ∈ s.cands, c.node ≠ some (gid, n)) → ∀ b w, s.ctxLoad g.ctx x.word 64 = some b →
    parseWalk b = some w →
    let placed := fun (p : Place) => s.cands ++
      [{ id := s.nextId, ctx := g.ctx, sq := g.sq, walk := w, place := p, node := some (gid, n), entry := s.nextId
         eff := w.prio, ready := s.cyc, since := s.cyc }]
    (s.poolOpen gid n = true → ∃ u : State, Leaves (.graphNodeWalk gid n) s u ∧ u.cands = placed .pool ∧
      u.graphs = s.graphs.map fun y => if y.id = gid then y.mark n .running else y) ∧
    (s.poolOpen gid n = false → ∃ u : State, Leaves (.graphNodeWalk gid n) s u ∧ u.cands = placed .node ∧ u.graphs = s.graphs)) ∧
  (s.NodeReady gid n 1 g x → g.nodeSt n ≠ .running → ∀ b, s.ctxLoad g.ctx x.word 24 = some b → recNat b 16 8 % 64 = 0 →
    ∃ u : State, Leaves (.graphNodeCopy gid n) s u ∧ s.SameReads u ∧
      u.graphs = s.graphs.map fun y => if y.id = gid then { y.mark n .running with
        copies := tset y.copies n { src := BitVec.ofNat 64 (recNat b 0 8), dst := BitVec.ofNat 64 (recNat b 8 8)
                                    units := recNat b 16 8 / 64 } } else y) ∧
  (∀ y bs, s.graph gid = some g → g.nodeSt n = .running → g.copies.find? (fun z => z.1 = n) = some (n, y) → y.done + 1 < y.units →
    s.ctxLoad g.ctx (y.src + BitVec.ofNat 64 (64 * y.done)) 64 = some bs →
    ∀ v, (s.copyNote g.ctx y).ctxWrite g.ctx (y.dst + BitVec.ofNat 64 (64 * y.done)) bs = some v →
      Leaves (.graphNodeCopy gid n) s
        (v.modGraph gid fun z => { z with copies := tset z.copies n { y with done := y.done + 1 } })) ∧
  (∀ y bs v, s.graph gid = some g → g.copies.find? (fun z => z.1 = n) = some (n, y) → y.units = y.done + 1 →
    s.ctxLoad g.ctx (y.src + BitVec.ofNat 64 (64 * y.done)) 64 = some bs →
    (s.copyNote g.ctx y).ctxWrite g.ctx (y.dst + BitVec.ofNat 64 (64 * y.done)) bs = some v →
      Leaves (.copyNodeComplete gid n) s ((v.dropCopy gid n).nodeDone gid n (v.nodeSuccs gid n))) ∧
  (∀ w, s.ctxLoadNat g.ctx x.word 8 = some w →
    let word := BitVec.ofNat 64 w
    let holds := condHolds x.cc word x.const
    let v := s.ctxNote g.ctx x.word 8
    (s.NodeReady gid n 2 g x →
      Leaves (.graphNodeCondition gid n) s (v.nodeDone gid n [x.succ.getD (if holds then 0 else 1) 0])) ∧
    (s.NodeReady gid n 4 g x → w < 2 ^ 64 →
      Leaves (.graphNodeSwitch gid n) s (v.nodeDone gid n [x.succ.getD (min w (x.succ.length - 1)) 0])) ∧
    (s.NodeReady gid n 3 g x → holds = true →
      Leaves (.graphNodeLoop gid n) s ((v.modGraph gid fun h => h.iterate n x).numberReady gid)) ∧
    (s.NodeReady gid n 3 g x → holds = false → Leaves (.graphNodeLoop gid n) s (v.nodeDone gid n (x.succ.drop 2)))) ∧
  (∀ v, s.NodeReady gid n 5 g x → s.publish.ctxWrite g.ctx x.word (natBytes 8 x.const.toNat) = some v →
    Leaves (.graphNodeEvent gid n) s ((if x.int then v.raise g.ctx 16 else v).nodeDone gid n x.succ)) ∧
  (∀ h : Graph, (h.mark n .ran).nodeSt n = .ran ∧ ∀ m, m ≠ n → (h.mark n .ran).nodeSt m = h.nodeSt m) ∧
  (∀ (h : Graph) (ms : List Nat) m, (h.release ms).pend m = h.pend m - ms.count m)

/-- R245, R246, R247, R249, R250, R251, R252, R264: Submission queues are served and graph nodes run. It says of each
of these that exec answers a next state, on conditions on the state and the operands alone: `doorbellWrite`,
`submissionFetch`, `graphStart`, `graphNodeWalk`, `graphNodeCopy`, `copyNodeComplete`, `graphNodeCondition`,
`graphNodeSwitch`, `graphNodeEvent`, `graphNodeLoop`. -/
def Obligations.QueuesAndGraphs : Prop := Claims.QueuesServed ∧ Claims.NodesRun

/-- R256, R257, R258, R259: a record that waits takes a pool entry, spilled children first; a decision chooses, among the
eligible candidates, one of the highest effective priority that became ready first, moves the pointer of that priority past its
context and starts its gang, all jobs in one step, on the lowest-numbered free cores of the cluster with the most headroom; the
energy budget is updated every 1,000 ticks, by what the module's counter gained between the last two multiples of
1,000 ticks; and a headroom reading is kept.  The model's choice, log entry 63: which of equal candidates the pointer takes.  The
model's choice, log entry 64: what a job finds cleared as it starts.  The model's choice, log entry 65: a late update of the
budget accounts for all of the energy since the last. -/
def Claims.SchedulerDecides : Prop := ∀ (s : State),
  (∀ c, s.nextEntry = some c → Leaves .poolAllocation s (s.enterPool c) ∧
    (c ∈ s.cands ∧ (c.place = .spilled ∨ (c.place = .node ∧ ∀ y ∈ s.cands, y.place = .spilled → s.canEnter y = false))) ∧
    (s.enterPool c).cands = s.cands.map fun y => if y.id = c.id then
      { y with place := .pool, entry := s.nextId, eff := y.walk.prio, age := 0, ready := s.cyc, since := s.cyc, waited := 0 } else y) ∧
  (s.nextEntry = none → Leaves .poolAllocation s s) ∧
  (s.chosen = none → Leaves .placementDecision s s ∧ ∀ y ∈ s.cands, s.eligible y = false) ∧
  (∀ c, s.chosen = some c →
    (c ∈ s.cands ∧ s.eligible c = true ∧ ∀ y ∈ s.cands, s.eligible y = true → y.eff < c.eff ∨ (y.eff = c.eff ∧ c.ready ≤ y.ready)) ∧
    ∃ n, s.bestCluster c = some n ∧ n ∈ s.placeOn c ∧
      (∀ m ∈ s.placeOn c, (tget 0 s.mgmt.headroom m).toNat < (tget 0 s.mgmt.headroom n).toNat ∨
        ((tget 0 s.mgmt.headroom m).toNat = (tget 0 s.mgmt.headroom n).toNat ∧ n ≤ m)) ∧
      ∀ kit, (match c.kit with
          | some k => some k
          | none => s.readKit c.ctx c.walk.kit) = some kit →
        Leaves .placementDecision s
          (let v := { s with ptr := tset s.ptr c.eff ((c.ctx.val + 1) % 385) }
           (s.cands.filter fun v => v.id ≠ c.id && s.placeable v && !s.eligible v).foldl (fun t v => t.modCand v.id State.aged)
            ((if c.kit.isSome then v else v.kitNote c.ctx c.walk.kit).startGang c kit n))) ∧
  (∀ c kit n q, State.candSeq c = some q → (∀ x ∈ s.slots, x.cand ≠ c.id) → ∀ e, kit.streams[0]? = some (some e) →
    let t := s.startGang c kit n
    let cores := (s.freeCores c.walk.gang kit.part n).take c.walk.gang
    t.gangs = s.gangs ++ [{ id := s.nextId, cand := c.id, seq := q, ctx := c.ctx, cluster := n, cores := cores, eff := c.eff
                            started := s.cyc }]) ∧
  (s.mgmt.ready = true → s.mgmt.ebTick + 1000 ≤ s.cyc →
    let now := s.enMark
    let max_ : Int := s.mgmt.ebmax.toNat
    let spent : Int := (now - s.mgmt.ebLast).toNat
    Leaves .energyBudgetUpdate s { s with mgmt := { s.mgmt with
      ebbal := max (min (s.mgmt.ebbal + (s.ebenv s.mgmt.opCur).toNat) max_ - spent) (-max_)
      ebLast := now, ebTick := s.mgmt.ebTick + 1000 } }) ∧
  (s.mgmt.ready = false ∨ s.cyc < s.mgmt.ebTick + 1000 → Leaves .energyBudgetUpdate s s) ∧
  (∀ k h, Leaves (.headroomReading k h) s { s with mgmt := { s.mgmt with headroom := tset s.mgmt.headroom k.val h } })

/-- R260, R408, R416, R417, R421: the scheduler requests the pre-emption of a gang of a priority lower by 4 for a candidate that
has waited for cores for 1,000,000 ticks, one at a time; a gang under a request is discarded where it has no sealed region and
no sealing request on its way, and runs again from its records; the request is withdrawn after 10,000,000 ticks; a bank that
has been READY for 1,000,000 ticks requests the other's; and a fault record that could not be posted is offered again after
1,000,000 ticks.  Where a job of a gang has failed, the others are discarded, in sealed regions or not, once no copy of the gang
has still to land and every XE stream of it has ended or waits for the failed job (R394, R405): that moment is the model's
choice, log entry 90. -/
def Claims.PreemptionRuns : Prop := ∀ (s : State),
  ((∃ g ∈ s.gangs, g.longWait = true ∧ g.preempt.isSome = true) → Leaves .preemptionRequest s s) ∧
  ((∀ g ∈ s.gangs, g.longWait = false ∨ g.preempt = none) → (s.gangs.map (·.id)).Nodup → ∀ g, s.victim = some g →
    (g ∈ s.gangs ∧ g.failing = false ∧ ∃ c ∈ s.cands, s.waitsForCores c = true ∧ 1000000 < c.waited ∧ g.eff + 4 ≤ c.eff) ∧
    Leaves .preemptionRequest s { s with gangs := s.gangs.map fun y =>
      if y.id = g.id then { y with preempt := some (y.preempt.getD s.cyc), longWait := true } else y }) ∧
  (∀ gid g, s.gang gid = some g →
    (g.failing = false → g.preempt.isSome = true → s.gangSealed g = false → s.sealingDone g = true →
      Leaves (.gangDiscard gid) s (s.discardGang g)) ∧
    (g.failing = false → g.preempt = none ∨ s.gangSealed g = true ∨ s.sealingDone g = false → Leaves (.gangDiscard gid) s s) ∧
    (g.failing = true → s.gangQuiet g = true → Leaves (.gangDiscard gid) s ((s.discardBanks g).gangOver g)) ∧
    (g.failing = true → s.gangQuiet g = false → Leaves (.gangDiscard gid) s s) ∧
    (∀ t, g.preempt = some t → g.noWithdraw = false → t + 10000000 ≤ s.cyc →
      Leaves (.preemptionWithdrawn gid) s { s with gangs := s.gangs.map fun y =>
        if y.id = gid then { y with preempt := none, longWait := false } else y }) ∧
    (∀ t, g.preempt = some t → g.noWithdraw = true ∨ s.cyc < t + 10000000 → Leaves (.preemptionWithdrawn gid) s s)) ∧
  (∀ c : CoreId, let k := s.core c.val
    (k.a.st = .ready → k.b.st = .run → k.a.readySince + 1000000 ≤ s.cyc →
      Leaves (.bankReadyTimeout c) s (s.requestPreempt k.b.job.gang)) ∧
    (k.b.st = .ready → k.a.st = .run → k.b.readySince + 1000000 ≤ s.cyc →
      Leaves (.bankReadyTimeout c) s (s.requestPreempt k.a.job.gang)) ∧
    (k.a.st ≠ .ready → k.b.st ≠ .ready → Leaves (.bankReadyTimeout c) s s)) ∧
  (∀ (c : CoreId) bk p, ((s.core c.val).get bk).pf = some p → ((s.core c.val).get bk).st = .wait → p.posted = false →
    p.draining = false → p.offered + 1000000 ≤ s.cyc →
    ∃ u : State, Leaves (.pageFaultRecordReoffer c bk) s u ∧
      ((u.core c.val).get bk).pf = some { p with
        posted := (s.post ((s.core c.val).get bk).job.ctx (State.pfRecord c.val ((s.core c.val).get bk) p)).1, offered := s.cyc
        seq := (s.ctx ((s.core c.val).get bk).job.ctx).fqtail.extractLsb' 0 16 })

/-- R256, R257, R258, R259, R260, R408, R416, R417, R421: Placement decisions, the energy budget and pre-emption. It
says of each of these that exec answers a next state, on conditions on the state and the operands alone:
`poolAllocation`, `placementDecision`, `energyBudgetUpdate`, `headroomReading`, `preemptionRequest`, `gangDiscard`,
`preemptionWithdrawn`, `bankReadyTimeout`, `pageFaultRecordReoffer`. -/
def Obligations.SchedulingAndPreemption : Prop := Claims.SchedulerDecides ∧ Claims.PreemptionRuns

/-- R22, R425, R426, R427, R458, R464, R465: a function-level reset clears its context, and the physical function's every context; it
is done when no call and no invalidation of its own is left.  A module reset clears every register, outpost and context and
the memory outside core scratch, but not an operating-point command that is held; it admits the firmware or enters recovery,
and is done when it has admitted it.  A loss of power
leaves what flash and the logs hold.  The model's choice, log entry 66: what a reset of each kind, and a loss of power, leaves as
it is.  The model's choice, log entry 70: which fields of the firmware the admission looks at. -/
def Claims.ResetsClear : Prop := ∀ (s : State),
  (∀ c : CtxId, s.mgmt.ready = true →
    ∃ u : State, Leaves (.functionLevelReset c) s u ∧ (∀ x, x = c ∨ c = 0 → u.ctx x = { reset := some s.cyc }) ∧
      (∀ g ∈ u.gangs, g.ctx ≠ c) ∧ (∀ y ∈ u.cands, y.ctx ≠ c) ∧ (∀ g ∈ u.graphs, g.ctx ≠ c) ∧ (∀ y ∈ u.slots, y.ctx ≠ c) ∧
      (∀ t ∈ u.tickets, t.ctx ≠ c)) ∧
  (∀ c : CtxId, s.mgmt.ready = false → Leaves (.functionLevelReset c) s s) ∧
  (∀ c : CtxId, (s.ctx c).reset ≠ none → c = 0 ∨ (s.ctx 0).reset = none → (∀ x, x = c ∨ c = 0 → s.fnQuiet x = true) →
    ∃ u : State, Leaves (.functionLevelResetDone c) s u ∧ (∀ x, x = c ∨ c = 0 → u.ctx x = {}) ∧ s.SameReads u) ∧
  (∀ c : CtxId, s.fnQuiet c = false ∨ (s.ctx c).reset = none → Leaves (.functionLevelResetDone c) s s) ∧
  (∀ i ∈ [Instr.moduleReset, .resetModule, .devctlMrst], (i = .devctlMrst → s.mgmt.recovery = false) →
    ∃ u : State, Leaves i s u ∧ u.mgmt.ready = false ∧ u.ctxs = [] ∧ u.outposts = [] ∧ u.kits = [] ∧ u.gangs = [] ∧ u.cands = [] ∧
      u.graphs = [] ∧ u.dir = [] ∧ u.mgmt.health = {} ∧ u.mgmt.energy = [] ∧ u.mgmt.logs = s.mgmt.logs ∧ u.cyc = s.cyc ∧
      (∀ c bk, (u.core c).get bk = {}) ∧ (∀ c, (u.core c).acc = (s.core c).acc) ∧
      (∀ a, inWindow a = false → u.mem.read a = 0) ∧ (∀ a, inWindow a = true → u.mem.read a = (s.stepWrites fun _ => true).publish.mem.read a) ∧
      u.mgmt.opHeld = s.mgmt.opHeld ∧
      (let f := s.mgmt.fw
       let admitted := f.good = true ∧ f.writing = false ∧ f.minSvn.toNat ≤ f.svn.toNat
       (u.mgmt.recovery = true ↔ ¬admitted) ∧ (admitted → u.mgmt.fw.admDigest = f.digest ∧ u.mgmt.fw.admSvn = f.svn))) ∧
  (s.mgmt.resetAt ≠ none → s.mgmt.ready = false → s.mgmt.recovery = false →
    ∃ u : State, Leaves .moduleResetDone s u ∧ u.mgmt.ready = true ∧ u.mgmt.resetAt = none ∧ u.ctxs = s.ctxs ∧ s.SameReads u) ∧
  (s.mgmt.recovery = true → Leaves .moduleResetDone s s) ∧
  (∃ u : State, Leaves .powerLoss s u ∧ u.cores = [] ∧ u.mem = [] ∧ u.ctxs = [] ∧ u.mgmt.logs = s.mgmt.logs ∧
    u.mgmt.fw.digest = s.mgmt.fw.digest ∧ u.mgmt.fw.svn = s.mgmt.fw.svn)

/-- R16, R20, R21, R281, R282, R428, R429, R459, R460: what befalls the module: the host link drops, which holds the control
plane and requests every gang's pre-emption, and returns; a gang that is not over 10,000,000 ticks later is discarded, or fails
where it is sealed; a die trips and recovers; the operating point changes; a core is fenced in a new version of the health
word; an error found by refresh is logged, and in a core's scratch it fences the core; a memory channel that has been idle for its
bound of ticks enters a power state; and the time base locks.  A trip begins where a sensor of the die shows 105 °C or more, and
ends where every one has shown less than 95 °C for 1,000,000 ticks.  The model's choice, log entry 31: the numbers of the
channels, and that one entry into a power state is an event.  The model's choice, log entry 68: which kind an entry has in a
log.  The model's choice, log entry 90: the other jobs of a gang that fails here are discarded with it. -/
def Claims.ModuleEvents : Prop := ∀ (s : State),
  (s.mgmt.linkUp = true → s.mgmt.ready = true →
    ∃ u : State, Leaves .hostLinkLoss s u ∧ u.mgmt.linkUp = false ∧ u.mgmt.hold = true ∧ u.mgmt.lossAt = s.cyc ∧
      u.outs = s.outs ++ [.hostLoss] ∧ s.SameReads u ∧
      u.gangs = s.gangs.map fun g =>
        if g.failing then g else { g with preempt := some (g.preempt.getD s.cyc), noWithdraw := true }) ∧
  (s.mgmt.linkUp = false → Leaves .hostLinkLoss s s) ∧
  Leaves .hostLinkReturn s { s with mgmt := { s.mgmt with linkUp := true } } ∧
  (∀ gid g, s.gang gid = some g → s.mgmt.hold = true → s.mgmt.lossAt + 10000000 ≤ s.cyc →
    ((∀ x ∈ s.gangBanks g, ((s.core x.1).get x.2).sealedAny = false) → Leaves (.hostLossDiscardTimeout gid) s (s.discardGang g)) ∧
    (∀ x, (s.gangBanks g).find? (fun x => ((s.core x.1).get x.2).sealedAny) = some x →
      Leaves (.hostLossDiscardTimeout gid) s
        ((s.jobFail x.1 x.2 { code := 0x64, cls := 4, src := srcField x.1 7 }).failOver gid))) ∧
  (∀ gid g, s.gang gid = some g → s.mgmt.hold = false ∨ s.cyc < s.mgmt.lossAt + 10000000 →
    Leaves (.hostLossDiscardTimeout gid) s s) ∧
  (∀ die : BitVec 2,
    let sensors := State.dieSensors die.toNat
    let hot := ∃ n ∈ sensors, 105 ≤ tget 0 s.mgmt.temps n
    let cool := (∀ n ∈ sensors, tget 0 s.mgmt.temps n < 95) ∧ tget 0 s.mgmt.hotAt die.toNat + 1000000 ≤ s.cyc
    (hot → ∃ u : State, Leaves (.thermalTrip die) s u ∧ u.mgmt.trips = s.mgmt.trips ||| (1#4 <<< die.toNat) ∧ s.SameReads u) ∧
    (¬hot → Leaves (.thermalTrip die) s s) ∧
    (cool → ∃ u : State, Leaves (.thermalTripEnd die) s u ∧ u.mgmt.trips = s.mgmt.trips &&& ~~~(1#4 <<< die.toNat) ∧ s.SameReads u) ∧
    (¬cool → Leaves (.thermalTripEnd die) s s) ∧
    ∀ n v, n ∈ sensors → tget 0 (s.sensorTurn n v).mgmt.temps n = v ∧
      (95 ≤ v → tget 0 (s.sensorTurn n v).mgmt.hotAt die.toNat = s.cyc)) ∧
  (s.mgmt.opBusy = true →
    Leaves .operatingPointChange s { s with mgmt := { s.mgmt with opCur := s.mgmt.opReq, opBusy := false } }) ∧
  (s.mgmt.opBusy = false → Leaves .operatingPointChange s s) ∧
  (∀ h : HealthChange, ∃ u : State, Leaves (.healthWordUpdate h) s u ∧ s.SameReads u ∧
    u.mgmt.health.ver = s.mgmt.health.ver + 1 ∧ u.mgmt.health.hold = s.mgmt.hold ∧ u.mgmt.health.tbl = s.mgmt.tbl ∧
    u.mgmt.health.trip = s.mgmt.trips ∧ u.mgmt.health.op = s.mgmt.opCur ∧
    (u.mgmt.health.rr = (s.mgmt.health.rr || decide (h ≠ .publish))) ∧
    ∀ k : Nat, tget false u.mgmt.health.fenced k =
      (tget false s.mgmt.health.fenced k || match h with
        | .fence c => decide (c.val = k)
        | _ => false)) ∧
  (∀ c : CoreId, (s.core c.val).a.busy = false → (s.core c.val).b.busy = false →
    ∃ u : State, Leaves (.coreMemoryError c) s u ∧ tget false u.mgmt.health.fenced c.val = true ∧ u.mgmt.health.rr = true ∧
      u.mgmt.health.ver = s.mgmt.health.ver + 1) ∧
  (∀ (addr : BitVec 45) (bad : Bool), bad = false ∨ inWindow addr.toNat = false →
    ∃ u : State, Leaves (.refreshErrorFound addr bad) s u ∧ s.SameReads u ∧
    ((tget {} s.mgmt.logs 0).entries.length < 256 →
      ∃ e, (tget {} u.mgmt.logs 0).entries = (tget {} s.mgmt.logs 0).entries ++ [e] ∧ e.addr = addr.setWidth 64 ∧
        e.severity = (if bad then 1 else 0) ∧ e.cyc = BitVec.ofNat 64 s.cyc) ∧
    (bad = true → u.eccHit addr.toNat 1 = true) ∧ (bad = false → u.eccBad = s.eccBad)) ∧
  (∀ addr : BitVec 45, inWindow addr.toNat = true → (s.core (windowCore addr.toNat)).a.busy = false →
    (s.core (windowCore addr.toNat)).b.busy = false → ∃ u : State, Leaves (.refreshErrorFound addr true) s u ∧
      tget false u.mgmt.health.fenced (windowCore addr.toNat) = true) ∧
  (∀ ch : Nat,
    let st := tget 0 s.mgmt.chans ch
    let idle := s.cyc - tget s.mgmt.chanFrom s.mgmt.chanReq ch
    let goes := fun (n : Nat) => ({ s with mgmt := { s.mgmt with chans := tset s.mgmt.chans ch n } } : State)
    (st = 0 → s.mgmt.pdidle.toNat ≤ idle → Leaves (.powerDownEntry ch) s (goes 1)) ∧
    (st ≠ 0 ∨ idle < s.mgmt.pdidle.toNat → Leaves (.powerDownEntry ch) s s) ∧
    (st < 2 → s.mgmt.sridle.toNat ≤ idle → Leaves (.selfRefreshEntry ch) s (goes 2)) ∧
    (2 ≤ st ∨ idle < s.mgmt.sridle.toNat → Leaves (.selfRefreshEntry ch) s s)) ∧
  (∀ b, Leaves (.timeBaseLock b) s { s with mgmt := { s.mgmt with tbl := b } })

/-- R16, R20, R282, R425, R426, R427, R428, R429, R458, R459, R460, R464: Resets clear; what befalls the module. It
says of each of these that exec answers a next state, on conditions on the state and the operands alone:
`functionLevelReset`, `moduleReset`, `moduleResetDone`, `devctlMrst`, `resetModule`, `functionLevelResetDone`,
`powerLoss`, `hostLinkLoss`, `hostLossDiscardTimeout`, `hostLinkReturn`, `thermalTrip`, `thermalTripEnd`,
`operatingPointChange`, `healthWordUpdate`, `coreMemoryError`, `refreshErrorFound`, `powerDownEntry`,
`selfRefreshEntry`, `timeBaseLock`. -/
def Obligations.ResetsAndEvents : Prop := Claims.ResetsClear ∧ Claims.ModuleEvents

/-- R245, R259, R406, R424, R434, R454, R456, R457, R459: the driver's writes to the registers of a context, while the module is
ready, and of the device, while it is not in recovery, leave what each register's field map says.  Each page has its place in the physical
map (R453).  The model's choice, log entry 67: the physical map takes accesses of eight bytes to a register; how the registers
are accessed, and what a read of LOGRD answers. -/
def Claims.RegisterPages : Prop := ∀ (s : State) (c : CtxId) (q : BitVec 4) (v ptr : Word),
  (s.mgmt.ready = true →
    (∃ u : State, Leaves (.sqctlWrite c q v) s u ∧ s.SameReads u ∧
      let x := s.sq c q
      let y := u.sq c q
      (v.getLsbD 9 = false → y.en = false) ∧
      (v.getLsbD 9 = true → x.en = false → x.base.toNat % 64 = 0 → y.en = true ∧ y.head = 0 ∧ y.tail = 0) ∧
      (v.getLsbD 9 = true → x.en = false → x.base.toNat % 64 ≠ 0 → y.en = false ∧ y.err = true) ∧
      (x.en = true → y.prio = x.prio ∧ y.log2n = x.log2n ∧ y.base = x.base ∧ y.head = x.head ∧ y.tail = x.tail) ∧
      (x.en = false → y.prio = v.extractLsb' 0 4 ∧ y.log2n =
        if 4 ≤ (v.extractLsb' 4 5).toNat ∧ (v.extractLsb' 4 5).toNat ≤ 16 then v.extractLsb' 4 5 else x.log2n)) ∧
    (∃ u : State, Leaves (.fqctlWrite c v) s u ∧ s.SameReads u ∧
      let x := s.ctx c
      let y := u.ctx c
      y.fqint = v.getLsbD 6 ∧ (v.getLsbD 5 = false → y.fqen = false) ∧
      (v.getLsbD 5 = true → x.fqen = false → x.fqbase.toNat % 64 = 0 → y.fqen = true ∧ y.fqtail = 0) ∧
      (v.getLsbD 5 = true → x.fqen = true → y.fqen = true ∧ y.fqtail = x.fqtail ∧ y.fqlog2n = x.fqlog2n)) ∧
    ((s.ctx c).kitPend = none →
      (∃ u : State, Leaves (.kitregRegister c ptr) s u ∧ (u.ctx c).kitstat = 1 ∧ (u.ctx c).kitPend = some ptr ∧ s.SameReads u) ∧
      (∃ u : State, Leaves (.kitregUnregister c ptr) s u ∧ s.SameReads u ∧
        u.kits = s.kits.filter (fun k => !(k.ctx = c && k.ptr = ptr)) ∧
        (u.ctx c).kitstat = if s.kits.any fun k => k.ctx = c && k.ptr = ptr then 2 else 8)) ∧
    (∀ r, (∀ y ∈ s.invals, ¬(y.ctx = c ∧ y.driver = true)) → v.getLsbD 62 = true →
      r = (match (v.extractLsb' 0 2).toNat with
        | 0 => InvMatch.all
        | 1 => .rid (v.extractLsb' 2 7)
        | m => .range (decide (m = 3)) (s.ctx c).invbase.toNat (s.ctx c).invlen.toNat) →
      ∃ u : State, Leaves (.invctlGo c v) s u ∧ s.SameReads u ∧
        u.invals = (s.invals ++ [({ id := s.nextId, ctx := c, rule := r } : Inval)]).map fun (y : Inval) =>
          if y.id = s.nextId then { y with driver := true } else y) ∧
    Leaves (.exresume c v) s { s with tickets := s.tickets.map fun t =>
      if t.ctx = c ∧ (v.extractLsb' 36 9).toNat = c.val ∧ t.page = v.extractLsb' 12 24 ∧ t.noticed = false then { t with walking := true } else t } ∧
    (∀ (core : CoreId) bk p, (s.ctx c).reset = none → (v.extractLsb' 16 9).toNat = core.val →
      s.bankWhere core.val (fun b => b.st = .wait && b.job.ctx = c && b.pf.any fun p => p.posted && p.seq = v.extractLsb' 0 16) = some bk →
      ((s.core core.val).get bk).pf = some p → Leaves (.fqresume c v) s (s.answerFault core.val bk p)) ∧
    (∃ u : State, Leaves (.registerWrite (.ctx c) 0x210 v) s u ∧ (u.ctx c).fqhead = v.extractLsb' 0 32 ∧ s.SameReads u) ∧
    (∃ u : State, Leaves (.registerWrite (.ctx c) 0x300 v) s u ∧ (u.ctx c).ttroot = v &&& 0x1FFFFFFFF000 ∧ s.SameReads u) ∧
    (∃ u : State, Leaves (.registerWrite (.ctx c) 0x328 v) s u ∧ (u.ctx c).ckcnt = v.extractLsb' 0 16 ∧ s.SameReads u)) ∧
  (∀ off : Nat, off < 0x10000 →
    s.hostLoadTurn (0x1F0000000000 + 0x10000 * c.val + off) = s.hostRead (.ctx c) off ∧
    s.hostLoadTurn (0x1F0080000000 + off) = s.hostRead .device off ∧
    (off % 8 = 0 →
      s.hostWriteTurn (0x1F0000000000 + 0x10000 * c.val + off) (natBytes 8 v.toNat) = s.writeReg (.ctx c) off v ∧
      s.hostWriteTurn (0x1F0080000000 + off) (natBytes 8 v.toNat) = s.writeReg .device off v)) ∧
  (∀ code entries, (s.ctx c).kitPend = some ptr → s.readOutpostImage c ptr = some (code, entries) →
    let others := s.kits.filter fun k => !(k.ctx = c && k.ptr = ptr)
    (s.kitHeader c ptr).any (fun h => (kitImage h 4).len ≠ 0) = true → others.length < 16 →
    ∃ u : State, Leaves (.kitRegistrationDone c) s u ∧ (u.ctx c).kitstat = 2 ∧ (u.ctx c).kitPend = none ∧ s.SameReads u ∧
      u.kits = others ++ [{ ctx := c, ptr := ptr, code := code, entries := entries, ready := true }]) ∧
  (s.mgmt.ready = false → Leaves (.sqctlWrite c q v) s s ∧ Leaves (.fqctlWrite c v) s s ∧ Leaves (.kitregRegister c ptr) s s ∧
    ∀ off, Leaves (.registerWrite (.ctx c) off v) s s) ∧
  (s.mgmt.recovery = false →
    (∃ u : State, Leaves (.fqctlRead c) s u ∧ (u.ctx c).fqovf = 0 ∧ s.SameReads u ∧ ∃ w, u.outs = s.outs ++ [.answer [w]] ∧
      w.extractLsb' 16 16 = (s.ctx c).fqovf ∧ w.extractLsb' 0 5 = (s.ctx c).fqlog2n ∧ w.getLsbD 5 = (s.ctx c).fqen) ∧
    (s.mgmt.linkUp = true → Leaves .devctlHoldclr s { s with mgmt := { s.mgmt with hold := false } }) ∧
    (s.mgmt.linkUp = false → Leaves .devctlHoldclr s s) ∧
    (∃ u : State, Leaves (.opctlWrite v) s u ∧ s.SameReads u ∧
      (s.inReset = false → u.mgmt.opReq = v.extractLsb' 0 2 ∧ u.mgmt.opBusy = decide (v.extractLsb' 0 2 ≠ s.mgmt.opCur)) ∧
      (s.inReset = true → u.mgmt.opHeld = some (v.extractLsb' 0 2) ∧ u.mgmt.opReq = s.mgmt.opReq)) ∧
    (∃ u : State, Leaves (.ebmaxWrite v) s u ∧ u.mgmt.ebmax = v.extractLsb' 0 32 ∧
      u.mgmt.ebbal = max (min s.mgmt.ebbal (v.extractLsb' 0 32).toNat) (-((v.extractLsb' 0 32).toNat : Int)) ∧ s.SameReads u) ∧
    Leaves (.logrdSelect v) s { s with mgmt := { s.mgmt with logSel := v.extractLsb' 0 2 } } ∧
    (∃ u : State, Leaves (.registerWrite .device 0 v) s u ∧ u.mgmt.peerid = v.extractLsb' 0 13 ∧ s.SameReads u) ∧
    (∃ u : State, Leaves (.registerWrite .device 0x40 v) s u ∧ u.ebenv 0 = v.extractLsb' 0 32 ∧ s.SameReads u)) ∧
  (s.mgmt.recovery = true → Leaves (.opctlWrite v) s s ∧ Leaves .devctlHoldclr s s ∧ ∀ off, Leaves (.registerWrite .device off v) s s)

/-- R19, R23, R462, R463, R464, R465: what the lantern port and the log registers answer: the oldest entry of a log, which is
drained, or zeros; the health word, which the host reads in the device block as well; the energy counters; the measurements of the admitted firmware, with their signature; what a sensor shows;
and what a firmware update leaves in flash.  Releasing the hold ends it.  An image verifies where the SHAKE256 digest of its public key
is the fused one and its signature verifies.  The model's choice, log entry 70: the fused digest, verification by FIPS 205, the
SVN of an image and the bytes of an answer's signature are free values. -/
def Claims.ManagementAnswers : Prop := ∀ (s : State),
  let answers := fun (i : Instr) (ws : List Word) => Leaves i s { s with outs := s.outs ++ [.answer ws] }
  answers .getHealth s.mgmt.health.words ∧
  (s.mgmt.recovery = false → ∀ n, n < 8 →
    s.hostRead .device (0x100 + 8 * n) = { s with outs := s.outs ++ [.answer [s.mgmt.health.words.getD n 0]] }) ∧
  answers .readEnergy ((List.range 111).map fun n => tget 0 s.mgmt.energy n) ∧
  (let ms := ((List.range 8).map fun i => s.mgmt.fw.admDigest.extractLsb' (64 * i) 64) ++ [s.mgmt.fw.admSvn.setWidth 64]
   ∃ u : State, Leaves .attestation s u ∧ s.SameReads u ∧ u.mgmt = s.mgmt ∧
    u.outs = s.outs ++ [.answer (ms ++ (List.range 6232).map (Config.spdmSignature s.freeCtr ms))]) ∧
  (∀ n, answers (.sensorRead (.cluster n)) [BitVec.ofNat 64 (tget 0 s.mgmt.temps n)]) ∧
  (∀ n, answers (.sensorRead (.die n)) [BitVec.ofNat 64 (tget 0 s.mgmt.temps (96 + n))]) ∧
  (∀ n, answers (.sensorRead (.stack n)) [BitVec.ofNat 64 (tget 0 s.mgmt.temps (102 + n))]) ∧
  answers (.sensorRead .inputPower) [BitVec.ofNat 64 (tget 0 s.mgmt.temps 114)] ∧
  (∀ n : BitVec 2,
    let l := tget {} s.mgmt.logs n.toNat
    (l.entries = [] → answers (.readLog n) [0, 0, 0, 0]) ∧
    (∀ e es, l.entries = e :: es → ∃ u : State, Leaves (.readLog n) s u ∧ s.SameReads u ∧
      tget {} u.mgmt.logs n.toNat = { entries := es, overflow := 0 } ∧ u.outs = s.outs ++ [.answer (e.words l.overflow)])) ∧
  (s.mgmt.recovery = false →
    let l := tget {} s.mgmt.logs s.mgmt.logSel.toNat
    ∀ e es, l.entries = e :: es → ∃ u : State, Leaves .logrdDrain s u ∧ s.SameReads u ∧
      tget {} u.mgmt.logs s.mgmt.logSel.toNat = { entries := es, overflow := 0 } ∧ u.mgmt.logLast = e.words l.overflow ∧
      u.outs = s.outs ++ [.answer [e.cyc]]) ∧
  Leaves .releaseHold s { s with mgmt := { s.mgmt with hold := false } } ∧
  (∀ image key signature complete, let digest := BitVec.ofNat 512 (leNat (Keccak.shake256 image 64))
    let verifies := Keccak.shake256 key 64 == Config.fusedKey && Config.slhDsaVerifies key image signature
    let svn := Config.imageSvn image
    ∃ u : State, Leaves (.firmwareUpdate image key signature complete) s u ∧ s.SameReads u ∧
    u.mgmt.fw.digest = digest ∧ u.mgmt.fw.svn = svn ∧ u.mgmt.fw.good = (complete && verifies) ∧ u.mgmt.fw.writing = !complete ∧
    u.mgmt.fw.admDigest = s.mgmt.fw.admDigest ∧
    u.outs = s.outs ++ if complete then [.answer [if verifies ∧ s.mgmt.fw.minSvn.toNat ≤ svn.toNat then 1 else 0]] else [])

/-- R411: a write to an instruction memory of a core that holds no job writes the word for every job of the core; of a busy core
it writes nothing: the host's is logged, and a stream's is a trap.  In recovery nothing is written (R464).  The model's choice,
log entry 30: a write to an idle core is one to both of its banks. -/
def Claims.InstructionMemories : Prop := ∀ (s : State) (w : ImemWriter) (c : CoreId) (e : Eng) (addr : BitVec 16) (v : W32),
  let k := s.core c.val
  let size := if e = .ce then 0x10000 else 0x8000
  let i : Instr := .instructionMemoryWrite w c e addr v
  (s.mgmt.recovery = true → Leaves i s s) ∧
  (s.mgmt.recovery = false → k.a.busy = false → k.b.busy = false → addr.toNat + 4 ≤ size →
    ∃ u : State, Leaves i s u ∧ s.SameReads u ∧ ∀ bk a, ((u.bstrm c.val bk e).imem.read a) =
      if addr.toNat ≤ a ∧ a < addr.toNat + 4 then BitVec.ofNat 8 (v.toNat / 256 ^ (a - addr.toNat))
      else ((s.bstrm c.val bk e).imem.read a)) ∧
  (s.mgmt.recovery = false → k.a.busy = true ∨ k.b.busy = true → w = .host →
    ∃ u : State, Leaves i s u ∧ u.cores = s.cores ∧ s.SameReads u) ∧
  (∀ c' e', s.mgmt.recovery = false → k.a.busy = true ∨ k.b.busy = true → w = .stream c' e' → s.mayIssue c'.val e' = true →
    Leaves i s (State.trap { s with cur := .eng c'.val e' } 0x0A (addr.setWidth 64)))

/-- R245, R259, R406, R411, R434, R454, R456, R457, R459, R462, R463, R465: Register writes, the lantern port and
instruction memories. It says of each of these that exec answers a next state, on conditions on the state and the
operands alone: `sqctlWrite`, `fqctlWrite`, `fqctlRead`, `fqresume`, `kitregRegister`, `kitregUnregister`, `invctlGo`,
`exresume`, `devctlHoldclr`, `opctlWrite`, `ebmaxWrite`, `logrdSelect`, `registerWrite`, `kitRegistrationDone`,
`logrdDrain`, `sensorRead`, `firmwareUpdate`, `attestation`, `getHealth`, `readLog`, `releaseHold`, `readEnergy`,
`instructionMemoryWrite`. -/
def Obligations.RegisterPagesAndPort : Prop := Claims.RegisterPages ∧ Claims.ManagementAnswers ∧ Claims.InstructionMemories
end

