-- ==== Sys2Proof/Laws/State.lean ====
section
/-! SUPPORT.  One lemma per field per update of the state, and how the pieces of a state are read after a write. -/

namespace Sys2Proof.Machine

/-! ### Fields that an update leaves -/

@[simp] theorem State.setCore_cyc (s : State) (n : Nat) (k : Core) : (s.setCore n k).cyc = s.cyc := rfl
@[simp] theorem State.setCore_cycles (s : State) (n : Nat) (k : Core) : (s.setCore n k).cycles = s.cycles := rfl
@[simp] theorem State.setCore_cyclesRem (s : State) (n : Nat) (k : Core) : (s.setCore n k).cyclesRem = s.cyclesRem := rfl
@[simp] theorem State.setCore_tripCycles (s : State) (n : Nat) (k : Core) : (s.setCore n k).tripCycles = s.tripCycles := rfl
@[simp] theorem State.setCore_mem (s : State) (n : Nat) (k : Core) : (s.setCore n k).mem = s.mem := rfl
@[simp] theorem State.setCore_log (s : State) (n : Nat) (k : Core) : (s.setCore n k).log = s.log := rfl
@[simp] theorem State.setCore_buf (s : State) (n : Nat) (k : Core) : (s.setCore n k).buf = s.buf := rfl
@[simp] theorem State.setCore_eccBad (s : State) (n : Nat) (k : Core) : (s.setCore n k).eccBad = s.eccBad := rfl
@[simp] theorem State.setCore_tpbs (s : State) (n : Nat) (k : Core) : (s.setCore n k).tpbs = s.tpbs := rfl
@[simp] theorem State.setCore_outposts (s : State) (n : Nat) (k : Core) : (s.setCore n k).outposts = s.outposts := rfl
@[simp] theorem State.setCore_kits (s : State) (n : Nat) (k : Core) : (s.setCore n k).kits = s.kits := rfl
@[simp] theorem State.setCore_replies (s : State) (n : Nat) (k : Core) : (s.setCore n k).replies = s.replies := rfl
@[simp] theorem State.setCore_ctxs (s : State) (n : Nat) (k : Core) : (s.setCore n k).ctxs = s.ctxs := rfl
@[simp] theorem State.setCore_dir (s : State) (n : Nat) (k : Core) : (s.setCore n k).dir = s.dir := rfl
@[simp] theorem State.setCore_invals (s : State) (n : Nat) (k : Core) : (s.setCore n k).invals = s.invals := rfl
@[simp] theorem State.setCore_temperQ (s : State) (n : Nat) (k : Core) : (s.setCore n k).temperQ = s.temperQ := rfl
@[simp] theorem State.setCore_nearQ (s : State) (n : Nat) (k : Core) : (s.setCore n k).nearQ = s.nearQ := rfl
@[simp] theorem State.setCore_graphs (s : State) (n : Nat) (k : Core) : (s.setCore n k).graphs = s.graphs := rfl
@[simp] theorem State.setCore_cands (s : State) (n : Nat) (k : Core) : (s.setCore n k).cands = s.cands := rfl
@[simp] theorem State.setCore_gangs (s : State) (n : Nat) (k : Core) : (s.setCore n k).gangs = s.gangs := rfl
@[simp] theorem State.setCore_slots (s : State) (n : Nat) (k : Core) : (s.setCore n k).slots = s.slots := rfl
@[simp] theorem State.setCore_ptr (s : State) (n : Nat) (k : Core) : (s.setCore n k).ptr = s.ptr := rfl
@[simp] theorem State.setCore_tickets (s : State) (n : Nat) (k : Core) : (s.setCore n k).tickets = s.tickets := rfl
@[simp] theorem State.setCore_acks (s : State) (n : Nat) (k : Core) : (s.setCore n k).acks = s.acks := rfl
@[simp] theorem State.setCore_loops (s : State) (n : Nat) (k : Core) : (s.setCore n k).loops = s.loops := rfl
@[simp] theorem State.setCore_outs (s : State) (n : Nat) (k : Core) : (s.setCore n k).outs = s.outs := rfl
@[simp] theorem State.setCore_mgmt (s : State) (n : Nat) (k : Core) : (s.setCore n k).mgmt = s.mgmt := rfl
@[simp] theorem State.setCore_enMark (s : State) (n : Nat) (k : Core) : (s.setCore n k).enMark = s.enMark := rfl
@[simp] theorem State.setCore_nextId (s : State) (n : Nat) (k : Core) : (s.setCore n k).nextId = s.nextId := rfl
@[simp] theorem State.setCore_freeCtr (s : State) (n : Nat) (k : Core) : (s.setCore n k).freeCtr = s.freeCtr := rfl
@[simp] theorem State.setCore_turns (s : State) (n : Nat) (k : Core) : (s.setCore n k).turns = s.turns := rfl
@[simp] theorem State.setCore_cur (s : State) (n : Nat) (k : Core) : (s.setCore n k).cur = s.cur := rfl

@[simp] theorem State.setBank_cyc (s : State) (n : Nat) (b : Bank) : (s.setBank n b).cyc = s.cyc := rfl
@[simp] theorem State.setBank_cycles (s : State) (n : Nat) (b : Bank) : (s.setBank n b).cycles = s.cycles := rfl
@[simp] theorem State.setBank_cyclesRem (s : State) (n : Nat) (b : Bank) : (s.setBank n b).cyclesRem = s.cyclesRem := rfl
@[simp] theorem State.setBank_tripCycles (s : State) (n : Nat) (b : Bank) : (s.setBank n b).tripCycles = s.tripCycles := rfl
@[simp] theorem State.setBank_mem (s : State) (n : Nat) (b : Bank) : (s.setBank n b).mem = s.mem := rfl
@[simp] theorem State.setBank_log (s : State) (n : Nat) (b : Bank) : (s.setBank n b).log = s.log := rfl
@[simp] theorem State.setBank_buf (s : State) (n : Nat) (b : Bank) : (s.setBank n b).buf = s.buf := rfl
@[simp] theorem State.setBank_eccBad (s : State) (n : Nat) (b : Bank) : (s.setBank n b).eccBad = s.eccBad := rfl
@[simp] theorem State.setBank_tpbs (s : State) (n : Nat) (b : Bank) : (s.setBank n b).tpbs = s.tpbs := rfl
@[simp] theorem State.setBank_outposts (s : State) (n : Nat) (b : Bank) : (s.setBank n b).outposts = s.outposts := rfl
@[simp] theorem State.setBank_kits (s : State) (n : Nat) (b : Bank) : (s.setBank n b).kits = s.kits := rfl
@[simp] theorem State.setBank_replies (s : State) (n : Nat) (b : Bank) : (s.setBank n b).replies = s.replies := rfl
@[simp] theorem State.setBank_ctxs (s : State) (n : Nat) (b : Bank) : (s.setBank n b).ctxs = s.ctxs := rfl
@[simp] theorem State.setBank_dir (s : State) (n : Nat) (b : Bank) : (s.setBank n b).dir = s.dir := rfl
@[simp] theorem State.setBank_invals (s : State) (n : Nat) (b : Bank) : (s.setBank n b).invals = s.invals := rfl
@[simp] theorem State.setBank_temperQ (s : State) (n : Nat) (b : Bank) : (s.setBank n b).temperQ = s.temperQ := rfl
@[simp] theorem State.setBank_nearQ (s : State) (n : Nat) (b : Bank) : (s.setBank n b).nearQ = s.nearQ := rfl
@[simp] theorem State.setBank_graphs (s : State) (n : Nat) (b : Bank) : (s.setBank n b).graphs = s.graphs := rfl
@[simp] theorem State.setBank_cands (s : State) (n : Nat) (b : Bank) : (s.setBank n b).cands = s.cands := rfl
@[simp] theorem State.setBank_gangs (s : State) (n : Nat) (b : Bank) : (s.setBank n b).gangs = s.gangs := rfl
@[simp] theorem State.setBank_slots (s : State) (n : Nat) (b : Bank) : (s.setBank n b).slots = s.slots := rfl
@[simp] theorem State.setBank_ptr (s : State) (n : Nat) (b : Bank) : (s.setBank n b).ptr = s.ptr := rfl
@[simp] theorem State.setBank_tickets (s : State) (n : Nat) (b : Bank) : (s.setBank n b).tickets = s.tickets := rfl
@[simp] theorem State.setBank_acks (s : State) (n : Nat) (b : Bank) : (s.setBank n b).acks = s.acks := rfl
@[simp] theorem State.setBank_loops (s : State) (n : Nat) (b : Bank) : (s.setBank n b).loops = s.loops := rfl
@[simp] theorem State.setBank_outs (s : State) (n : Nat) (b : Bank) : (s.setBank n b).outs = s.outs := rfl
@[simp] theorem State.setBank_mgmt (s : State) (n : Nat) (b : Bank) : (s.setBank n b).mgmt = s.mgmt := rfl
@[simp] theorem State.setBank_enMark (s : State) (n : Nat) (b : Bank) : (s.setBank n b).enMark = s.enMark := rfl
@[simp] theorem State.setBank_nextId (s : State) (n : Nat) (b : Bank) : (s.setBank n b).nextId = s.nextId := rfl
@[simp] theorem State.setBank_freeCtr (s : State) (n : Nat) (b : Bank) : (s.setBank n b).freeCtr = s.freeCtr := rfl
@[simp] theorem State.setBank_turns (s : State) (n : Nat) (b : Bank) : (s.setBank n b).turns = s.turns := rfl
@[simp] theorem State.setBank_cur (s : State) (n : Nat) (b : Bank) : (s.setBank n b).cur = s.cur := rfl

@[simp] theorem State.setOutpost_cyc (s : State) (o : Nat) (x : Outpost) : (s.setOutpost o x).cyc = s.cyc := rfl
@[simp] theorem State.setOutpost_cycles (s : State) (o : Nat) (x : Outpost) : (s.setOutpost o x).cycles = s.cycles := rfl
@[simp] theorem State.setOutpost_cyclesRem (s : State) (o : Nat) (x : Outpost) : (s.setOutpost o x).cyclesRem = s.cyclesRem := rfl
@[simp] theorem State.setOutpost_tripCycles (s : State) (o : Nat) (x : Outpost) : (s.setOutpost o x).tripCycles = s.tripCycles := rfl
@[simp] theorem State.setOutpost_cores (s : State) (o : Nat) (x : Outpost) : (s.setOutpost o x).cores = s.cores := rfl
@[simp] theorem State.setOutpost_mem (s : State) (o : Nat) (x : Outpost) : (s.setOutpost o x).mem = s.mem := rfl
@[simp] theorem State.setOutpost_log (s : State) (o : Nat) (x : Outpost) : (s.setOutpost o x).log = s.log := rfl
@[simp] theorem State.setOutpost_buf (s : State) (o : Nat) (x : Outpost) : (s.setOutpost o x).buf = s.buf := rfl
@[simp] theorem State.setOutpost_eccBad (s : State) (o : Nat) (x : Outpost) : (s.setOutpost o x).eccBad = s.eccBad := rfl
@[simp] theorem State.setOutpost_tpbs (s : State) (o : Nat) (x : Outpost) : (s.setOutpost o x).tpbs = s.tpbs := rfl
@[simp] theorem State.setOutpost_kits (s : State) (o : Nat) (x : Outpost) : (s.setOutpost o x).kits = s.kits := rfl
@[simp] theorem State.setOutpost_replies (s : State) (o : Nat) (x : Outpost) : (s.setOutpost o x).replies = s.replies := rfl
@[simp] theorem State.setOutpost_ctxs (s : State) (o : Nat) (x : Outpost) : (s.setOutpost o x).ctxs = s.ctxs := rfl
@[simp] theorem State.setOutpost_dir (s : State) (o : Nat) (x : Outpost) : (s.setOutpost o x).dir = s.dir := rfl
@[simp] theorem State.setOutpost_invals (s : State) (o : Nat) (x : Outpost) : (s.setOutpost o x).invals = s.invals := rfl
@[simp] theorem State.setOutpost_temperQ (s : State) (o : Nat) (x : Outpost) : (s.setOutpost o x).temperQ = s.temperQ := rfl
@[simp] theorem State.setOutpost_nearQ (s : State) (o : Nat) (x : Outpost) : (s.setOutpost o x).nearQ = s.nearQ := rfl
@[simp] theorem State.setOutpost_graphs (s : State) (o : Nat) (x : Outpost) : (s.setOutpost o x).graphs = s.graphs := rfl
@[simp] theorem State.setOutpost_cands (s : State) (o : Nat) (x : Outpost) : (s.setOutpost o x).cands = s.cands := rfl
@[simp] theorem State.setOutpost_gangs (s : State) (o : Nat) (x : Outpost) : (s.setOutpost o x).gangs = s.gangs := rfl
@[simp] theorem State.setOutpost_slots (s : State) (o : Nat) (x : Outpost) : (s.setOutpost o x).slots = s.slots := rfl
@[simp] theorem State.setOutpost_ptr (s : State) (o : Nat) (x : Outpost) : (s.setOutpost o x).ptr = s.ptr := rfl
@[simp] theorem State.setOutpost_tickets (s : State) (o : Nat) (x : Outpost) : (s.setOutpost o x).tickets = s.tickets := rfl
@[simp] theorem State.setOutpost_acks (s : State) (o : Nat) (x : Outpost) : (s.setOutpost o x).acks = s.acks := rfl
@[simp] theorem State.setOutpost_loops (s : State) (o : Nat) (x : Outpost) : (s.setOutpost o x).loops = s.loops := rfl
@[simp] theorem State.setOutpost_outs (s : State) (o : Nat) (x : Outpost) : (s.setOutpost o x).outs = s.outs := rfl
@[simp] theorem State.setOutpost_mgmt (s : State) (o : Nat) (x : Outpost) : (s.setOutpost o x).mgmt = s.mgmt := rfl
@[simp] theorem State.setOutpost_enMark (s : State) (o : Nat) (x : Outpost) : (s.setOutpost o x).enMark = s.enMark := rfl
@[simp] theorem State.setOutpost_nextId (s : State) (o : Nat) (x : Outpost) : (s.setOutpost o x).nextId = s.nextId := rfl
@[simp] theorem State.setOutpost_freeCtr (s : State) (o : Nat) (x : Outpost) : (s.setOutpost o x).freeCtr = s.freeCtr := rfl
@[simp] theorem State.setOutpost_turns (s : State) (o : Nat) (x : Outpost) : (s.setOutpost o x).turns = s.turns := rfl
@[simp] theorem State.setOutpost_cur (s : State) (o : Nat) (x : Outpost) : (s.setOutpost o x).cur = s.cur := rfl

@[simp] theorem State.setFrame_cyc (s : State) (o f : Nat) (x : Frame) : (s.setFrame o f x).cyc = s.cyc := rfl
@[simp] theorem State.setFrame_cycles (s : State) (o f : Nat) (x : Frame) : (s.setFrame o f x).cycles = s.cycles := rfl
@[simp] theorem State.setFrame_cyclesRem (s : State) (o f : Nat) (x : Frame) : (s.setFrame o f x).cyclesRem = s.cyclesRem := rfl
@[simp] theorem State.setFrame_tripCycles (s : State) (o f : Nat) (x : Frame) : (s.setFrame o f x).tripCycles = s.tripCycles := rfl
@[simp] theorem State.setFrame_cores (s : State) (o f : Nat) (x : Frame) : (s.setFrame o f x).cores = s.cores := rfl
@[simp] theorem State.setFrame_mem (s : State) (o f : Nat) (x : Frame) : (s.setFrame o f x).mem = s.mem := rfl
@[simp] theorem State.setFrame_log (s : State) (o f : Nat) (x : Frame) : (s.setFrame o f x).log = s.log := rfl
@[simp] theorem State.setFrame_buf (s : State) (o f : Nat) (x : Frame) : (s.setFrame o f x).buf = s.buf := rfl
@[simp] theorem State.setFrame_eccBad (s : State) (o f : Nat) (x : Frame) : (s.setFrame o f x).eccBad = s.eccBad := rfl
@[simp] theorem State.setFrame_tpbs (s : State) (o f : Nat) (x : Frame) : (s.setFrame o f x).tpbs = s.tpbs := rfl
@[simp] theorem State.setFrame_kits (s : State) (o f : Nat) (x : Frame) : (s.setFrame o f x).kits = s.kits := rfl
@[simp] theorem State.setFrame_replies (s : State) (o f : Nat) (x : Frame) : (s.setFrame o f x).replies = s.replies := rfl
@[simp] theorem State.setFrame_ctxs (s : State) (o f : Nat) (x : Frame) : (s.setFrame o f x).ctxs = s.ctxs := rfl
@[simp] theorem State.setFrame_dir (s : State) (o f : Nat) (x : Frame) : (s.setFrame o f x).dir = s.dir := rfl
@[simp] theorem State.setFrame_invals (s : State) (o f : Nat) (x : Frame) : (s.setFrame o f x).invals = s.invals := rfl
@[simp] theorem State.setFrame_temperQ (s : State) (o f : Nat) (x : Frame) : (s.setFrame o f x).temperQ = s.temperQ := rfl
@[simp] theorem State.setFrame_nearQ (s : State) (o f : Nat) (x : Frame) : (s.setFrame o f x).nearQ = s.nearQ := rfl
@[simp] theorem State.setFrame_graphs (s : State) (o f : Nat) (x : Frame) : (s.setFrame o f x).graphs = s.graphs := rfl
@[simp] theorem State.setFrame_cands (s : State) (o f : Nat) (x : Frame) : (s.setFrame o f x).cands = s.cands := rfl
@[simp] theorem State.setFrame_gangs (s : State) (o f : Nat) (x : Frame) : (s.setFrame o f x).gangs = s.gangs := rfl
@[simp] theorem State.setFrame_slots (s : State) (o f : Nat) (x : Frame) : (s.setFrame o f x).slots = s.slots := rfl
@[simp] theorem State.setFrame_ptr (s : State) (o f : Nat) (x : Frame) : (s.setFrame o f x).ptr = s.ptr := rfl
@[simp] theorem State.setFrame_tickets (s : State) (o f : Nat) (x : Frame) : (s.setFrame o f x).tickets = s.tickets := rfl
@[simp] theorem State.setFrame_acks (s : State) (o f : Nat) (x : Frame) : (s.setFrame o f x).acks = s.acks := rfl
@[simp] theorem State.setFrame_loops (s : State) (o f : Nat) (x : Frame) : (s.setFrame o f x).loops = s.loops := rfl
@[simp] theorem State.setFrame_outs (s : State) (o f : Nat) (x : Frame) : (s.setFrame o f x).outs = s.outs := rfl
@[simp] theorem State.setFrame_mgmt (s : State) (o f : Nat) (x : Frame) : (s.setFrame o f x).mgmt = s.mgmt := rfl
@[simp] theorem State.setFrame_enMark (s : State) (o f : Nat) (x : Frame) : (s.setFrame o f x).enMark = s.enMark := rfl
@[simp] theorem State.setFrame_nextId (s : State) (o f : Nat) (x : Frame) : (s.setFrame o f x).nextId = s.nextId := rfl
@[simp] theorem State.setFrame_freeCtr (s : State) (o f : Nat) (x : Frame) : (s.setFrame o f x).freeCtr = s.freeCtr := rfl
@[simp] theorem State.setFrame_turns (s : State) (o f : Nat) (x : Frame) : (s.setFrame o f x).turns = s.turns := rfl
@[simp] theorem State.setFrame_cur (s : State) (o f : Nat) (x : Frame) : (s.setFrame o f x).cur = s.cur := rfl

@[simp] theorem State.setCtx_cyc (s : State) (n : CtxId) (c : Ctx) : (s.setCtx n c).cyc = s.cyc := rfl
@[simp] theorem State.setCtx_cycles (s : State) (n : CtxId) (c : Ctx) : (s.setCtx n c).cycles = s.cycles := rfl
@[simp] theorem State.setCtx_cyclesRem (s : State) (n : CtxId) (c : Ctx) : (s.setCtx n c).cyclesRem = s.cyclesRem := rfl
@[simp] theorem State.setCtx_tripCycles (s : State) (n : CtxId) (c : Ctx) : (s.setCtx n c).tripCycles = s.tripCycles := rfl
@[simp] theorem State.setCtx_cores (s : State) (n : CtxId) (c : Ctx) : (s.setCtx n c).cores = s.cores := rfl
@[simp] theorem State.setCtx_mem (s : State) (n : CtxId) (c : Ctx) : (s.setCtx n c).mem = s.mem := rfl
@[simp] theorem State.setCtx_log (s : State) (n : CtxId) (c : Ctx) : (s.setCtx n c).log = s.log := rfl
@[simp] theorem State.setCtx_buf (s : State) (n : CtxId) (c : Ctx) : (s.setCtx n c).buf = s.buf := rfl
@[simp] theorem State.setCtx_eccBad (s : State) (n : CtxId) (c : Ctx) : (s.setCtx n c).eccBad = s.eccBad := rfl
@[simp] theorem State.setCtx_tpbs (s : State) (n : CtxId) (c : Ctx) : (s.setCtx n c).tpbs = s.tpbs := rfl
@[simp] theorem State.setCtx_outposts (s : State) (n : CtxId) (c : Ctx) : (s.setCtx n c).outposts = s.outposts := rfl
@[simp] theorem State.setCtx_kits (s : State) (n : CtxId) (c : Ctx) : (s.setCtx n c).kits = s.kits := rfl
@[simp] theorem State.setCtx_replies (s : State) (n : CtxId) (c : Ctx) : (s.setCtx n c).replies = s.replies := rfl
@[simp] theorem State.setCtx_dir (s : State) (n : CtxId) (c : Ctx) : (s.setCtx n c).dir = s.dir := rfl
@[simp] theorem State.setCtx_invals (s : State) (n : CtxId) (c : Ctx) : (s.setCtx n c).invals = s.invals := rfl
@[simp] theorem State.setCtx_temperQ (s : State) (n : CtxId) (c : Ctx) : (s.setCtx n c).temperQ = s.temperQ := rfl
@[simp] theorem State.setCtx_nearQ (s : State) (n : CtxId) (c : Ctx) : (s.setCtx n c).nearQ = s.nearQ := rfl
@[simp] theorem State.setCtx_graphs (s : State) (n : CtxId) (c : Ctx) : (s.setCtx n c).graphs = s.graphs := rfl
@[simp] theorem State.setCtx_cands (s : State) (n : CtxId) (c : Ctx) : (s.setCtx n c).cands = s.cands := rfl
@[simp] theorem State.setCtx_gangs (s : State) (n : CtxId) (c : Ctx) : (s.setCtx n c).gangs = s.gangs := rfl
@[simp] theorem State.setCtx_slots (s : State) (n : CtxId) (c : Ctx) : (s.setCtx n c).slots = s.slots := rfl
@[simp] theorem State.setCtx_ptr (s : State) (n : CtxId) (c : Ctx) : (s.setCtx n c).ptr = s.ptr := rfl
@[simp] theorem State.setCtx_tickets (s : State) (n : CtxId) (c : Ctx) : (s.setCtx n c).tickets = s.tickets := rfl
@[simp] theorem State.setCtx_acks (s : State) (n : CtxId) (c : Ctx) : (s.setCtx n c).acks = s.acks := rfl
@[simp] theorem State.setCtx_loops (s : State) (n : CtxId) (c : Ctx) : (s.setCtx n c).loops = s.loops := rfl
@[simp] theorem State.setCtx_outs (s : State) (n : CtxId) (c : Ctx) : (s.setCtx n c).outs = s.outs := rfl
@[simp] theorem State.setCtx_mgmt (s : State) (n : CtxId) (c : Ctx) : (s.setCtx n c).mgmt = s.mgmt := rfl
@[simp] theorem State.setCtx_enMark (s : State) (n : CtxId) (c : Ctx) : (s.setCtx n c).enMark = s.enMark := rfl
@[simp] theorem State.setCtx_nextId (s : State) (n : CtxId) (c : Ctx) : (s.setCtx n c).nextId = s.nextId := rfl
@[simp] theorem State.setCtx_freeCtr (s : State) (n : CtxId) (c : Ctx) : (s.setCtx n c).freeCtr = s.freeCtr := rfl
@[simp] theorem State.setCtx_turns (s : State) (n : CtxId) (c : Ctx) : (s.setCtx n c).turns = s.turns := rfl
@[simp] theorem State.setCtx_cur (s : State) (n : CtxId) (c : Ctx) : (s.setCtx n c).cur = s.cur := rfl

@[simp] theorem State.pass_cores (s : State) (n : Nat) : (s.pass n).cores = s.cores := rfl
@[simp] theorem State.pass_mem (s : State) (n : Nat) : (s.pass n).mem = s.mem := rfl
@[simp] theorem State.pass_buf (s : State) (n : Nat) : (s.pass n).buf = s.buf := rfl
@[simp] theorem State.pass_eccBad (s : State) (n : Nat) : (s.pass n).eccBad = s.eccBad := rfl
@[simp] theorem State.pass_tpbs (s : State) (n : Nat) : (s.pass n).tpbs = s.tpbs := rfl
@[simp] theorem State.pass_outposts (s : State) (n : Nat) : (s.pass n).outposts = s.outposts := rfl
@[simp] theorem State.pass_kits (s : State) (n : Nat) : (s.pass n).kits = s.kits := rfl
@[simp] theorem State.pass_replies (s : State) (n : Nat) : (s.pass n).replies = s.replies := rfl
@[simp] theorem State.pass_ctxs (s : State) (n : Nat) : (s.pass n).ctxs = s.ctxs := rfl
@[simp] theorem State.pass_dir (s : State) (n : Nat) : (s.pass n).dir = s.dir := rfl
@[simp] theorem State.pass_invals (s : State) (n : Nat) : (s.pass n).invals = s.invals := rfl
@[simp] theorem State.pass_temperQ (s : State) (n : Nat) : (s.pass n).temperQ = s.temperQ := rfl
@[simp] theorem State.pass_nearQ (s : State) (n : Nat) : (s.pass n).nearQ = s.nearQ := rfl
@[simp] theorem State.pass_graphs (s : State) (n : Nat) : (s.pass n).graphs = s.graphs := rfl
@[simp] theorem State.pass_gangs (s : State) (n : Nat) : (s.pass n).gangs = s.gangs := rfl
@[simp] theorem State.pass_slots (s : State) (n : Nat) : (s.pass n).slots = s.slots := rfl
@[simp] theorem State.pass_ptr (s : State) (n : Nat) : (s.pass n).ptr = s.ptr := rfl
@[simp] theorem State.pass_tickets (s : State) (n : Nat) : (s.pass n).tickets = s.tickets := rfl
@[simp] theorem State.pass_acks (s : State) (n : Nat) : (s.pass n).acks = s.acks := rfl
@[simp] theorem State.pass_loops (s : State) (n : Nat) : (s.pass n).loops = s.loops := rfl
@[simp] theorem State.pass_outs (s : State) (n : Nat) : (s.pass n).outs = s.outs := rfl
@[simp] theorem State.pass_mgmt (s : State) (n : Nat) : (s.pass n).mgmt = s.mgmt := rfl
@[simp] theorem State.pass_nextId (s : State) (n : Nat) : (s.pass n).nextId = s.nextId := rfl
@[simp] theorem State.pass_freeCtr (s : State) (n : Nat) : (s.pass n).freeCtr = s.freeCtr := rfl
@[simp] theorem State.pass_turns (s : State) (n : Nat) : (s.pass n).turns = s.turns := rfl
@[simp] theorem State.pass_cur (s : State) (n : Nat) : (s.pass n).cur = s.cur := rfl

@[simp] theorem State.takeFree_cyc (s : State) : (s.takeFree).cyc = s.cyc := rfl
@[simp] theorem State.takeFree_cycles (s : State) : (s.takeFree).cycles = s.cycles := rfl
@[simp] theorem State.takeFree_cyclesRem (s : State) : (s.takeFree).cyclesRem = s.cyclesRem := rfl
@[simp] theorem State.takeFree_tripCycles (s : State) : (s.takeFree).tripCycles = s.tripCycles := rfl
@[simp] theorem State.takeFree_cores (s : State) : (s.takeFree).cores = s.cores := rfl
@[simp] theorem State.takeFree_mem (s : State) : (s.takeFree).mem = s.mem := rfl
@[simp] theorem State.takeFree_log (s : State) : (s.takeFree).log = s.log := rfl
@[simp] theorem State.takeFree_buf (s : State) : (s.takeFree).buf = s.buf := rfl
@[simp] theorem State.takeFree_eccBad (s : State) : (s.takeFree).eccBad = s.eccBad := rfl
@[simp] theorem State.takeFree_tpbs (s : State) : (s.takeFree).tpbs = s.tpbs := rfl
@[simp] theorem State.takeFree_outposts (s : State) : (s.takeFree).outposts = s.outposts := rfl
@[simp] theorem State.takeFree_kits (s : State) : (s.takeFree).kits = s.kits := rfl
@[simp] theorem State.takeFree_replies (s : State) : (s.takeFree).replies = s.replies := rfl
@[simp] theorem State.takeFree_ctxs (s : State) : (s.takeFree).ctxs = s.ctxs := rfl
@[simp] theorem State.takeFree_dir (s : State) : (s.takeFree).dir = s.dir := rfl
@[simp] theorem State.takeFree_invals (s : State) : (s.takeFree).invals = s.invals := rfl
@[simp] theorem State.takeFree_temperQ (s : State) : (s.takeFree).temperQ = s.temperQ := rfl
@[simp] theorem State.takeFree_nearQ (s : State) : (s.takeFree).nearQ = s.nearQ := rfl
@[simp] theorem State.takeFree_graphs (s : State) : (s.takeFree).graphs = s.graphs := rfl
@[simp] theorem State.takeFree_cands (s : State) : (s.takeFree).cands = s.cands := rfl
@[simp] theorem State.takeFree_gangs (s : State) : (s.takeFree).gangs = s.gangs := rfl
@[simp] theorem State.takeFree_slots (s : State) : (s.takeFree).slots = s.slots := rfl
@[simp] theorem State.takeFree_ptr (s : State) : (s.takeFree).ptr = s.ptr := rfl
@[simp] theorem State.takeFree_tickets (s : State) : (s.takeFree).tickets = s.tickets := rfl
@[simp] theorem State.takeFree_acks (s : State) : (s.takeFree).acks = s.acks := rfl
@[simp] theorem State.takeFree_loops (s : State) : (s.takeFree).loops = s.loops := rfl
@[simp] theorem State.takeFree_outs (s : State) : (s.takeFree).outs = s.outs := rfl
@[simp] theorem State.takeFree_mgmt (s : State) : (s.takeFree).mgmt = s.mgmt := rfl
@[simp] theorem State.takeFree_enMark (s : State) : (s.takeFree).enMark = s.enMark := rfl
@[simp] theorem State.takeFree_nextId (s : State) : (s.takeFree).nextId = s.nextId := rfl
@[simp] theorem State.takeFree_turns (s : State) : (s.takeFree).turns = s.turns := rfl
@[simp] theorem State.takeFree_cur (s : State) : (s.takeFree).cur = s.cur := rfl

@[simp] theorem State.emit_cyc (s : State) (o : Out) : (s.emit o).cyc = s.cyc := rfl
@[simp] theorem State.emit_cycles (s : State) (o : Out) : (s.emit o).cycles = s.cycles := rfl
@[simp] theorem State.emit_cyclesRem (s : State) (o : Out) : (s.emit o).cyclesRem = s.cyclesRem := rfl
@[simp] theorem State.emit_tripCycles (s : State) (o : Out) : (s.emit o).tripCycles = s.tripCycles := rfl
@[simp] theorem State.emit_cores (s : State) (o : Out) : (s.emit o).cores = s.cores := rfl
@[simp] theorem State.emit_mem (s : State) (o : Out) : (s.emit o).mem = s.mem := rfl
@[simp] theorem State.emit_log (s : State) (o : Out) : (s.emit o).log = s.log := rfl
@[simp] theorem State.emit_buf (s : State) (o : Out) : (s.emit o).buf = s.buf := rfl
@[simp] theorem State.emit_eccBad (s : State) (o : Out) : (s.emit o).eccBad = s.eccBad := rfl
@[simp] theorem State.emit_tpbs (s : State) (o : Out) : (s.emit o).tpbs = s.tpbs := rfl
@[simp] theorem State.emit_outposts (s : State) (o : Out) : (s.emit o).outposts = s.outposts := rfl
@[simp] theorem State.emit_kits (s : State) (o : Out) : (s.emit o).kits = s.kits := rfl
@[simp] theorem State.emit_replies (s : State) (o : Out) : (s.emit o).replies = s.replies := rfl
@[simp] theorem State.emit_ctxs (s : State) (o : Out) : (s.emit o).ctxs = s.ctxs := rfl
@[simp] theorem State.emit_dir (s : State) (o : Out) : (s.emit o).dir = s.dir := rfl
@[simp] theorem State.emit_invals (s : State) (o : Out) : (s.emit o).invals = s.invals := rfl
@[simp] theorem State.emit_temperQ (s : State) (o : Out) : (s.emit o).temperQ = s.temperQ := rfl
@[simp] theorem State.emit_nearQ (s : State) (o : Out) : (s.emit o).nearQ = s.nearQ := rfl
@[simp] theorem State.emit_graphs (s : State) (o : Out) : (s.emit o).graphs = s.graphs := rfl
@[simp] theorem State.emit_cands (s : State) (o : Out) : (s.emit o).cands = s.cands := rfl
@[simp] theorem State.emit_gangs (s : State) (o : Out) : (s.emit o).gangs = s.gangs := rfl
@[simp] theorem State.emit_slots (s : State) (o : Out) : (s.emit o).slots = s.slots := rfl
@[simp] theorem State.emit_ptr (s : State) (o : Out) : (s.emit o).ptr = s.ptr := rfl
@[simp] theorem State.emit_tickets (s : State) (o : Out) : (s.emit o).tickets = s.tickets := rfl
@[simp] theorem State.emit_acks (s : State) (o : Out) : (s.emit o).acks = s.acks := rfl
@[simp] theorem State.emit_loops (s : State) (o : Out) : (s.emit o).loops = s.loops := rfl
@[simp] theorem State.emit_mgmt (s : State) (o : Out) : (s.emit o).mgmt = s.mgmt := rfl
@[simp] theorem State.emit_enMark (s : State) (o : Out) : (s.emit o).enMark = s.enMark := rfl
@[simp] theorem State.emit_nextId (s : State) (o : Out) : (s.emit o).nextId = s.nextId := rfl
@[simp] theorem State.emit_freeCtr (s : State) (o : Out) : (s.emit o).freeCtr = s.freeCtr := rfl
@[simp] theorem State.emit_turns (s : State) (o : Out) : (s.emit o).turns = s.turns := rfl
@[simp] theorem State.emit_cur (s : State) (o : Out) : (s.emit o).cur = s.cur := rfl

@[simp] theorem State.setStrm_cyc (s : State) (a : Agent) (t : Stream) : (s.setStrm a t).cyc = s.cyc := by
  cases a <;> rfl
@[simp] theorem State.setStrm_cycles (s : State) (a : Agent) (t : Stream) : (s.setStrm a t).cycles = s.cycles := by
  cases a <;> rfl
@[simp] theorem State.setStrm_cyclesRem (s : State) (a : Agent) (t : Stream) : (s.setStrm a t).cyclesRem = s.cyclesRem := by
  cases a <;> rfl
@[simp] theorem State.setStrm_tripCycles (s : State) (a : Agent) (t : Stream) : (s.setStrm a t).tripCycles = s.tripCycles := by
  cases a <;> rfl
@[simp] theorem State.setStrm_mem (s : State) (a : Agent) (t : Stream) : (s.setStrm a t).mem = s.mem := by
  cases a <;> rfl
@[simp] theorem State.setStrm_log (s : State) (a : Agent) (t : Stream) : (s.setStrm a t).log = s.log := by
  cases a <;> rfl
@[simp] theorem State.setStrm_buf (s : State) (a : Agent) (t : Stream) : (s.setStrm a t).buf = s.buf := by
  cases a <;> rfl
@[simp] theorem State.setStrm_eccBad (s : State) (a : Agent) (t : Stream) : (s.setStrm a t).eccBad = s.eccBad := by
  cases a <;> rfl
@[simp] theorem State.setStrm_tpbs (s : State) (a : Agent) (t : Stream) : (s.setStrm a t).tpbs = s.tpbs := by
  cases a <;> rfl
@[simp] theorem State.setStrm_kits (s : State) (a : Agent) (t : Stream) : (s.setStrm a t).kits = s.kits := by
  cases a <;> rfl
@[simp] theorem State.setStrm_replies (s : State) (a : Agent) (t : Stream) : (s.setStrm a t).replies = s.replies := by
  cases a <;> rfl
@[simp] theorem State.setStrm_ctxs (s : State) (a : Agent) (t : Stream) : (s.setStrm a t).ctxs = s.ctxs := by
  cases a <;> rfl
@[simp] theorem State.setStrm_dir (s : State) (a : Agent) (t : Stream) : (s.setStrm a t).dir = s.dir := by
  cases a <;> rfl
@[simp] theorem State.setStrm_invals (s : State) (a : Agent) (t : Stream) : (s.setStrm a t).invals = s.invals := by
  cases a <;> rfl
@[simp] theorem State.setStrm_temperQ (s : State) (a : Agent) (t : Stream) : (s.setStrm a t).temperQ = s.temperQ := by
  cases a <;> rfl
@[simp] theorem State.setStrm_nearQ (s : State) (a : Agent) (t : Stream) : (s.setStrm a t).nearQ = s.nearQ := by
  cases a <;> rfl
@[simp] theorem State.setStrm_graphs (s : State) (a : Agent) (t : Stream) : (s.setStrm a t).graphs = s.graphs := by
  cases a <;> rfl
@[simp] theorem State.setStrm_cands (s : State) (a : Agent) (t : Stream) : (s.setStrm a t).cands = s.cands := by
  cases a <;> rfl
@[simp] theorem State.setStrm_gangs (s : State) (a : Agent) (t : Stream) : (s.setStrm a t).gangs = s.gangs := by
  cases a <;> rfl
@[simp] theorem State.setStrm_slots (s : State) (a : Agent) (t : Stream) : (s.setStrm a t).slots = s.slots := by
  cases a <;> rfl
@[simp] theorem State.setStrm_ptr (s : State) (a : Agent) (t : Stream) : (s.setStrm a t).ptr = s.ptr := by
  cases a <;> rfl
@[simp] theorem State.setStrm_tickets (s : State) (a : Agent) (t : Stream) : (s.setStrm a t).tickets = s.tickets := by
  cases a <;> rfl
@[simp] theorem State.setStrm_acks (s : State) (a : Agent) (t : Stream) : (s.setStrm a t).acks = s.acks := by
  cases a <;> rfl
@[simp] theorem State.setStrm_loops (s : State) (a : Agent) (t : Stream) : (s.setStrm a t).loops = s.loops := by
  cases a <;> rfl
@[simp] theorem State.setStrm_outs (s : State) (a : Agent) (t : Stream) : (s.setStrm a t).outs = s.outs := by
  cases a <;> rfl
@[simp] theorem State.setStrm_mgmt (s : State) (a : Agent) (t : Stream) : (s.setStrm a t).mgmt = s.mgmt := by
  cases a <;> rfl
@[simp] theorem State.setStrm_enMark (s : State) (a : Agent) (t : Stream) : (s.setStrm a t).enMark = s.enMark := by
  cases a <;> rfl
@[simp] theorem State.setStrm_nextId (s : State) (a : Agent) (t : Stream) : (s.setStrm a t).nextId = s.nextId := by
  cases a <;> rfl
@[simp] theorem State.setStrm_freeCtr (s : State) (a : Agent) (t : Stream) : (s.setStrm a t).freeCtr = s.freeCtr := by
  cases a <;> rfl
@[simp] theorem State.setStrm_turns (s : State) (a : Agent) (t : Stream) : (s.setStrm a t).turns = s.turns := by
  cases a <;> rfl
@[simp] theorem State.setStrm_cur (s : State) (a : Agent) (t : Stream) : (s.setStrm a t).cur = s.cur := by
  cases a <;> rfl

@[simp] theorem State.setMe_cyc (s : State) (t : Stream) : (s.setMe t).cyc = s.cyc :=
  State.setStrm_cyc s s.cur t
@[simp] theorem State.setMe_cycles (s : State) (t : Stream) : (s.setMe t).cycles = s.cycles :=
  State.setStrm_cycles s s.cur t
@[simp] theorem State.setMe_cyclesRem (s : State) (t : Stream) : (s.setMe t).cyclesRem = s.cyclesRem :=
  State.setStrm_cyclesRem s s.cur t
@[simp] theorem State.setMe_tripCycles (s : State) (t : Stream) : (s.setMe t).tripCycles = s.tripCycles :=
  State.setStrm_tripCycles s s.cur t
@[simp] theorem State.setMe_mem (s : State) (t : Stream) : (s.setMe t).mem = s.mem :=
  State.setStrm_mem s s.cur t
@[simp] theorem State.setMe_log (s : State) (t : Stream) : (s.setMe t).log = s.log :=
  State.setStrm_log s s.cur t
@[simp] theorem State.setMe_buf (s : State) (t : Stream) : (s.setMe t).buf = s.buf :=
  State.setStrm_buf s s.cur t
@[simp] theorem State.setMe_eccBad (s : State) (t : Stream) : (s.setMe t).eccBad = s.eccBad :=
  State.setStrm_eccBad s s.cur t
@[simp] theorem State.setMe_tpbs (s : State) (t : Stream) : (s.setMe t).tpbs = s.tpbs :=
  State.setStrm_tpbs s s.cur t
@[simp] theorem State.setMe_kits (s : State) (t : Stream) : (s.setMe t).kits = s.kits :=
  State.setStrm_kits s s.cur t
@[simp] theorem State.setMe_replies (s : State) (t : Stream) : (s.setMe t).replies = s.replies :=
  State.setStrm_replies s s.cur t
@[simp] theorem State.setMe_ctxs (s : State) (t : Stream) : (s.setMe t).ctxs = s.ctxs :=
  State.setStrm_ctxs s s.cur t
@[simp] theorem State.setMe_dir (s : State) (t : Stream) : (s.setMe t).dir = s.dir :=
  State.setStrm_dir s s.cur t
@[simp] theorem State.setMe_invals (s : State) (t : Stream) : (s.setMe t).invals = s.invals :=
  State.setStrm_invals s s.cur t
@[simp] theorem State.setMe_temperQ (s : State) (t : Stream) : (s.setMe t).temperQ = s.temperQ :=
  State.setStrm_temperQ s s.cur t
@[simp] theorem State.setMe_nearQ (s : State) (t : Stream) : (s.setMe t).nearQ = s.nearQ :=
  State.setStrm_nearQ s s.cur t
@[simp] theorem State.setMe_graphs (s : State) (t : Stream) : (s.setMe t).graphs = s.graphs :=
  State.setStrm_graphs s s.cur t
@[simp] theorem State.setMe_cands (s : State) (t : Stream) : (s.setMe t).cands = s.cands :=
  State.setStrm_cands s s.cur t
@[simp] theorem State.setMe_gangs (s : State) (t : Stream) : (s.setMe t).gangs = s.gangs :=
  State.setStrm_gangs s s.cur t
@[simp] theorem State.setMe_slots (s : State) (t : Stream) : (s.setMe t).slots = s.slots :=
  State.setStrm_slots s s.cur t
@[simp] theorem State.setMe_ptr (s : State) (t : Stream) : (s.setMe t).ptr = s.ptr :=
  State.setStrm_ptr s s.cur t
@[simp] theorem State.setMe_tickets (s : State) (t : Stream) : (s.setMe t).tickets = s.tickets :=
  State.setStrm_tickets s s.cur t
@[simp] theorem State.setMe_acks (s : State) (t : Stream) : (s.setMe t).acks = s.acks :=
  State.setStrm_acks s s.cur t
@[simp] theorem State.setMe_loops (s : State) (t : Stream) : (s.setMe t).loops = s.loops :=
  State.setStrm_loops s s.cur t
@[simp] theorem State.setMe_outs (s : State) (t : Stream) : (s.setMe t).outs = s.outs :=
  State.setStrm_outs s s.cur t
@[simp] theorem State.setMe_mgmt (s : State) (t : Stream) : (s.setMe t).mgmt = s.mgmt :=
  State.setStrm_mgmt s s.cur t
@[simp] theorem State.setMe_enMark (s : State) (t : Stream) : (s.setMe t).enMark = s.enMark :=
  State.setStrm_enMark s s.cur t
@[simp] theorem State.setMe_nextId (s : State) (t : Stream) : (s.setMe t).nextId = s.nextId :=
  State.setStrm_nextId s s.cur t
@[simp] theorem State.setMe_freeCtr (s : State) (t : Stream) : (s.setMe t).freeCtr = s.freeCtr :=
  State.setStrm_freeCtr s s.cur t
@[simp] theorem State.setMe_turns (s : State) (t : Stream) : (s.setMe t).turns = s.turns :=
  State.setStrm_turns s s.cur t
@[simp] theorem State.setMe_cur (s : State) (t : Stream) : (s.setMe t).cur = s.cur :=
  State.setStrm_cur s s.cur t

/-! ### Tables -/

theorem tget_tdel_ne {α : Type} (d : α) (t : Tab α) {n m : Nat} (h : m ≠ n) : tget d (tdel t n) m = tget d t m := by
  induction t with
  | nil => rfl
  | cons e t ih =>
    obtain ⟨k, v⟩ := e
    by_cases hk : k = n
    · subst hk
      have : tdel ((k, v) :: t) k = tdel t k := by simp [tdel]
      rw [this, ih, tget, if_neg (Ne.symm h)]
    · have : tdel ((k, v) :: t) n = (k, v) :: tdel t n := by simp [tdel, hk]
      rw [this]
      simp only [tget, ih]

theorem tget_tins_same {α : Type} (d : α) (t : Tab α) (n : Nat) (v : α) (h : ∀ e ∈ t, e.1 ≠ n) :
    tget d (tins n v t) n = v := by
  induction t with
  | nil => simp [tins, tget]
  | cons e t ih =>
    obtain ⟨k, w⟩ := e
    have hk : k ≠ n := h _ List.mem_cons_self
    simp only [tins]
    split
    · simp [tget]
    · simp only [tget, if_neg hk]
      exact ih fun e he => h e (List.mem_cons_of_mem _ he)

theorem tget_tins_ne {α : Type} (d : α) (t : Tab α) {n m : Nat} (v : α) (h : m ≠ n) :
    tget d (tins n v t) m = tget d t m := by
  induction t with
  | nil => simp [tins, tget, Ne.symm h]
  | cons e t ih =>
    obtain ⟨k, w⟩ := e
    simp only [tins]
    split
    · simp [tget, Ne.symm h]
    · simp only [tget, ih]

theorem tdel_ne {α : Type} (t : Tab α) (n : Nat) : ∀ e ∈ tdel t n, e.1 ≠ n := by
  intro e he
  simpa [tdel] using (List.mem_filter.mp he).2

/-- A table reads back what was set. -/
@[simp] theorem tget_tset_same {α : Type} (d : α) (t : Tab α) (n : Nat) (v : α) : tget d (tset t n v) n = v :=
  tget_tins_same d _ n v (tdel_ne t n)

/-- Setting one key leaves every other. -/
theorem tget_tset_ne {α : Type} (d : α) (t : Tab α) {n m : Nat} (v : α) (h : m ≠ n) :
    tget d (tset t n v) m = tget d t m := by
  rw [tset, tget_tins_ne d _ v h, tget_tdel_ne d t h]

theorem tdel_of_ne {α : Type} (t : Tab α) (n : Nat) (h : ∀ e ∈ t, e.1 ≠ n) : tdel t n = t := by
  rw [tdel, List.filter_eq_self]
  intro e he
  simpa using h e he

theorem tdel_tins {α : Type} (t : Tab α) (n : Nat) (v : α) (h : ∀ e ∈ t, e.1 ≠ n) : tdel (tins n v t) n = t := by
  induction t with
  | nil => simp [tins, tdel]
  | cons e t ih =>
    obtain ⟨k, w⟩ := e
    have hk : k ≠ n := h _ List.mem_cons_self
    have ht := fun e he => h e (List.mem_cons_of_mem (k, w) he)
    simp only [tins]
    split
    · have : tdel ((n, v) :: (k, w) :: t) n = tdel ((k, w) :: t) n := by simp [tdel]
      rw [this, tdel_of_ne _ _ h]
    · have : tdel ((k, w) :: tins n v t) n = (k, w) :: tdel (tins n v t) n := by simp [tdel, hk]
      rw [this, ih ht]

/-- The last of two writes to a key stands. -/
@[simp] theorem tset_tset {α : Type} (t : Tab α) (n : Nat) (v w : α) : tset (tset t n v) n w = tset t n w := by
  rw [tset, tset, tdel_tins _ _ _ (tdel_ne t n), tset]

/-! ### Banks and cores -/

@[simp] theorem Bank.get_set (b : Bank) (e : Eng) (t : Stream) : (b.set e t).get e = t := by cases e <;> rfl
@[simp] theorem Bank.ce_set_ce (b : Bank) (t : Stream) : (b.set .ce t).ce = t := rfl
theorem Bank.get_set_ne (b : Bank) {e f : Eng} (t : Stream) (h : f ≠ e) : (b.set e t).get f = b.get f := by
  cases e <;> cases f <;> first | rfl | exact absurd rfl h
@[simp] theorem Bank.set_set (b : Bank) (e : Eng) (t u : Stream) : (b.set e t).set e u = b.set e u := by
  cases e <;> rfl
@[simp] theorem Core.bank_setBank (k : Core) (b : Bank) : (k.setBank b).bank = b := by
  cases h : k.runB <;> simp [Core.bank, Core.setBank, Core.get, Core.set, h]
@[simp] theorem Core.setBank_setBank (k : Core) (b c : Bank) : (k.setBank b).setBank c = k.setBank c := by
  cases h : k.runB <;> simp [Core.setBank, Core.set, h]

@[simp] theorem State.core_setCore (s : State) (n : Nat) (k : Core) : (s.setCore n k).core n = k := by
  simp [State.core, State.setCore]
theorem State.core_setCore_ne (s : State) {n m : Nat} (k : Core) (h : m ≠ n) : (s.setCore n k).core m = s.core m := by
  simp [State.core, State.setCore, tget_tset_ne _ _ _ h]
@[simp] theorem State.setCore_setCore (s : State) (n : Nat) (k l : Core) :
    (s.setCore n k).setCore n l = s.setCore n l := by
  simp [State.setCore]
@[simp] theorem State.bank_setBank (s : State) (n : Nat) (b : Bank) : (s.setBank n b).bank n = b := by
  simp [State.bank, State.setBank]
theorem State.bank_setBank_ne (s : State) {n m : Nat} (b : Bank) (h : m ≠ n) : (s.setBank n b).bank m = s.bank m := by
  simp [State.bank, State.setBank, State.core_setCore_ne _ _ h]
@[simp] theorem State.setBank_setBank (s : State) (n : Nat) (b c : Bank) :
    (s.setBank n b).setBank n c = s.setBank n c := by
  simp [State.setBank]
@[simp] theorem State.outpost_setOutpost (s : State) (o : Nat) (x : Outpost) : (s.setOutpost o x).outpost o = x := by
  simp [State.outpost, State.setOutpost]
@[simp] theorem State.setOutpost_setOutpost (s : State) (o : Nat) (x y : Outpost) :
    (s.setOutpost o x).setOutpost o y = s.setOutpost o y := by
  simp [State.setOutpost]
@[simp] theorem State.frame_setFrame (s : State) (o f : Nat) (x : Frame) : (s.setFrame o f x).frame o f = x := by
  simp [State.frame, State.setFrame]
@[simp] theorem State.setFrame_setFrame (s : State) (o f : Nat) (x y : Frame) :
    (s.setFrame o f x).setFrame o f y = s.setFrame o f y := by
  simp [State.setFrame]

/-! ### The stream that executes -/

@[simp] theorem State.strm_setStrm (s : State) (a : Agent) (t : Stream) : (s.setStrm a t).strm a = t := by
  cases a <;> simp [State.strm, State.setStrm]
@[simp] theorem State.setStrm_setStrm (s : State) (a : Agent) (t u : Stream) :
    (s.setStrm a t).setStrm a u = s.setStrm a u := by
  cases a <;> simp [State.setStrm]
@[simp] theorem State.me_setMe (s : State) (t : Stream) : (s.setMe t).me = t := by
  rw [State.me, State.setMe_cur, State.setMe, State.strm_setStrm]
@[simp] theorem State.setMe_setMe (s : State) (t u : Stream) : (s.setMe t).setMe u = s.setMe u := by
  rw [State.setMe, State.setMe_cur, State.setMe, State.setStrm_setStrm, State.setMe]
theorem State.setMe_modMe (s : State) (t : Stream) (f : Stream → Stream) : (s.setMe t).modMe f = s.setMe (f t) := by
  rw [State.modMe, State.me_setMe, State.setMe_setMe]
@[simp] theorem State.isVe_setMe (s : State) (t : Stream) : (s.setMe t).isVe = s.isVe := by
  simp [State.isVe]
@[simp] theorem State.inOutpost_setMe (s : State) (t : Stream) : (s.setMe t).inOutpost = s.inOutpost := by
  simp [State.inOutpost]
@[simp] theorem State.imemSize_setMe (s : State) (t : Stream) : (s.setMe t).imemSize = s.imemSize := by
  simp [State.imemSize]
@[simp] theorem State.curCore_setMe (s : State) (t : Stream) : (s.setMe t).curCore = s.curCore := by
  simp [State.curCore]

/-- Replacing the executing stream changes no byte that anyone reads. -/
theorem State.sameReads_setMe (s : State) (t : Stream) : ∀ p q a, (s.setMe t).readByte p q a = s.readByte p q a := by
  intro p q a
  simp [State.readByte, State.visByte]

end Sys2Proof.Machine
end

