-- ==== Sys2Proof/Laws/Memory.lean ====
section
/-! SUPPORT.  Sparse memory: its canonical form, kept by every operation on it, and what a byte reads as after a write. -/

namespace Sys2Proof.Machine

/-! ### The canonical form -/

theorem Memory.wfFrom_some (l : Nat) (m : Memory) :
    Memory.wfFrom (some l) m = true ↔
      (∀ e ∈ m, l < e.1) ∧ m.Pairwise (fun x y => x.1 < y.1) ∧ ∀ e ∈ m, e.2 ≠ Memory.unlisted := by
  induction m generalizing l with
  | nil => simp [Memory.wfFrom]
  | cons e t ih =>
    obtain ⟨k, b⟩ := e
    have hlt : (∀ e ∈ t, k < e.1) → l < k → ∀ e ∈ t, l < e.1 := fun h hl e he => Nat.lt_trans hl (h e he)
    simp only [Memory.wfFrom, Bool.and_eq_true, decide_eq_true_eq, bne_iff_ne, ih, List.pairwise_cons, List.mem_cons,
      forall_eq_or_imp]
    constructor
    · rintro ⟨⟨hl, hb⟩, hk, hp, hn⟩
      exact ⟨⟨hl, hlt hk hl⟩, ⟨hk, hp⟩, hb, hn⟩
    · rintro ⟨⟨hl, -⟩, ⟨hk, hp⟩, hb, hn⟩
      exact ⟨⟨hl, hb⟩, hk, hp, hn⟩

/-- The canonical form: addresses strictly rising, no entry equal to what an unlisted address reads as. -/
theorem Memory.wf_iff (m : Memory) :
    m.wf = true ↔ m.Pairwise (fun x y => x.1 < y.1) ∧ ∀ e ∈ m, e.2 ≠ Memory.unlisted := by
  cases m with
  | nil => simp [Memory.wf, Memory.wfFrom]
  | cons e t =>
    obtain ⟨k, b⟩ := e
    simp only [Memory.wf, Memory.wfFrom, Bool.true_and, Bool.and_eq_true, bne_iff_ne, Memory.wfFrom_some, List.pairwise_cons,
      List.mem_cons, forall_eq_or_imp]
    constructor
    · rintro ⟨hb, hk, hp, hn⟩
      exact ⟨⟨hk, hp⟩, hb, hn⟩
    · rintro ⟨⟨hk, hp⟩, hb, hn⟩
      exact ⟨hb, hk, hp, hn⟩

@[simp] theorem Memory.wf_nil : Memory.wf [] = true := rfl

/-- Dropping entries keeps the form. -/
theorem Memory.wf_filter (f : Host.Cell → Bool) {m : Memory} (h : m.wf = true) : Memory.wf (m.filter f) = true := by
  rw [Memory.wf_iff] at h ⊢
  exact ⟨h.1.filter f, fun e he => h.2 e (List.mem_filter.1 he).1⟩

theorem mem_tins {α : Type} {n : Nat} {v : α} {t : Tab α} {e : Nat × α} (h : e ∈ tins n v t) : e = (n, v) ∨ e ∈ t := by
  induction t with
  | nil => simpa [tins] using h
  | cons x t ih =>
    obtain ⟨k, w⟩ := x
    rw [tins] at h
    split at h
    · simpa using h
    · rcases List.mem_cons.1 h with rfl | h
      · exact .inr List.mem_cons_self
      · exact (ih h).imp id (List.mem_cons_of_mem _)

/-- An insertion into a rising table, of a key that it lacks, leaves it rising. -/
theorem pairwise_tins {α : Type} {n : Nat} {v : α} {t : Tab α} (hp : t.Pairwise fun x y => x.1 < y.1)
    (hn : ∀ e ∈ t, e.1 ≠ n) : (tins n v t).Pairwise fun x y => x.1 < y.1 := by
  induction t with
  | nil => simp [tins]
  | cons x t ih =>
    obtain ⟨k, w⟩ := x
    rw [List.pairwise_cons] at hp
    rw [tins]
    split
    · rename_i hk
      refine List.pairwise_cons.2 ⟨fun e he => ?_, List.pairwise_cons.2 hp⟩
      rcases List.mem_cons.1 he with rfl | he
      · exact hk
      · exact Nat.lt_trans hk (hp.1 e he)
    · rename_i hk
      have hkn : k ≠ n := hn (k, w) List.mem_cons_self
      refine List.pairwise_cons.2 ⟨fun e he => ?_, ih hp.2 fun e he => hn e (List.mem_cons_of_mem _ he)⟩
      rcases mem_tins he with rfl | he
      · simp only at hk ⊢; omega
      · exact hp.1 e he

/-- A write keeps the form. -/
theorem Memory.wf_write (a : Nat) (b : Byte) {m : Memory} (h : m.wf = true) : (m.write a b).wf = true := by
  have hd : Memory.wf (tdel m a) = true := Memory.wf_filter _ h
  rw [Memory.write]
  split
  · exact hd
  · rename_i hb
    rw [Memory.wf_iff] at hd ⊢
    refine ⟨pairwise_tins hd.1 (tdel_ne m a), fun e he => ?_⟩
    rcases mem_tins he with rfl | he
    · exact hb
    · exact hd.2 e he

theorem Memory.wf_writeN (a : Nat) (bs : List Byte) {m : Memory} (h : m.wf = true) : (m.writeN a bs).wf = true := by
  induction bs generalizing a m with
  | nil => exact h
  | cons b bs ih => exact ih (a + 1) (Memory.wf_write a b h)

/-- The cells of one write, performed. -/
theorem Memory.wf_cells (cs : List Host.Cell) {m : Memory} (h : m.wf = true) :
    Memory.wf (cs.foldl (fun m c => m.write c.1 c.2) m) = true := by
  induction cs generalizing m with
  | nil => exact h
  | cons c cs ih => exact ih (Memory.wf_write c.1 c.2 h)

/-- Reset memory has the form. -/
theorem State.reset_mem_wf : State.reset.mem.wf = true := rfl

/-! ### The operations of the state on memory: one lemma each -/

@[simp] theorem State.clearEcc_mem (s : State) (cs : List (Nat × Byte)) : (s.clearEcc cs).mem = s.mem := rfl
@[simp] theorem State.putWrite_mem (s : State) (p : Party) (q : Path) (cs : List (Nat × Byte))
    (hs : List (Nat × Byte × Byte)) (k : Bool) : (s.putWrite p q cs hs k).mem = s.mem := rfl
@[simp] theorem State.pushLog_mem (s : State) (w : Write) : (s.pushLog w).mem = s.mem := rfl
@[simp] theorem State.appendWrite_mem (s : State) (p : Party) (q : Path) (cs : List (Nat × Byte)) (v : Tab Nat) (k : Bool)
    (hs : List (Nat × Byte × Byte)) : (s.appendWrite p q cs v k hs).mem = s.mem := rfl
@[simp] theorem State.widenWrites_mem (s : State) (f : Write → Bool) (ps : BitVec 6) (n : Nat) :
    (s.widenWrites f ps n).mem = s.mem := rfl

/-- A write step moves a write from its buffer to the log, and never to memory. -/
@[simp] theorem State.stepWrites_mem (s : State) (f : Write → Bool) : (s.stepWrites f).mem = s.mem := by
  unfold State.stepWrites
  induction s.buf.filter f with
  | nil => rfl
  | cons w ws ih => exact ih

/-- Publishing every write that has stepped keeps the form. -/
theorem State.publish_wf {u : State} (h : u.mem.wf = true) : u.publish.mem.wf = true := by
  show Memory.wf (u.log.foldr (fun w m => w.cells.foldl (fun m c => m.write c.1 c.2) m) u.mem) = true
  induction u.log with
  | nil => exact h
  | cons w ws ih => exact Memory.wf_cells w.cells ih

theorem State.stepWrites_wf {s : State} (f : Write → Bool) (h : s.mem.wf = true) : (s.stepWrites f).mem.wf = true := by
  rw [State.stepWrites_mem]; exact h

/-- Letting every write settle keeps the form. -/
theorem State.settle_wf {s : State} (h : s.mem.wf = true) : s.settle.mem.wf = true := by
  unfold State.settle
  split
  · exact h
  · exact State.publish_wf (State.stepWrites_wf _ h)

/-- Clearing a core for a job of another context keeps the form (R255). -/
theorem State.clearCore_wf (c : Nat) (ctx : CtxId) (part : Nat) {s : State} (h : s.mem.wf = true) :
    (s.clearCore c ctx part).mem.wf = true := by
  rw [State.clearCore]
  simp only []
  split
  · exact h
  · exact Memory.wf_filter _ h

/-- Writing a kit's data image keeps the form (R97). -/
theorem State.writeImage_wf (c : Nat) (kit : Kit) {s : State} (h : s.mem.wf = true) : (s.writeImage c kit).mem.wf = true := by
  unfold State.writeImage
  split <;> exact h

/-- A module reset keeps the form, and so does a loss of power (R458, R465). -/
theorem State.moduleClear_wf {s : State} (h : s.mem.wf = true) : s.moduleClear.mem.wf = true :=
  Memory.wf_filter _ (State.publish_wf (State.stepWrites_wf _ h))
theorem State.losePower_wf (s : State) : s.losePower.mem.wf = true := rfl

/-! ### Reading after a write -/

@[simp] theorem Memory.read_nil (a : Nat) : Memory.read [] a = Memory.unlisted := rfl

theorem tget_tdel_same {α : Type} (d : α) (t : Tab α) (n : Nat) : tget d (tdel t n) n = d := by
  have h := tdel_ne t n
  generalize tdel t n = u at h
  induction u with
  | nil => rfl
  | cons e u ih =>
    rw [tget, if_neg (h e List.mem_cons_self)]
    exact ih fun x hx => h x (List.mem_cons_of_mem _ hx)

/-- The byte written is what the address reads as, and every other address reads as before. -/
theorem Memory.read_write (m : Memory) (a : Nat) (b : Byte) (x : Nat) :
    (m.write a b).read x = if x = a then b else m.read x := by
  unfold Memory.write Memory.read
  split
  · rename_i hb
    by_cases h : x = a
    · subst h; rw [tget_tdel_same, if_pos rfl, hb]
    · rw [tget_tdel_ne _ _ h, if_neg h]
  · by_cases h : x = a
    · subst h; rw [tget_tset_same, if_pos rfl]
    · rw [tget_tset_ne _ _ _ h, if_neg h]

/-- Bytes written from an address leave every address outside them. -/
theorem Memory.read_writeN_outside (m : Memory) (a : Nat) (bs : List Byte) (x : Nat) (h : x < a ∨ a + bs.length ≤ x) :
    (m.writeN a bs).read x = m.read x := by
  induction bs generalizing a m with
  | nil => rfl
  | cons b bs ih =>
    rw [List.length_cons] at h
    rw [Memory.writeN, ih _ (a + 1) (by omega), Memory.read_write, if_neg (by omega)]

/-- The i-th byte written stands at the i-th address. -/
theorem Memory.read_writeN_inside (m : Memory) (a : Nat) (bs : List Byte) (i : Nat) (h : i < bs.length) :
    (m.writeN a bs).read (a + i) = bs[i] := by
  induction bs generalizing a m i with
  | nil => exact absurd h (by simp)
  | cons b bs ih =>
    rw [Memory.writeN]
    cases i with
    | zero =>
      rw [Memory.read_writeN_outside _ _ _ _ (by omega), Memory.read_write]
      simp
    | succ i =>
      have := ih (m.write a b) (a + 1) i (by simpa using h)
      simpa [Nat.add_comm, Nat.add_left_comm] using this

end Sys2Proof.Machine
end

