-- ==== Sys2Proof/Laws/Ops.lean ====
section
/-! SUPPORT.  What each shared operation can do: registers of the executing stream, the advance past an instruction, a
transfer, a private instruction under its pattern. -/

namespace Sys2Proof.Machine

/-! ### Registers -/

theorem Stream.rg_wg (t : Stream) (d r : GReg) (v : Word) :
    (t.wg d v).rg r = if r = d ∧ r ≠ 0 then v else t.rg r := by
  unfold Stream.wg Stream.rg
  by_cases hr : r = 0#6
  · simp [hr]
  · by_cases hd : d = 0#6
    · subst hd; simp [hr]
    · by_cases h : r = d
      · subst h; simp [hr]
      · have : r.toNat ≠ d.toNat := fun e => h (BitVec.eq_of_toNat_eq e)
        simp [hr, hd, h, tget_tset_ne _ _ _ this]

theorem Stream.rk_wk (t : Stream) (d r : KReg) (v : W32) :
    (t.wk d v).rk r = if r = d ∧ r ≠ 0 then v else t.rk r := by
  unfold Stream.wk Stream.rk
  by_cases hr : r = 0#4
  · simp [hr]
  · by_cases hd : d = 0#4
    · subst hd; simp [hr]
    · by_cases h : r = d
      · subst h; simp [hr]
      · have : r.toNat ≠ d.toNat := fun e => h (BitVec.eq_of_toNat_eq e)
        simp [hr, hd, h, tget_tset_ne _ _ _ this]

theorem Stream.rp_wp (t : Stream) (d r : PReg) (v : PBits) :
    (t.wp d v).rp r = if r = d ∧ r ≠ 0 then v else t.rp r := by
  unfold Stream.wp Stream.rp
  by_cases hr : r = 0#4
  · simp [hr]
  · by_cases hd : d = 0#4
    · subst hd; simp [hr]
    · by_cases h : r = d
      · subst h; simp [hr]
      · have : r.toNat ≠ d.toNat := fun e => h (BitVec.eq_of_toNat_eq e)
        simp [hr, hd, h, tget_tset_ne _ _ _ this]

theorem State.me_setG (s : State) (d : GReg) (v : Word) : (s.setG d v).me = s.me.wg d v := by simp [State.setG, State.modMe]

/-! ### The end check (R113) -/

/-- What a stream may look like after the end check: its frame. -/
theorem Stream.endCheck_rest (ve : Bool) (next : Word) (ns : List Nat) (t : Stream) :
    t.endCheck ve next ns =
      { t with pc := (t.endCheck ve next ns).pc, lc := (t.endCheck ve next ns).lc, p := (t.endCheck ve next ns).p
               vrb := (t.endCheck ve next ns).vrb } := by
  induction ns generalizing t with
  | nil => rfl
  | cons n ns ih =>
    simp only [Stream.endCheck]
    split
    · split
      · split <;> rfl
      · rw [ih]; rfl
    · exact ih t

/-- Where no loop ends the end check only moves the program counter. -/
theorem Stream.endCheck_straight (ve : Bool) (next : Word) (ns : List Nat) (t : Stream)
    (h : ∀ n ∈ ns, (t.loop n).active = true → (t.loop n).le + 4 ≠ next) :
    t.endCheck ve next ns = { t with pc := next } := by
  induction ns with
  | nil => rfl
  | cons n ns ih =>
    have hn := h n List.mem_cons_self
    have : ((t.loop n).active && decide ((t.loop n).le + 4 = next)) = false := by
      cases ha : (t.loop n).active <;> simp_all
    simp only [Stream.endCheck, this]
    exact ih fun m hm => h m (List.mem_cons_of_mem _ hm)

/-- The stream as the end check of an instruction finds it. -/
theorem Stream.counted_eq (t : Stream) :
    (if t.settled.sealed then { t.settled with sealCount := t.settled.sealCount + 1 } else t.settled) =
      { t with waited := false, waitId := 0, stuck := false, blocked := false, waitsOn := none, held := []
               took := {}, undo := none
               sealCount := if t.sealed then t.sealCount + 1 else t.sealCount } := by
  cases h : t.sealed <;> simp [Stream.settled, h]

theorem Stream.moves_endCheck (t u : Stream) (ve : Bool) (n : Nat)
    (hu : u = { t with waited := false, waitId := 0, stuck := false, blocked := false, waitsOn := none, held := []
                       took := {}, undo := none
                       sealCount := if t.sealed then t.sealCount + 1 else t.sealCount }) :
    t.Moves n (u.endCheck ve (u.pc + BitVec.ofNat 64 n) u.order) := by
  refine ⟨?_, fun h => ?_⟩
  · have hr := Stream.endCheck_rest ve (u.pc + BitVec.ofNat 64 n) u.order u
    generalize u.endCheck ve (u.pc + BitVec.ofNat 64 n) u.order = x at hr
    rw [hu] at hr
    exact hr
  · rw [Stream.endCheck_straight]
    · subst hu; exact ⟨rfl, rfl, rfl, rfl⟩
    · subst hu; exact h

/-- An instruction that does not transfer moves its stream past it, and changes nothing else. -/
theorem State.advance_moves (s : State) (n : Nat) : ∃ x, s.advance n = s.setMe x ∧ s.me.Moves n x :=
  ⟨_, rfl, Stream.moves_endCheck s.me _ s.isVe n (Stream.counted_eq s.me)⟩

theorem State.transfer_lands (s : State) (target : Word) (h : target.toNat % 4 = 0) :
    s.transfer target = s.setMe (s.me.landed target) := by
  have hc := Stream.counted_eq s.me
  have e : s.transfer target = s.setMe
      { (if s.me.settled.sealed then { s.me.settled with sealCount := s.me.settled.sealCount + 1 } else s.me.settled) with
        pc := target } := by
    simp only [State.transfer, State.modMe]
    rw [if_neg (by simp [h])]
  rw [e, hc]
  rfl

/-! ### How a shared instruction ends -/

theorem completes_of_done {i : Instr} {s u : State} {n : Nat} (h : exec i s = .next (State.ends n (.done u))) :
    Completes i s u n := by
  obtain ⟨x, hx, hm⟩ := State.advance_moves u n
  exact ⟨x, by rw [h, State.ends, hx], hm⟩

theorem completes_of_issued {i : Instr} {s u : State} {n : Nat} (h : exec i s = .next (State.ends n (.issued u))) :
    Completes i s u n := by
  obtain ⟨x, hx, hm⟩ := State.advance_moves u n
  exact ⟨x, by rw [h, State.ends, hx], hm⟩

theorem goesTo_of_goto {i : Instr} {s u : State} {target : Word} {n : Nat} (ha : target.toNat % 4 = 0)
    (h : exec i s = .next (State.ends n (.goto u target))) : GoesTo i s u target := by
  rw [GoesTo, h, State.ends, State.transfer_lands u target ha]

/-- An instruction that only writes one general register does just that. -/
theorem writesG_of_put {i : Instr} {s : State} {n : Nat} {d : GReg} {v : Word} (h : exec i s = s.put n d v) :
    WritesG i s n d v := by
  obtain ⟨x, hx, hm⟩ := State.advance_moves (s.setG d v) n
  have hs : (s.setG d v).setMe x = s.setMe x := by simp [State.setG, State.modMe]
  have hme : (s.setG d v).me = s.me.wg d v := State.me_setG s d v
  rw [hme] at hm
  have hg : x.g = (s.me.wg d v).g := by have := hm.rest; rw [this]
  refine ⟨x, by rw [h, State.put, State.ends, hx, hs], fun r => ?_, ⟨?_, ?_⟩, State.sameReads_setMe s x⟩
  · rw [← Stream.rg_wg, Stream.rg, Stream.rg, hg]
  · have := hm.rest
    unfold Stream.wg at this
    split at this <;> (rw [this])
  · have := hm.straight
    unfold Stream.wg at this
    split at this <;> exact this

/-! ### Private instructions (R148) -/

/-- What a private instruction comes to once its wait step is over. -/
theorem State.withPattern_eq {s w : State} {tk : Tk} (n : Nat) (body : Sig → State → End)
    (h : s.afterWait tk = some w) :
    s.withPattern tk n body =
      match body (patSig (s.me.pattern tk)) w with
      | .done t => (t.advance n).finishMe (patSig (s.me.pattern tk))
      | .issued t => t.advance n
      | .goto t target => (t.finishMe (patSig (s.me.pattern tk))).transfer target
      | .wait t stuck => t.stall stuck
      | .trapped t => t := by
  cases hc : s.cur with
  | me c => rw [State.afterWait, hc] at h; exact absurd h (by simp)
  | frame o f => rw [State.afterWait, hc] at h; exact absurd h (by simp)
  | eng c e =>
    have hr : s.afterWait tk = if s.waitsFor tk = true then
        if s.me.owed = [] ∧ (s.bank c).canWait e (s.me.pattern tk) = true then
          some ((s.modBank c fun b => b.takeWait e (s.me.pattern tk)).modMe fun t =>
            { t with waited := true, waitsOn := none, took := s.taking c e (s.me.pattern tk) })
        else none
      else some s := by rw [State.afterWait, hc]
    rw [hr] at h
    have hp : s.withPattern tk n body = if s.waitsFor tk = true then
        match firstOwed s.me.owed with
        | some o => s.report o
        | none =>
          if (s.bank c).canWait e (s.me.pattern tk) then
            match body (patSig (s.me.pattern tk))
              ((s.modBank c fun b => b.takeWait e (s.me.pattern tk)).modMe fun t =>
                { t with waited := true, waitsOn := none, took := s.taking c e (s.me.pattern tk) }) with
            | .done t => (t.advance n).finishMe (patSig (s.me.pattern tk))
            | .issued t => t.advance n
            | .goto t target => (t.finishMe (patSig (s.me.pattern tk))).transfer target
            | .wait t stuck => t.stall stuck
            | .trapped t => t
          else (s.noteWait (patWait (s.me.pattern tk)) (patSwe (s.me.pattern tk)) (patSwi (s.me.pattern tk)) 1).stall true
      else
        match body (patSig (s.me.pattern tk)) s with
        | .done t => (t.advance n).finishMe (patSig (s.me.pattern tk))
        | .issued t => t.advance n
        | .goto t target => (t.finishMe (patSig (s.me.pattern tk))).transfer target
        | .wait t stuck => t.stall stuck
        | .trapped t => t := by
      unfold State.withPattern State.waitsFor
      rw [hc] <;> rfl
    rw [hp]
    by_cases hw : s.waitsFor tk = true
    · rw [if_pos hw] at h ⊢
      by_cases ho : s.me.owed = [] ∧ (s.bank c).canWait e (s.me.pattern tk) = true
      · rw [if_pos ho] at h
        rw [← Option.some.inj h, ho.1, firstOwed]
        exact if_pos ho.2
      · rw [if_neg ho] at h
        exact absurd h (by simp)
    · rw [if_neg hw] at h ⊢
      rw [← Option.some.inj h]

theorem completesP_of_done {i : Instr} {s w u : State} {tk : Tk} {n : Nat} {body : Sig → State → End}
    (hw : s.afterWait tk = some w) (h : exec i s = .next (s.withPattern tk n body))
    (hb : body (patSig (s.me.pattern tk)) w = .done u) : CompletesP i s u tk n := by
  obtain ⟨x, hx, hm⟩ := State.advance_moves u n
  exact ⟨x, by rw [h, State.withPattern_eq n body hw, hb, ← hx], hm⟩

theorem completes_of_issuedP {i : Instr} {s w u : State} {tk : Tk} {n : Nat} {body : Sig → State → End}
    (hw : s.afterWait tk = some w) (h : exec i s = .next (s.withPattern tk n body))
    (hb : body (patSig (s.me.pattern tk)) w = .issued u) : Completes i s u n := by
  obtain ⟨x, hx, hm⟩ := State.advance_moves u n
  exact ⟨x, by rw [h, State.withPattern_eq n body hw, hb, ← hx], hm⟩

end Sys2Proof.Machine
end

