-- ==== Sys2Proof/Tests/Slice0.lean ====
section
/-! SUPPORT.  The model's own tests: words written out from the spec's encodings, ill-formed terms, single steps, and
for each statement a state and operands that meet its hypotheses, at a boundary where it has one. -/

set_option maxRecDepth 100000

namespace Sys2Proof.Tests

open Sys2Proof Sys2Proof.Machine

/-! ### Small states -/

/-- Core 0 with one running stream, which executes. -/
def on (e : Eng) (t : Stream) (b : Bank := {}) : State :=
  { State.reset with
    cores := [(0, { a := { b.set e { t with life := .running } with st := .run } })]
    cur := .eng 0 e }
/-- Call frame 0 of outpost 0, which executes. -/
def framed (t : Stream) (x : Frame := {}) : State :=
  { State.reset with
    outposts := [(0, { frames := [(0, { x with busy := true, st := { t with life := .running } })] })]
    cur := .frame 0 0 }
/-- A load of a path buffer that has still to read. -/
def waitingLoad (id a n : Nat) (dest : RemDest) : PLoad := { id := id, pc := 0, addr := a, n := n, dest := dest }
/-- The general registers of a next state's executing stream. -/
def gOf (o : Answer) (r : GReg) : Word :=
  match o with
  | .next s => s.g r
  | _ => 0
/-- The program counter of a next state's executing stream. -/
def pcOf (o : Answer) : Word :=
  match o with
  | .next s => s.me.pc
  | _ => 0
/-- A property of a next state. -/
def nextIs (o : Answer) (p : State → Bool) : Bool :=
  match o with
  | .next s => p s
  | _ => false

/-! ### Witnesses: the shared subset -/

theorem witness_branches : (on .ce { pc := 0x10 }).me.pc.toNat % 4 = 0 ∧ condHolds 0 ((on .ce {}).g 1) 0 = true ∧
    condHolds 1 ((on .ce {}).g 1) 0 = false ∧ ((on .ce { g := [(1, 0xFFFC)] }).g 1).toNat % 4 = 0 := by decide
theorem witness_condition : condHolds 1 ((on .ce {}).g 1) 0 = false := by decide
theorem witness_loopStarts : (on .ve { pc := 0 }).me.pc.toNat % 4 = 0 ∧
    ((on .ve { g := [(1, 1)] }).g 1).setWidth 32 ≠ 0#32 ∧ ((on .ve { g := [(1, 0x100000000)] }).g 1).setWidth 32 = 0#32 ∧
    (on .ve {}).inOutpost = false := by decide
theorem witness_leaves :
    let s := on .ce { lc := [(3, { active := true, le := 0xFFFFFFFFFFFFFFFC })] }
    (s.me.loop 3).active = true ∧ ((s.me.loop 3).le + 4).toNat % 4 = 0 ∧ (s.me.loop 0).active = false := by decide
theorem witness_loopEnds :
    let s := on .ce { pc := 8, order := [0, 1], lc := [(0, { active := true, le := 8, count := 2 }), (1, {})] }
    s.me.order = [0, 1] ∧ (s.me.loop 0).active = true ∧ (s.me.loop 0).le = s.me.pc ∧ (s.me.loop 0).rot = false ∧
      (s.me.loop 0).count ≠ 1 := by decide
theorem witness_loopEnds_nested :
    let s := on .ce { pc := 8, order := [0, 1]
                      lc := [(0, { active := true, le := 8, count := 1 }), (1, { active := true, le := 8, count := 3 })] }
    s.me.order = [0, 1] ∧ (s.me.loop 0).active = true ∧ (s.me.loop 0).le = s.me.pc ∧ (s.me.loop 0).count = 1 ∧
      (s.me.loop 1).active = true ∧ (s.me.loop 1).le = s.me.pc ∧ (s.me.loop 1).rot = false ∧ (s.me.loop 1).count ≠ 1 := by
  decide
theorem witness_loopEnds_last :
    let s := on .ce { pc := 8, order := [0, 1], lc := [(0, { active := true, le := 8, count := 1 }), (1, {})] }
    s.me.order = [0, 1] ∧ (s.me.loop 0).active = true ∧ (s.me.loop 0).le = s.me.pc ∧ (s.me.loop 0).count = 1 ∧
      (s.me.loop 1).active = false := by decide
theorem witness_localLoads :
    let s := on .xe { g := [(1, 0x1FFFF8)] }
    let at0 := (s.g 1 + (0#10).signExtend 64).toNat
    ldSizeOk 6 = true ∧ s.cur = .eng 0 .xe ∧ at0 % sizeBytes 6 = 0 ∧ (partRange s.part).1 ≤ at0 ∧
      at0 + sizeBytes 6 ≤ (partRange s.part).2 := by decide
/-- What a load meets: a load of the same bytes that has still to read, bytes read ahead, an error, and none of these. -/
theorem witness_loadsAt :
    let s := fun (t : Stream) => on .xe t
    let q : PLoad := waitingLoad 1 0x110000001008 8 (.greg 3 6)
    (s { lazy := true }).me.lazy = true ∧ (s { loads := [q] }).me.lazy = false ∧
      (s { loads := [q] }).readFirst 0x11000000100F 1 = true ∧ (s { loads := [q] }).readFirst 0x110000001010 8 = false ∧
      (s { pre := [(0x110000001008, [1, 2])] }).readFirst 0x110000001008 2 = false ∧
      (s { pre := [(0x110000001008, [1, 2])] }).me.ahead 0x110000001008 2 = some [1, 2] ∧
      (s {}).readFirst 0x110000001008 2 = false ∧ (s {}).me.ahead 0x110000001008 2 = none ∧
      (s {}).eccHit 0x110000001008 2 = false ∧
      ({ s {} with eccBad := [(0x110000001000 / 64, true)] } : State).eccHit 0x110000001008 2 = true := by decide
theorem witness_readSteps :
    let l : PLoad := waitingLoad 2 0x1008 8 (.greg 3 6)
    let s := on .ve { loads := [waitingLoad 1 0x1000 8 (.greg 4 6), l] }
    s.cur = .eng 0 .ve ∧ (s.bstrm 0 (s.core 0).runB .ve).loads[1]? = some l ∧ l.dest = .greg 3 6 ∧ l.amo = none ∧
      (∀ x ∈ (s.bstrm 0 (s.core 0).runB .ve).loads.take 1, overlap x.addr x.n l.addr l.n = false) ∧
      s.eccHit l.addr l.n = false := by decide
theorem witness_localLoads_frame :
    let s := framed { g := [(1, 0x1FFF)] }
    let at0 := (s.g 1 + (0#10).signExtend 64).toNat
    ldSizeOk 1 = true ∧ s.cur = .frame 0 0 ∧ at0 % sizeBytes 1 = 0 ∧ at0 + sizeBytes 1 ≤ 0x2000 := by decide
theorem witness_spill : ldSizeOk 6 = true ∧ stSizeOk 6 = true ∧ (0xFF8#12).toNat % sizeBytes 6 = 0 := by decide
theorem witness_localStores :
    let s := on .ve { g := [(1, 0x1FFFFC)] }
    let at0 := (s.g 1 + (0#10).signExtend 64).toNat
    stSizeOk 4 = true ∧ at0 % sizeBytes 4 = 0 ∧ (partRange s.part).1 ≤ at0 ∧ at0 + sizeBytes 4 ≤ (partRange s.part).2 := by
  decide
theorem witness_localTraps_align : ((on .ce { g := [(1, 2)] }).g 1 + (0#10).signExtend 64).toNat % sizeBytes 4 ≠ 0 := by
  decide
theorem witness_localTraps_range :
    let w := (on .ce { g := [(1, 0x1FFFFC)] }).g 1 + (4#10).signExtend 64
    w.toNat % sizeBytes 4 = 0 ∧ 0x200000 < w.toNat + sizeBytes 4 := by decide
theorem witness_localTraps_part :
    let s := on .ce { g := [(1, 0x100000)] } { job := { part := 1 } }
    let w := s.g 1 + (0#10).signExtend 64
    w.toNat % sizeBytes 4 = 0 ∧ (w.toNat < (partRange s.part).1 ∨ (partRange s.part).2 < w.toNat + sizeBytes 4) := by decide

/-! ### Witnesses: handles, ordering, tokens, traps -/

/-- A handle that may be read, written and used by atomics, of 4 KiB at an address. -/
def hAt (a : BitVec 57) : Handle := mkHandle 0 false 0 7 0 a

theorem witness_handleChecks_invalid :
    (on .ce {}).handleLocked 1 = false ∧ Handle.v ((on .ce {}).h 1) = false := by decide
theorem witness_handleChecks_state :
    let s := on .ce { h := [(1, mkHandle 1 false 0 7 0 0), (2, mkHandle 2 false 0 7 0 0)] }
    s.cur = .eng 0 .ce ∧ s.handleLocked 1 = false ∧ Handle.v (s.h 1) = true ∧ Handle.st (s.h 1) = 1 ∧
      Handle.v (s.h 2) = true ∧ Handle.st (s.h 2) = 2 := by decide
theorem witness_handleChecks_bounds :
    let s := on .ce { h := [(1, hAt 0x1000)], g := [(1, 0xFFC), (2, 0xFFFFFFFFFFFFFFFF), (3, 2)] }
    let off : GReg → Int := fun r => (s.g r).toInt + ((0#5).signExtend 64).toInt
    Handle.v (s.h 1) = true ∧ Handle.st (s.h 1) = 0 ∧ Handle.bytes (s.h 1) < off 1 + sizeBytes 6 ∧ off 2 < 0 ∧
      0 ≤ off 1 ∧ off 1 + sizeBytes 4 ≤ Handle.bytes (s.h 1) ∧ off 1 % sizeBytes 4 = 0 ∧ off 3 % sizeBytes 4 ≠ 0 := by
  decide
theorem witness_handleChecks_window :
    let s := on .ce { h := [(1, hAt 0x11002FFFF000), (2, mkHandle 0 false 0 0 0 0x1000)] }
    let off : Int := (s.g 0).toInt + ((0#5).signExtend 64).toInt
    let target : Int := (Handle.addr (s.h 1)).toNat + off
    Handle.remote (s.h 1) = false ∧ 0x110000000000 ≤ target ∧ target < 0x110030000000 ∧
      ¬(windowBase 0 ≤ target ∧ target + sizeBytes 4 ≤ windowBase 0 + 0x200000) ∧ off % sizeBytes 4 = 0 ∧
      (Handle.perm (s.h 2)).getLsbD 0 = false ∧ (Handle.perm (s.h 2)).getLsbD 1 = false ∧
      Handle.v (s.h 2) = true ∧ Handle.st (s.h 2) = 0 ∧ off + sizeBytes 4 ≤ Handle.bytes (s.h 2) := by decide
/-- Core 0 of a package in a group, with a remote handle in register 2. -/
def grouped : State :=
  { on .ce { h := [(1, hAt 0x1000), (2, mkHandle 0 true 0 7 0 0x80001000)], g := [(1, 0xFF8), (3, 5)] } with
    mgmt := { peerid := 0x1001 } }
theorem witness_handleLoadsAndStores :
    grouped.chkHandle 1 0xFF8 8 8 1 = .ok ∧ Handle.remote (grouped.h 1) = false ∧ grouped.eccHit 0x1FF8 8 = false ∧
      { grouped with eccBad := [(0x1FF8 / 64, true)] }.eccHit 0x1FF8 8 = true ∧ grouped.chkHandle 1 0xFF8 8 8 2 = .ok ∧
      (∀ i, i < 8 → mapped (0x1FF8 + i) = true) := by decide
theorem witness_handleLoadsAndStores_remote :
    grouped.chkHandle 2 0xFF8 8 8 1 = .ok ∧ Handle.remote (grouped.h 2) = true ∧
      grouped.mgmt.peerid.getLsbD 12 = true ∧
      (grouped.remoteSend 0 false .ce 0 0 .sc (State.fabAddr (grouped.h 2) 0xFF8) (.load 8) (.greg 3 6)).isSome = true ∧
      grouped.chkHandle 2 0xFF8 8 8 2 = .ok := by decide
theorem witness_acquireAndRelease :
    let s := on .ce { g := [(1, 0x1FFFF8)] }
    let at0 := (s.g 1 + (0#13).signExtend 64).toNat
    s.me.owed = [] ∧ at0 % sizeBytes 6 = 0 ∧ (partRange s.part).1 ≤ at0 ∧ at0 + sizeBytes 6 ≤ (partRange s.part).2 ∧
      s.readFirst (windowBase 0 + at0) (sizeBytes 6) = false ∧ s.eccHit (windowBase 0 + at0) (sizeBytes 6) = false ∧
      s.fenceReady (1 ||| s.ownMask) = true ∧ (on .ae { near := [{ id := 1, seq := 1, pc := 0, w1 := 0, kind := .nseq 0 [] }] }).fenceReady
        (0x10 ||| s.ownMask) = false := by decide
/-- A stream with a request that is not over. -/
def asked : Stream := { near := [{ id := 1, seq := 1, pc := 0, w1 := 0, kind := .nseq 0 [] }] }
theorem witness_fencesWait :
    let s := on .ae asked
    s.me.owed = [] ∧ s.fenceReady 0x10 = false ∧ (on .ve {}).fenceReady (on .ve {}).ownMask = true ∧
      (on .ve {}).fenceReady 0x3F = true := by decide
theorem witness_fence_waits : (on .ae { reqs := [{ id := 1, seq := 1, pc := 0, w1 := 0, w2 := 0, kind := .qld 0 0 1 1 none }] }).fenceReady
    (on .ae {}).ownMask = false := by decide
theorem witness_waitc :
    let s := { on .ce { g := [(1, 8), (2, 9)] } with cyc := 8 }
    (s.g 1).toNat ≤ s.cyc % 2 ^ 64 ∧ s.cyc % 2 ^ 64 < (s.g 2).toNat := by decide
theorem witness_kmov : (on .ve {}).inOutpost = false ∧ (framed {}).inOutpost = true := by decide
theorem witness_tokens :
    let s := on .ve { pc := 4 } { lines := [(4 * Eng.ce.num + Eng.ve.num, 1), (4 * Eng.ve.num + Eng.ce.num, 15)] }
    let b := s.bank 0
    s.me.owed = [] ∧ s.me.sigs = [] ∧ maskLines .ve 1 = [.ce] ∧ (∀ x ∈ maskLines .ve 1, 1 ≤ b.line x .ve) ∧
      (∃ x ∈ maskLines .ve 2, b.line x .ve = 0) ∧ (∀ x ∈ maskLines .ve 1, b.line .ve x < 16) := by decide
theorem witness_tokens_full :
    let s := on .ve {} { lines := [(4 * Eng.ve.num + Eng.ce.num, 16)] }
    ∃ x ∈ maskLines .ve 1, 16 ≤ (s.bank 0).line .ve x := by decide
theorem witness_systemRegisters :
    let s := on .ve { g := [(1, 0x10000)], trapcode := 0x3000B }
    s.cur = .eng 0 .ve ∧ s.me.owed = [] ∧ State.stepOpen s.me = false ∧ s.me.inTrap = true ∧ (s.g 1).getLsbD 16 = true ∧
      (s.g 2).getLsbD 16 = false := by decide
theorem witness_trapEntry :
    let s := on .xe { pc := 8, trapEntry := some 0x40 }
    s.cur = .eng 0 .xe ∧ s.me.trapEntry = some 0x40 ∧ s.me.inTrap = false := by decide
theorem witness_trapEnds : (on .xe { trapEntry := some 0x40, trapcode := 0x3000B }).me.inTrap = true ∧
    (on .xe {}).me.trapEntry = none := by decide
theorem witness_trapReturn :
    let s := on .xe { trappc := 0xFFFFFFFFFFFFFFFC, trapcode := 0x3000B }
    s.inOutpost = false ∧ s.me.inTrap = true ∧ s.me.trappc.toNat % 4 = 0 ∧ (on .xe {}).me.inTrap = false := by decide
theorem witness_badTargets :
    let s := on .ce { g := [(1, 0xFFFF), (2, 0x10001)] }
    (s.g 1).toNat % 4 ≠ 0 ∧ (s.g 1).toNat < s.imemSize ∧ (s.g 2).toNat % 4 ≠ 0 ∧ s.imemSize ≤ (s.g 2).toNat := by decide
/-- Core 0 with a resident gang that is asked to stop, and one of its slots. -/
def preempted (t : Stream) : State :=
  { on .ce t { job := { gang := 1, slot := 3 } } with
    gangs := [{ id := 1, cand := 1, seq := 0, ctx := 0, cluster := 0, cores := [0], eff := 5, started := 0, preempt := some 0 }]
    slots := [{ ctx := 0, idx := 3, cand := 1, seq := 0, rank := 0 }] }
theorem witness_regions :
    (on .ce {}).me.sealed = false ∧ (on .ce {}).me.waitId ≠ 1 ∧ (preempted { sealed := true }).me.sealed = true ∧
      (preempted { sealed := true }).preemptPending 0 = true ∧ (framed {}).cur = .frame 0 0 := by decide
theorem witness_streamEnds :
    (on .ce { life := .running }).allOver 0 .ce = true ∧ (on .ce {}).me.owed = [] ∧
      (∀ f, f ≠ Eng.ce → (((on .ce {}).bank 0).get f).life ≠ .running) ∧ (on .ce {}).gang ((on .ce {}).bank 0).job.gang = none ∧
      (on .ae asked).allOver 0 .ae = false := by
  refine ⟨by decide, by decide, fun f _ => by cases f <;> first | contradiction | decide, by decide, by decide⟩
theorem witness_streamEnds_others :
    ((((on .ce {} { xe := { life := .running } }).bank 0)).get .xe).life = .running := by decide

/-! ### Witnesses: token patterns, the control engine and calls -/

/-- A pattern that waits on the line of `ce` and on semaphore 2, and signals `ce` and semaphore 3. -/
def pat : W32 := 0x00312111
/-- Its bank: a token and a unit to take. -/
def patBank : Bank := { lines := [(4 * Eng.ce.num + Eng.ve.num, 1)], sems := [(2, 1)] }
/-- Bytes placed in memory. -/
def poke (s : State) (a : Nat) (bs : List Byte) : State := { s with mem := s.mem.writeN a bs }
theorem witness_pattern : patWait pat = 1 ∧ patSwe pat = true ∧ patSwi pat = 2 ∧ patSig pat = ⟨1, true, 3⟩ := by decide
theorem witness_patternSteps :
    let s := on .ve { tk := [(1, pat)] } patBank
    let b := s.bank 0
    s.waitsFor 1 = true ∧ s.me.owed = [] ∧ (∀ x ∈ maskLines .ve (patWait (s.me.pattern 1)), 1 ≤ b.line x .ve) ∧
      1 ≤ b.semFor .ve (patSwi (s.me.pattern 1)) ∧ b.canSignal .ve ⟨1, true, 3⟩ = true ∧
      (on .ve { waited := true }).me.waited = true := by decide
theorem witness_patternSteps_blocked :
    let s := on .ve { tk := [(1, pat)] } { lines := [(4 * Eng.ve.num + Eng.ce.num, 16)], sems := [(3, 254)] }
    s.waitsFor 1 = true ∧ (∃ x ∈ maskLines .ve (patWait (s.me.pattern 1)), (s.bank 0).line x .ve = 0) ∧
      (s.bank 0).canSignal .ve ⟨1, true, 3⟩ = false ∧ (s.bank 0).canSignal .ve ⟨0, true, 3⟩ = true := by decide
/-- Sixteen commands. -/
def mq16 : List MqEntry := List.replicate 16 { record := 0, pc := 0, rm := 0, fte := 0, h := 0 }
theorem witness_matrixQueue :
    let s := on .ce { pc := 8, g := [(4, 9), (5, 0), (6, 0), (7, 0)] } { mq := mq16.take 15, drop := 3 }
    s.cur = .eng 0 .ce ∧ s.afterWait 0 = some s ∧ (s.mxCheck (mqRecord s.me 4)).1 = .ok ∧ (s.bank 0).mq.length < 16 ∧
      16 ≤ ((on .ce {} { mq := mq16 }).bank 0).mq.length ∧ ((on .ce {}).mxCheck (mqRecord (on .ce {}).me 0)).1 = .ok := by
  decide
theorem witness_semaphores :
    let s := on .ce {} { sems := [(3, 64), (4, 191), (5, 192)] }
    s.me.owed = [] ∧ (63#6).toNat + 1 ≤ (s.bank 0).sem 3 ∧ (s.bank 0).sem 2 < (0#6).toNat + 1 ∧
      (63#6).toNat + 1 ≤ (s.bank 0).semFor .ce 3 ∧ (s.bank 0).semFor .ce 2 < (0#6).toNat + 1 ∧
      (s.bank 0).sem 4 + ((63#6).toNat + 1) ≤ 255 ∧ 255 < (s.bank 0).sem 5 + ((63#6).toNat + 1) := by decide
theorem witness_bucketChoice : bucketOf [8, 4, 4] 3 = some 1 ∧ bucketOf [8, 4] 9 = none := by decide
/-- A bucket table of two entries, (8, 0x40) and (4, 0x80), at 0 of core scratch. -/
def buckets : State :=
  poke (on .ce { g := [(1, 3)] }) (windowBase 0)
    (natBytes 8 2 ++ natBytes 4 8 ++ natBytes 4 0x40 ++ natBytes 4 4 ++ natBytes 4 0x80)
theorem witness_bucketSelect :
    let s := buckets
    let m := s.scratchNat .sc 0 2
    let tab := (List.range m).map fun i => s.scratchNat .sc (0 + 8 + 8 * i) 8
    m = 2 ∧ s.chkScratch 0 8 8 = .ok ∧ s.chkScratch 0 (8 + 8 * m) 8 = .ok ∧ bucketOf (tab.map (· % 2 ^ 32)) 3 = some 1 ∧
      tab.getD 1 0 / 2 ^ 32 % 4 = 0 := by decide
/-- A walk record of one dimension of one invocation, at 0 of core scratch. -/
def walkRec : List Byte := natBytes 8 0x1000 ++ natBytes 8 7 ++ [1, 1, 5, 0] ++ natBytes 4 0 ++ natBytes 24 1 ++ natBytes 12 1 ++ natBytes 4 0
/-- A control engine with that record, whose queue has priority 3. -/
def launcher : State :=
  { poke (on .ce {}) (windowBase 0) walkRec with ctxs := [(0, { sqs := [(0, { prio := 3 })] })] }
theorem witness_launch :
    let s := launcher
    s.chkScratch 0 64 64 = .ok ∧ (parseWalk (s.scratchBytes .sc 0 64)).isSome = true ∧ s.fenceReady 1 = true ∧
      (parseWalk (s.scratchBytes .sc 0 64)).map (fun r => ((s.releasePaths 1 5).placeLaunch (s.bank 0).job
        { r with prio := 3 } ((s.scratchBytes .sc 0 64).set 18 (BitVec.ofNat 8 3))).1) = some (some 0) := by decide
theorem witness_ftw : State.ftReserved ((0#64).extractLsb' 0 32) = false := by decide
/-- Core 0 with a resident gang, and a candidate of effective priority `n` that waits for cores: three dies are under a
thermal trip, and every other cluster of die 0 has a fenced core. -/
def yielding (n : Nat) : State :=
  { preempted {} with
    gangs := (preempted {}).gangs.map fun g => { g with preempt := none }
    mgmt := { trips := 0xE, health := { fenced := (List.range 23).map fun i => (4 * i + 4, true) } }
    ctxs := [(0, { ckcnt := 8 })]
    cands := [{ id := 2, ctx := 0, sq := 0, place := .pool, eff := n
                walk := { kit := 0, arg := 0, ndim := 1, gang := 4, prio := n, ecls := 0, order := [0], ext := [1], str := [1] } }] }
theorem witness_yield :
    ((preempted {}).gang ((preempted {}).bank 0).job.gang).isSome = true ∧ (preempted {}).preemptPending 0 = true ∧
      (yielding 4).preemptPending 0 = false ∧ (yielding 4).waitsAbove 5 = false := by decide
theorem witness_yield_waits : (yielding 5).waitsAbove 5 = true := by decide
/-- A stream with a call tag in a state. -/
def called (x : CallState) : State := on .ce { calls := [(0, { st := x, rb := 61, rn := 3, issued := 0 })] }
theorem witness_callsIssue :
    let s := on .ce { h := [(1, hAt 0x1000)] }
    s.afterWait 0 = some s ∧ s.chkHandle 1 (s.g 0).toInt 1 1 1 = .ok ∧ Handle.remote (s.h 1) = false ∧
      inWindow (Handle.addr (s.h 1)).toNat = false ∧ freeTag s.me = some 0 ∧ s.preemptPending 0 = false := by decide
theorem witness_callsReturn :
    let n := ((on .ce {}).g 0).toNat % 16
    ((called (.ready [1, 2, 3])).me.call n).st = .ready [1, 2, 3] ∧ (61#6).toNat + (3#3).toNat ≤ 64 ∧
      ((called .free).me.call n).st = .free ∧ ((called .flight).me.call n).st = .flight ∧
      ((called (.fault 8 0 0 0)).me.call n).st = .fault 8 0 0 0 ∧
      ({ called .flight with cyc := 11999999 } : State).cyc < ((called .flight).me.call n).issued + 12000000 := by decide

/-! ### Witnesses: the access engine -/

/-- A tensor descriptor of 16 by 16 FP32 elements, handle 1, and, with a hallmark, the block of handle 2. -/
def descBytes (hv : Bool) : List Byte :=
  [0, 2, 1, 0, if hv then 0x82 else 0, 0] ++ natBytes 2 (if hv then 7 else 0) ++ natBytes 4 16 ++ natBytes 4 16 ++ natBytes 4 1 ++
    natBytes 4 1 ++ natBytes 8 64 ++ natBytes 32 0
/-- A tensor parameter block of one granule in 4 KiB pages from 0x10000, armed. -/
def tpbBytes : List Byte :=
  natBytes 2 7 ++ [1, 0] ++ natBytes 8 5 ++ [0, 1, 0, 0] ++ natBytes 8 1024 ++ natBytes 8 0x20000 ++ natBytes 8 0x30000 ++
    natBytes 8 0 ++ natBytes 8 0x40000 ++ natBytes 8 0x50000 ++ natBytes 24 0 ++ natBytes 4 0x3F800000
/-- An access engine with a descriptor at 0 of its core scratch. -/
def access (hv : Bool) (t : Stream := {}) : State :=
  poke (on .ae { t with h := [(1, hAt 0x20000), (2, hAt 0x10000)] }) (windowBase 0) (descBytes hv)
theorem witness_tilesIssue :
    let w := access false
    let desc : Desc := ⟨0, 2, 1, 0, false, 0, false, 0, [16, 16, 1, 1], [64, 0, 0], 0, 0⟩
    let box : TileBox := { d := desc, c := [0, 0, 0, 0], tw := 16, th := 16 }
    w.afterWait 0 = some w ∧ w.chkScratch 0 64 64 = .ok ∧ parseDesc (w.scratchBytes .sc 0 64) = some desc ∧ box.ok = true ∧
      w.tileBad box 0 (w.g 4) false false false = false ∧ w.tileBad box 0 (w.g 4) false true false = false ∧
      w.tileBad box 0 (w.g 4) false false true = false ∧ 8 ≤ Num.width desc.fmt ∧ desc.s 1 % 64 = 0 ∧ desc.s 1 ≤ 0x1000000 ∧
      w.tileHandles box 1 = .ok ∧ w.tileHandles box 2 = .ok ∧ w.chkScratch 0 (tileBytes 0 16 16) 64 = .ok ∧
      w.me.reqs.length < 32 := by decide
theorem witness_tileFmt :
    (access false).tileFmt ⟨0, 2, 1, 0, false, 0, false, 0, [16, 16, 1, 1], [64, 0, 0], 0, 0⟩ 0 0 0 = .ok (0, 0, 0) := rfl
/-- Thirty-two outstanding requests. -/
def reqs32 : List Req := (List.range 32).map fun i => { id := i, seq := i, pc := 0, w1 := 0, w2 := 0, kind := .qld 2 0 8 32 none }
theorem witness_requestsFull : 32 ≤ (access false { reqs := reqs32 }).me.reqs.length := by decide
theorem witness_feedsAndGathers :
    let w := on .ae { g := [(1, 8 + 65536 * 32), (2, 0x100), (4, 2), (5, 0x4000)], h := [(1, hAt 0x1000)] }
    w.g 1 = BitVec.ofNat 64 (8 + 65536 * 32) ∧ w.chkScratch (w.g 5).toNat (8 * 32 * fmtSize 2) 16 = .ok ∧
      w.chkScratch (w.g 2).toNat (8 * (32 / 32)) 1 = .ok ∧ ((w.g 2).extractLsb' 8 7).toNat = 1 ∧
      w.chkScratch (w.g 5).toNat 1 1 = .ok ∧ (w.bank 0).fifo.length < 32 ∧
      w.g (3 + 1) = BitVec.ofNat 64 (2 + 4294967296 * 0) ∧ w.chkScratch (w.g 3).toNat (4 * 2) 4 = .ok ∧
      (∀ o ∈ (List.range 2).map fun j => 0 + w.scratchNat .sc ((w.g 3).toNat + 4 * j) 4 * gatherSize 5,
        w.chkHandle 1 o (gatherSize 5) (min (gatherSize 5) 64) 2 = .ok) ∧
      w.chkScratch (w.g 5).toNat (2 * gatherSize 5) (min (gatherSize 5) 64) = .ok := by decide
theorem witness_fifoFull :
    32 ≤ ((on .ae {} { fifo := List.replicate 32 ⟨0, []⟩ }).bank 0).fifo.length := by decide
theorem witness_atomicResults :
    let w := on .ae { g := [(1, 0x1FFFF8), (2, 0xFF8)], h := [(1, hAt 0x1000)] }
    w.chkScratch (w.g 1).toNat (amoSize 1) (amoSize 1) = .ok ∧ w.chkHandle 1 (w.g 2).toInt (amoSize 1) (amoSize 1) 4 = .ok ∧
      Handle.remote (w.h 1) = false ∧ w.eccHit 0x1FF8 8 = false ∧ (∀ i, i < 8 → mapped (0x1FF8 + i) = true) ∧
      w.readFirst 0x1FF8 8 = false ∧ w.landHeld w.party .sc w.nextId [(0x1FF8, 8)] = false ∧
      (∀ i, i < 8 → (w.stepOver w.party .sc w.nextId [(0x1FF8, 8)]).tpbGuarded (0x1FF8 + i) = false) := by decide
/-- A context whose bounds entry 0 admits addresses below 4096 for reading. -/
def bounded (t : Stream) : State := { on .ae t with ctxs := [(0, { bounds := [(0, 1 ||| (1 <<< 1) ||| (1 <<< 76))] })] }
theorem witness_translationsStart :
    let s := bounded { g := [(1, 4095), (2, 4096)], xlates := [⟨3, 0, 0, 0, 0, 0, 0, none, false, true, []⟩] }
    let bound := s.boundOf (s.bank 0).job.ctx (ptrRid (s.g 1))
    boundAdmits bound (ptrVa (s.g 1)) 1 = true ∧ boundAdmits bound (ptrVa (s.g 2)) 1 = false ∧
      boundAdmits bound (ptrVa (s.g 1)) 2 = false ∧ s.me.waitId = 0 ∧
      (bounded { waitId := 4, xlates := s.me.xlates }).me.waitId ≠ 0 ∧ (∀ x ∈ s.me.xlates, x.id ≠ 4) ∧
      (∃ x ∈ s.me.xlates, x.id = 3) := by decide
theorem witness_invalidations :
    let w := on .ae { h := [(1, hAt 0x1000)] }
    let v := (w.invalidate 0 .all).2
    w.me.waitId = 0 ∧ (∀ y ∈ v.invals, y.id = w.nextId → v.invOpen y = false) ∧ (w.bank 0).busy = true ∧
      (∀ y ∈ w.invals, y.id ≠ 5) := by decide
/-- A stream with a near-memory operation posted through a handle. -/
def posted : Stream := { near := [{ id := 0, seq := 0, pc := 0, w1 := 0, kind := .namo .add 1 (hAt 0x1000) 0 1 0 3 }] }
theorem witness_invalidationWaits :
    let w := on .ae posted
    let v := (w.invalidate 0 .all).2
    ∃ y ∈ v.invals, y.id = w.nextId ∧ v.invOpen y = true := by decide
theorem witness_handleMoves :
    let w := on .ae { h := [(1, hAt 0x1000), (2, mkHandle 1 false 0 7 0 0)] }
    w.handleLocked 1 = false ∧ Handle.v (w.h 3) = false ∧ Handle.st (w.h 1) ≠ 1 ∧
      ((w.bank 0).get (Eng.ofCode 1)).life ≠ .off ∧ Handle.v (w.h 2) = true ∧ Handle.st (w.h 2) = 1 := by decide
/-- An access engine whose descriptor names the tensor of the block at 0x10000. -/
def stepper : State := poke (access true) 0x10000 tpbBytes
theorem witness_namesTensor :
    let d : Desc := ⟨0, 2, 1, 0, false, 2, true, 7, [16, 16, 1, 1], [64, 0, 0], 0, 0⟩
    ∃ t, (∀ p, p = .sc ∨ p = .near → stepper.NamesTensor p 0 d t) ∧ (stepper.tensorRead t).chkHandle 3 0 0 1 1 ≠ .ok := by
  refine ⟨parseTpb 0x10000 (stepper.homeBytes 0x10000 256), ?_, by decide⟩
  rintro p (rfl | rfl) <;> exact ⟨by decide, by decide, by decide, by decide, by decide, by decide, by rfl⟩
theorem witness_weightSteps :
    let t := parseTpb 0x10000 (stepper.homeBytes 0x10000 256)
    let s := poke (on .ae { h := [(1, hAt 0x20000), (2, hAt 0x10000), (3, hAt 0x60000)] }) (windowBase 0) (descBytes true)
    stepper.me.reqs.length < 32 ∧ stepper.me.sealed = false ∧ stepper.preemptPending 0 = false ∧
      Handle.remote (s.h 3) = false ∧ (s.tensorRead t).chkHandle 3 (s.g 0).toInt (4 * t.nelem) 64 1 = .ok := by decide
theorem witness_weightSteps_preempted :
    let s := { stepper with
      cores := [(0, { a := { ae := { stepper.me with life := .running }, st := .run, job := { gang := 1, slot := 3 } } })]
      gangs := (preempted {}).gangs }
    s.me.sealed = false ∧ s.preemptPending 0 = true := by decide
theorem witness_nearReduction :
    let w := on .ae { g := [(3, 0x0001000000001000)], h := [(1, hAt 0x1000)] }
    let ctl := w.g 3
    nearCount w.me < 64 ∧ w.chkScratch 0 64 64 = .ok ∧ ctl.extractLsb' 21 11 = 0 ∧ ctl.extractLsb' 36 4 = 0 ∧
      ctl.extractLsb' 46 2 = 0 ∧ ctl.extractLsb' 53 11 = 0 ∧ ctl.extractLsb' 48 5 = 1#5 ∧ Handle.remote (w.h 1) = false ∧
      ((ctl.extractLsb' 40 6).toNat + 1) * 64 = 64 ∧ (ctl.extractLsb' 0 21).toNat = 0x1000 ∧ ctl.extractLsb' 32 4 = 0 := by
  decide
theorem witness_nearReduction_rows :
    let w := on .ae { g := [(3, 0x0001000000001000)], h := [(1, hAt 0x1000)] }
    w.scratchNat .sc 0 4 = 0 ∧ w.chkHandle 1 ((w.g 0).toInt + 0 * 64) 64 64 1 = .ok ∧ w.chkScratch 0x1000 (2 * 64) 64 = .ok := by
  decide
/-- A sequenced program of one dot product of one BF16 pair. -/
def seqBytes : List Byte :=
  [2, 0, 1] ++ natBytes 5 0 ++ natBytes 8 0 ++ natBytes 8 64 ++ natBytes 8 128 ++
    (List.range 5).flatMap (fun _ => natBytes 2 1 ++ natBytes 2 1 ++ natBytes 12 0) ++ natBytes 16 0
theorem witness_nearPosts :
    let w := poke (on .ae { g := [(2, 4294967296 * 1023)], h := [(1, hAt 0x1000)] }) (windowBase 0) seqBytes
    w.g 2 = BitVec.ofNat 64 (0 + 4294967296 * (1024 - 1)) ∧ w.chkHandle 1 (w.g 0).toInt (4 * 1024) 4 4 = .ok ∧
      w.chkScratch 0 (4 * 1024) 4 = .ok ∧ w.chkHandle 1 (w.g 0).toInt (amoSize 1) (amoSize 1) 4 = .ok ∧
      w.chkScratch (w.g 0).toNat 128 128 = .ok ∧ w.preemptPending 0 = false := by decide
theorem witness_nearSequence :
    let w := poke (on .ae { h := [(1, hAt 0x1000)] }) (windowBase 0) seqBytes
    ∃ q, parseSeq (w.scratchBytes .sc 0 128) = some q ∧ Handle.remote (w.h q.ha) = false ∧
      (∀ x ∈ q.extents, w.chkHandle q.ha x.1 x.2 1 3 = .ok) ∧
      (∀ x ∈ q.extents, inStack ((Handle.addr (w.h q.ha)).toNat / 0x1000000000)
        (((Handle.addr (w.h q.ha)).toNat : Int) + x.1).toNat x.2 = true) :=
  ⟨⟨2, 0, 1, 0, 64, 128, List.replicate 5 ⟨1, 1, 0, 0, 0, 0⟩⟩, by decide⟩
theorem witness_nearFences :
    nearPosted (on .ae {}).me = 0 ∧ (on .ae {}).me.owed = [] ∧ nearPosted (on .ae posted).me ≠ 0 ∧
      (31#64).toNat < 32 := by decide
/-- An access engine's fence, with and without a tile-class request outstanding. -/
theorem witness_accessFence :
    (on .ae {}).fenceReady (on .ae {}).ownMask = true ∧ (on .ae {}).me.reqs = [] ∧ (on .ae { reqs := reqs32 }).me.reqs ≠ [] := by decide
/-- R311: the fence of an access engine waits while a `TUPD` is not finished. -/
theorem test_fence_waits_update :
    let q : Req := { id := 1, seq := 1, pc := 0, w1 := 0, w2 := 0
                     kind := .update false ⟨0, 2, 1, 0, false, 2, true, 7, [16, 16, 1, 1], [64, 0, 0], 0, 0⟩ 0 0 0 0 }
    nextIs (exec (.fence 0) (on .ae { reqs := [q] })) (fun s => s.me.pc = 0 ∧ s.me.blocked) = true := by decide

/-! ### Witnesses: the vector engine -/

theorem witness_vectorArithmetic :
    ((on .ve {}).vResolve (vFloats ++ vInts) 0).isSome = true ∧ ((on .ve {}).vResolve (vFloats ++ vInts) 7).isSome = true ∧
      ((on .ve { ft := [(0, 0x80000000)] }).vResolve (vFloats ++ vInts) 15).isSome = true ∧ isFlt 0 = true ∧ isFlt 7 = false ∧
      vInts.contains 10 = true := by decide
theorem witness_noTraps : (on .ve {}).noTraps := ⟨by decide, by decide, by decide⟩
theorem witness_vectorRounding :
    (planVwadd 0 8 12 1).legal {} = true ∧ (planVwmul 0 8 12 1).legal {} = true ∧ (planVwfma 0 8 12 8).legal {} = true ∧
      (planVcvt 0 8 1 0).legal {} = true ∧ (planVnrw 0 8 0 1).legal {} = true ∧ (planVqnt 0 8 0 0).legal {} = true ∧
      (planVdqt 0 8 0).legal {} = true ∧ (planVdrop 0 8 2 0).legal {} = true ∧ (planVrsum 0 8 9).legal {} = true ∧
      (planVscan 0 8 0).legal {} = true ∧ (planVsegr 0 8 1 0).legal {} = true ∧ (planVexp2 0 8).legal {} = true ∧
      (planVlog2 0 8).legal {} = true ∧ (planVrcp 0 8).legal {} = true ∧ (planVrsq 0 8).legal {} = true ∧
      (planVexp 0 8).legal {} = true ∧ (planVtanh 0 8).legal {} = true ∧ (planVsig 0 8).legal {} = true ∧
      (planVgelu 63 63).legal {} = true := by decide
theorem witness_vectorExact :
    (planVabs 0 8 0).legal {} = true ∧ (planVneg 0 8 9).legal {} = true ∧ (planVsel 0 8 9 12).legal {} = true ∧
      (planVperm 0 8 9 1).legal {} = true ∧ (planVshuf 0 8 9).legal {} = true ∧ (planVbcast 0 1 11).legal {} = true ∧
      (planVins 0 1 2 0).legal {} = true ∧ (planVslide 0 8 2 0).legal {} = true ∧ (planVzip 0 8 9 0).legal {} = true ∧
      (planVuzp 0 8 0).legal {} = true ∧ (planVrmax 0 8 0).legal {} = true ∧ (planVrmin 0 8 0).legal {} = true ∧
      (planVsort 0 8 0).legal {} = true ∧ (planVsortDesc 0 8 0).legal {} = true ∧ (planVhash 0 9).legal {} = true ∧
      (planVcmp 0 1 8 9 0).legal {} = true ∧ (planVuniq 1 8 0).legal {} = true ∧ (planPand 1 2 3).legal {} = true ∧
      (planPor 1 2 3).legal {} = true ∧ (planPxor 1 2 3).legal {} = true ∧ (planPnot 15 0).legal {} = true ∧
      (planPstage 9 1 2 3).legal {} = true ∧ (planVextr 1 8 2 0).legal {} = true := by decide
theorem witness_predicates :
    let w := on .ve { p := [(1, 2)] }
    (w.p 1).getLsbD 1 = true ∧ (∀ i, i < 1 → (w.p 1).getLsbD i = false) ∧ 1 < sizeCount 0 ∧ vAll.contains 13 = false ∧
      vAll.contains 12 = true ∧ 16 ≤ Num.width 1 := by decide
/-- FP32 infinity times 0 in element 0, with NVE. -/
def invalidPair : State := on .ve { fcw := 0x20 } { v := [(1, 0x7F800000)] }
theorem witness_vectorTrap :
    fcwNve invalidPair.me.fcw = true ∧
      (fpOp .mul Num.fp32 (modeOf 0 invalidPair.me.fcw) (fcwDaz invalidPair.me.fcw) (fcwFtz invalidPair.me.fcw)
        (invalidPair.vsr (modeOf 0 invalidPair.me.fcw) 0) (invalidPair.velem 1 32 0) (invalidPair.velem 2 32 0)
        (invalidPair.velem 0 32 0)).flags.getLsbD 0 = true := by decide
theorem witness_vectorMemory :
    let w := on .ve { g := [(1, 0x1FFE00), (2, 4)], h := [(1, hAt 0x1000)] }
    (planVld 0 1 false 0 0).legal {} = true ∧ (planVst 0 1 true 1 0).legal {} = true ∧ w.vChk 1 false 0 1 = .ok ∧
      w.vChk 0 true 1 2 = .ok ∧ Handle.remote (w.h 1) = false ∧ w.eccHit (windowBase 0 + 0x1FFE00) 512 = false ∧
      mapped 0x11FF = true ∧ vTypes8.contains 0 = true ∧ vWide16.contains 1 = true := by decide
theorem witness_vectorMemory_loads :
    let q : PLoad := waitingLoad 1 (windowBase 0 + 0x1FFE40) 64 (.vec 8 0 (BitVec.allOnes 1024) 64)
    let w := on .ve { g := [(1, 0x1FFE00)], pre := [(windowBase 0 + 0x1FFE00, [7])] }
    (∀ k, k < 8 → w.readFirst (windowBase 0 + 0x1FFE00 + 64 * k) 64 = false ∧ w.eccHit (windowBase 0 + 0x1FFE00 + 64 * k) 64 = false) ∧
      w.me.lazy = false ∧ w.readsNow (windowBase 0 + 0x1FFE00) 64 = true ∧ w.readsNow (windowBase 0 + 0x1FFE00) 1 = false ∧
      (on .ve { loads := [q] }).readFirst (windowBase 0 + 0x1FFE00 + 64 * 1) 64 = true := by decide
theorem witness_vectorElements :
    let w := on .ve { g := [(1, 0x1FFE00), (2, 4)] }
    (∀ j, j < 4096 / 32 → w.chkScratch (w.g 1 + BitVec.ofNat 64 j * w.g 2).toNat (32 / 8) (32 / 8) = .ok) ∧
      (∀ j, j < 4096 / 16 → w.chkScratch (w.g 1 + BitVec.ofNat 64 (w.velem 8 16 j * (16 / 8))).toNat (16 / 8) (16 / 8) = .ok) := by
  decide
theorem witness_joins :
    let w := on .ve { g := [(1, 511), (2, 512)] } { job := { part := 2 } }
    (partRows w.part).1 ≤ (w.g 1).toNat ∧ (w.g 1).toNat < (partRows w.part).2 ∧ rowPending (w.bank 0) 511 = false ∧
      Machine.groupOk 62 2 = true ∧ (partRows w.part).2 ≤ (w.g 2).toNat ∧ (w.g 3).toNat < (partRows w.part).1 := by decide
theorem witness_deferral :
    let w := on .ve { p := [(1, 1)] }
    vSums.contains 0 = true ∧ (60#6).toNat + (3#2).toNat ≤ 63 ∧ (w.bank 0).dq = [] ∧
      ((List.range 128).filter fun i => (w.p 1).getLsbD i).length = 1 ∧ Machine.groupOk 60 4 = true := by decide
theorem witness_deferral_full (es : List (W32 × W32 × W32 × W32)) (h : es.length = 4096) :
    let w := on .ve { p := [(1, 1)] } { dq := es }
    4096 < (w.bank 0).dq.length + ((List.range 128).filter fun i => (w.p 1).getLsbD i).length := by
  show 4096 < es.length + ((List.range 128).filter fun i => ((on .ve { p := [(1, 1)] }).p 1).getLsbD i).length
  have e : ((List.range 128).filter fun i => ((on .ve { p := [(1, 1)] }).p 1).getLsbD i).length = 1 := by decide
  omega
theorem witness_extended :
    vInts.contains 9 = true ∧ (on .ve {}).afterWait 0 = some (on .ve {}) := by decide
theorem witness_extended_decodes : decodeVec 1 ⟨1, 2, 3, 9, 0⟩ = .ok (.vadd 1 2 3 9 0) ∧
    ∃ r, decodeVec 63 ⟨1, 2, 3, 9, 0⟩ = .error r := ⟨rfl, _, rfl⟩
/-- Entries of the format table for a widening form, a conversion and the 4-bit family, with all the fields that each ignores set. -/
def tabled (e : W32) : State := on .ve { ft := [(0, e)] }
theorem witness_vectorTypes_wide :
    (tabled 0x8000F011).vTypes 15 0xF000 ((⟨1, .rne, 0⟩ : VEnv) = (tabled 0).ownEnv {} 15) (fun E =>
      (⟨1, .rne, 0⟩ : VEnv) = State.entryEnv E (fld E 0 4) ∧ (fld E 4 4 : Fmt) = 1 ∧ (fld E 8 4 : Fmt) = wideResult 1) ∧
      wideTypes.contains 1 = true :=
  ⟨.inr ⟨rfl, _, rfl, by decide⟩, by decide⟩
theorem witness_vectorTypes_convert :
    (tabled 0x8000F0F1).vTypes 15 0xF0F0 False (fun E => (1 : Fmt) = fld E 0 4 ∧ (⟨0, .rne, 0⟩ : VEnv) = State.entryEnv E (fld E 8 4)) ∧
      Machine.cvtOk 0 1 = true ∧ Machine.nrwOk 1 0 = true ∧ Machine.groupOk 62 (ratio 0 1) = true :=
  ⟨.inr ⟨rfl, _, rfl, by decide⟩, by decide⟩
theorem witness_vectorTypes_four :
    (tabled 0x8000FDF0).vTypes 15 0xF0F0 False (fun E => (fld E 8 4 : Fmt) = 0xD ∧ (⟨0, .rne, 0⟩ : VEnv) = State.entryEnv E (fld E 0 4)) ∧
      (tabled 0x8000F0FD).vTypes 15 0xF0F0 False (fun E => (fld E 0 4 : Fmt) = 0xD ∧ (⟨0, .rne, 0⟩ : VEnv) = State.entryEnv E (fld E 8 4)) ∧
      vFloats.contains 0 = true ∧ Machine.groupOk 60 (group512 0) = true :=
  ⟨.inr ⟨rfl, _, rfl, by decide⟩, .inr ⟨rfl, _, rfl, by decide⟩, by decide⟩
/-- Elements that no policy traps: zeros, and a kept and a dropped element of `VDROP` with a scale of 1. -/
theorem witness_vectorResults :
    let w := on .ve { g := [(1, 0x3F80000000000000), (2, 0x3F8000000000FFFF)] }
    (∀ j, j < 2 → (Num.cvt 0 .rne 0 false 0 (Num.decodeDaz false 1 (w.velem 0 16 j))).trap = none) ∧
      (Num.f4Block 0 .rne 0 ((List.range 32).map fun _ => Num.decodeDaz false 0 0) ((List.range 32).map fun _ => 0)).trap = none ∧
      (Num.cvt 0 .rne 0 false 0 (Num.f4Val 127 5)).trap = none ∧ (w.vResolve vFloats 0).isSome = true ∧
      (w.g 1).toNat % 65536 ≤ ((w.vhash 0).extractLsb' 32 16).toNat ∧
      ¬(w.g 2).toNat % 65536 ≤ ((w.vhash 0).extractLsb' 32 16).toNat ∧ vSums.contains 0 = true ∧ vSums.contains 9 = true ∧
      (on .ve { p := [(1, 4)] }).p 1 = 4 := by decide
/-- Elements that a later one covers, and elements that none does. -/
theorem witness_vectorStores :
    let w := on .ve { g := [(1, 0x1FFE00), (2, 4)] }
    let at0 := fun (s : State) (j : Nat) => (s.g 1 + BitVec.ofNat 64 j * s.g 2).toNat
    (∀ i, i < 4096 / 32 → 0 < i → at0 w 0 + 3 < at0 w i ∨ at0 w i + 32 / 8 ≤ at0 w 0 + 3) ∧
      ¬(at0 (on .ve {}) 0 + 3 < at0 (on .ve {}) 1 ∨ at0 (on .ve {}) 1 + 32 / 8 ≤ at0 (on .ve {}) 0 + 3) := by decide

/-! ### Witnesses: the copy engine -/

/-- A copy descriptor of 64 bytes from 0x1000 to 0x2000 of core scratch, with no barrier; of a fill, its source is a value. -/
def copyBytes : List Byte := natBytes 8 0x1000 ++ natBytes 8 0x2000 ++ natBytes 4 64 ++ natBytes 12 0
/-- A copy engine in a gang of one core, with that descriptor at 0, and eight copy slots' worth of bank. -/
def copier (b : Bank := {}) : State :=
  { poke (on .xe { tk := [(1, 0x10)] } { b with job := { gang := 1 } }) (windowBase 0) copyBytes with
    gangs := [{ id := 1, cand := 1, seq := 0, ctx := 0, cluster := 0, cores := [0], eff := 5, started := 0 }] }
theorem witness_copiesIssue :
    let w := copier { copies := [(0, { busy := true })] }
    let bytes := w.scratchBytes .cp 0 32
    w.afterWait 1 = some w ∧ w.chkScratch 0 32 32 = .ok ∧
      (∀ k ∈ [CopyKind.copy, .fill, .mcast, .copy2d, .rot], (parseCopy k 1 bytes).isSome = true) ∧
      (parseCopy .copy 1 bytes).map (fun x => w.copyChecks x (copyRegs bytes)) = some .ok ∧
      (parseCopy .rot 1 bytes).map (fun x => w.copyChecks x (copyRegs bytes)) = some .ok ∧
      ((w.bank 0).copy 1).busy = false ∧ (∀ m, m < 1 → ((w.bank 0).copy m).busy = true) ∧
      (∀ r ∈ maskCores 0 1, ∃ y ∈ w.members 0 (w.core 0).runB, y.1 = r) ∧
      (∃ r ∈ maskCores 0 3, ¬∃ y ∈ w.members 0 (w.core 0).runB, y.1 = r) := by decide
theorem witness_copySlotsFull :
    let w := copier { copies := (List.range 16).map fun i => (i, { busy := true }) }
    ∀ m, m < 16 → ((w.bank 0).copy m).busy = true := by decide
/-- A barrier object with its expected count and arrivals at 0x1FFFF0 of core scratch, whose address is in g1. -/
def barred (exp arr orph : Nat) (t : Stream := {}) : State :=
  poke (on .xe { t with g := [(1, 0x1FFFF0), (2, 9)] }) (windowBase 0 + 0x1FFFF0)
    (natBytes 4 0xB47E ++ natBytes 4 exp ++ natBytes 4 arr ++ natBytes 4 orph)
theorem witness_barrierObjects :
    let w := barred 64 64 0
    let pa := windowBase 0 + 0x1FFFF0
    let v := w.stepOver w.party .cp w.nextId [(pa, 16)]
    let old := v.homeBytes pa 16
    (w.readFirst pa 16 || w.landHeld w.party .cp w.nextId [(pa, 16)]) = false ∧ w.me.owed = [] ∧ w.chkScratch (w.g 1).toNat 16 16 = .ok ∧
      (∀ i, i < 16 → v.tpbGuarded (windowBase 0 + 0x1FFFF0 + i) = false) ∧ recNat old 8 4 = recNat old 4 4 ∧
      ¬(recNat old 0 2 ≠ 0xB47E ∨ recNat old 12 4 ≠ 0) := by decide
theorem witness_barrierObjects_bad :
    let w := barred 64 0 64
    let old := (w.stepOver w.party .cp w.nextId [(windowBase 0 + 0x1FFFF0, 16)]).homeBytes (windowBase 0 + 0x1FFFF0) 16
    recNat old 0 2 ≠ 0xB47E ∨ recNat old 12 4 ≠ 0 := by decide
theorem witness_barrierObjects_counts :
    let old := fun (s : State) => (s.stepOver s.party .cp s.nextId [(windowBase 0 + 0x1FFFF0, 16)]).homeBytes (windowBase 0 + 0x1FFFF0) 16
    recNat (old (barred 64 128 0)) 4 4 < recNat (old (barred 64 128 0)) 8 4 ∧
      recNat (old (barred 64 0 0)) 8 4 < recNat (old (barred 64 0 0)) 4 4 ∧
      (({ barred 64 0 0 with cyc := 9 } : State).g 2).toNat ≤ 9 % 2 ^ 64 ∧
      (({ barred 64 0 0 with cyc := 8 } : State).cyc) % 2 ^ 64 < ((barred 64 0 0).g 2).toNat := by decide
/-- A gang of two cores at its first barrier, for which core 1 has issued `n` of its own, its copy engine in a life. -/
def barrier (n : Nat) (l : Life) : State :=
  let job : Job := { gang := 1 }
  { State.reset with
    cores := [(0, { a := { st := .run, job := job, xe := { life := .running } } }),
      (1, { a := { st := .run, job := job, xe := { life := l }, barrs := n } })]
    gangs := [{ id := 1, cand := 1, seq := 0, ctx := 0, cluster := 0, cores := [0, 1], eff := 5, started := 0 }]
    cur := .eng 0 .xe }
theorem witness_gangBarriers :
    let all := fun (w : State) => (w.members 0 false).length = w.gangSize 0 false
    let bank := fun (w : State) (y : Nat × Bool) => (w.core y.1).get y.2
    (barrier 1 .done).me.waitId = 0 ∧ (barrier 1 .done).fenceReady 4 = true ∧ all (barrier 1 .done) ∧ ((barrier 1 .done).bank 0).barrDone < 1 ∧
      (∀ y ∈ (barrier 1 .done).members 0 false, y = (0, false) ∨ 1 ≤ (bank (barrier 1 .done) y).barrs) ∧
      all (barrier 0 .running) ∧
      (∃ y ∈ (barrier 0 .running).members 0 false, y ≠ (0, false) ∧ (bank (barrier 0 .running) y).barrs < 1) ∧
      (∀ y ∈ (barrier 0 .running).members 0 false,
        y = (0, false) ∨ 1 ≤ (bank (barrier 0 .running) y).barrs ∨ (bank (barrier 0 .running) y).xe.life = .running) ∧
      (∃ y ∈ (barrier 0 .done).members 0 false,
        y ≠ (0, false) ∧ (bank (barrier 0 .done) y).barrs < 1 ∧ (bank (barrier 0 .done) y).xe.life ≠ .running) := by decide
theorem witness_copyStatus :
    let w := on .xe { g := [(1, 1), (2, 17), (3, 8)] } { copies := [(1, { busy := true, remote := true }), (0, { busy := true })] }
    (w.g 2).toNat % 16 = 1 ∧ ((w.bank 0).copy 1).busy = true ∧ ((w.bank 0).copy 1).remote = true ∧
      ((w.bank 0).copy 0).busy = true ∧ ((w.bank 0).copy 0).remote = false ∧ ((w.bank 0).copy 0).data = [] ∧
      ((w.bank 0).copy ((w.g 3).toNat % 16)).busy = false ∧ w.me.owed = [] ∧
      ((on .xe {} { copies := [(0, { busy := true, data := [1] })] }).bank 0 |>.copy 0).data ≠ [] ∧
      (w.g 1).toNat ≤ ({ w with cyc := 1 } : State).cyc % 2 ^ 64 ∧ w.cyc % 2 ^ 64 < (w.g 1).toNat := by decide
/-- A slot descriptor at 0: T, no peer, 2,048 elements of F4, buffer 0x1000 and output 0x2000. -/
def slotBytes (t : Nat) : List Byte :=
  natBytes 8 t ++ natBytes 8 0 ++ natBytes 4 2048 ++ [13, 13, 0, 0] ++ natBytes 4 0x1000 ++ natBytes 4 0 ++ natBytes 4 0x2000 ++ natBytes 28 0
/-- A copy engine with it. -/
def slotted (t : Nat) (b : Bank := {}) : State := poke (on .xe {} b) (windowBase 0) (slotBytes t)
/-- Its descriptor. -/
def slotDesc (t : Word) : SlotDesc := ⟨t, 0, 0, 0, 2048, 13, 13, 0, false, 0x1000, 0, 0x2000, none, true⟩
theorem witness_fabricSlots :
    let w := slotted 5000
    let x := slotDesc 5000
    w.chkScratch 0 64 64 = .ok ∧ parseSlot (w.scratchBytes .cp 0 64) = some x ∧ (w.liveBooks (w.bank 0)).length < 16 ∧
      max x.t.toNat (w.cyc + 2000) ≤ 5000 ∧ x.countOk = true ∧ slotFmt x.ifmt = true ∧ x.rcore < 384 ∧
      w.chkScratch x.buf (slotLen x.ifmt x.n) 64 = .ok ∧ (w.liveBooks (w.bank 0)) = [] ∧ x.hopOk = true ∧
      w.hopChecks x false = .ok ∧ w.hopChecks x true = .ok ∧ (w.bank 0).recvs.length < 8 ∧
      w.landHeld w.party .cp w.nextId (State.hopRanges 0 x) = false := by decide
theorem witness_fabricSlots_free (lane : List Booking) (h : lane = []) : laneFree lane 5000 64 = true := by
  subst h; rfl
theorem witness_fabricSlots_booked :
    let w := slotted 5000 { books := [⟨1, 0, 0, 5000, 17⟩] }
    let x := slotDesc 5000
    (w.liveBooks (w.bank 0)).filter (fun z => decide (z.peer = x.peer ∧ z.chan = x.chan ∧ z.at_ = x.t.toNat)) =
        [⟨1, 0, 0, 5000, 17⟩] ∧ w.cyc < x.t.toNat ∧ slotLen x.ifmt x.n ≤ 64 * 17 ∧ x.t.toNat ≤ 5000 := by decide
theorem witness_fabricSlots_full :
    let w := slotted 5000 { books := List.replicate 16 ⟨1, 0, 0, 5000, 17⟩, recvs := List.replicate 8 ⟨1, slotDesc 5000, [], [], [], 0⟩ }
    16 ≤ (w.liveBooks (w.bank 0)).length ∧ 8 ≤ (w.bank 0).recvs.length := by decide
/-- A barrier object that a load which the stream has issued has still to read. -/
theorem witness_barrierObjects_held :
    let w := barred 64 64 0 { loads := [waitingLoad 1 (windowBase 0 + 0x1FFFF8) 8 (.greg 4 6)] }
    (w.readFirst (windowBase 0 + 0x1FFFF0) 16 || w.landHeld w.party .cp w.nextId [(windowBase 0 + 0x1FFFF0, 16)]) = true := by
  decide
/-- A release of the copy path that a load which the stream has issued holds back. -/
theorem witness_gangBarriers_held :
    let s := on .xe { loads := [waitingLoad 1 (windowBase 0 + 8) 8 (.greg 4 6)] }
    ({ s with buf := [{ party := s.party, path := .cp, cells := [(windowBase 0 + 8, 7)], no := 2 }] } : State).fenceReady 4 = false := by
  decide

/-! ### Witnesses: the matrix engine -/

/-- A header with no semaphore. -/
def hdr0 : MxHdr := ⟨false, 0, false, 0⟩
/-- A started command that signals semaphore 3. -/
def cmd : MqEntry := { record := 0x0E00, pc := 8, rm := 0, fte := 0, h := hAt 0x1000, started := true }
/-- Core 0 of which the matrix engine executes that command. -/
def matrix (b : Bank := {}) (acc : Tab W32 := []) : State :=
  { State.reset with
    cores := [(0, { a := { b with st := .run, mq := [cmd], ae := { life := .running } }, acc := acc })]
    cur := .me 0 }
theorem witness_runsCmd : matrix.RunsCmd 0 cmd := ⟨by decide, ⟨[], by decide⟩, by decide⟩
theorem witness_matrixEnds :
    (mxHdr cmd.record).sse = true ∧ (mxHdr cmd.record).ssi = 3 ∧
      ((matrix { sems := [(3, 254)] }).bank 0).sem 3 ≤ 254 ∧ 255 ≤ ((matrix { sems := [(3, 255)] }).bank 0).sem 3 ∧
      (7#3).toNat * 32 + tileN 0 ≤ 256 := by decide
/-- A load of 64 rows and 32 columns of E4M3 from core scratch, or from HBM to the banks or to the macros. -/
def load (src : Bool) (place : BitVec 2) : BloadRec := ⟨hdr0, 3, 0, false, src, place, 1, 0, 0, 4, 0, 0, 0⟩
theorem witness_weightLoads :
    Handle.v cmd.h = true ∧ (load true 1).place = 1 ∧ inHbm (Handle.addr cmd.h).toNat = true ∧
      (0#4).toNat ≤ 4 ∧ Handle.v ({ cmd with h := 0 } : MqEntry).h = false ∧
      matrix.eccHit (windowBase 0 + 0 + 31 * 64) (colBytes 3 64) = false ∧ ¬((load false 0).src = true) := by decide
/-- An operand of 64 rows and 32 columns of E4M3 in the macros. -/
def anvil : WSlot := .anvil 64 32 3 0 [(0, 0x38)] []
/-- A product of 8 rows from core scratch, with packets, or from the operand queue. -/
def mult (scl : BitVec 2) (oq : Bool) : MmaRec := ⟨hdr0, 3, 0, scl, oq, 504, 0, 7, 5, 0, if oq then 0 else 64⟩
theorem witness_matrixProducts :
    let s := matrix { slot0 := anvil, fifo := [⟨5, List.replicate 16 32⟩] }
    ((matrix.bank 0).wslot false).shape = none ∧ anvil.shape = some (64, 32, 3, 0) ∧ Num.pairOk 3 3 = true ∧
      (7#3).toNat * 32 + 32 ≤ 256 ∧ s.slotBad anvil = none ∧ 64 * fmtSize 3 ≤ (64#20).toNat ∧
      s.chkScratch 0 ((8 - 1) * 64 + 64 * fmtSize 3) 16 = .ok ∧
      State.takePackets 5 (8 * 2) [] (s.bank 0).fifo = (List.replicate 16 32, [], false) ∧
      State.takePackets 5 (8 * 2) [] [] = ([], [], false) := by decide
theorem witness_matrixProducts_queue :
    let q : OqTile := ⟨8, 64, 3, List.replicate 512 0x38, List.replicate 16 32⟩
    let s := matrix { slot0 := anvil, oq := [q] }
    (s.bank 0).oq = [q] ∧ q.m = tileM 0 ∧ q.k = 64 ∧ q.fmt = 3 ∧ q.scales.length = tileM 0 * (64 / 32) ∧
      (matrix.bank 0).oq = [] ∧ (matrix.bank 0).ae.life = .running := by
  refine ⟨rfl, rfl, rfl, rfl, ?_, rfl, rfl⟩
  decide
theorem witness_matrixBank :
    let w : WSlot := .bank 64 32 3 0 (hAt 0x1000) 0 64 0
    w.code = 3 ∧ w.shape = some (64, 32, 3, 0) ∧ Handle.v (hAt 0x1000) = true ∧
      (matrix { slot1 := w }).slotBad w = none := by decide
/-- A tile of 8 rows and 32 columns. -/
def tile : MxTile := ⟨504, 0, 7, 0⟩
/-- A drain of it to FP32 at 0x1FF000, its parameter record at 0. -/
def drain (bi rs : Bool) : DrainRec := ⟨hdr0, 0, 0, 0, true, tile, 0, false, bi, rs, false, 0x7FC0, 0, 8⟩
theorem witness_drains :
    let s := matrix
    let r := drain true true
    let p := drainParam (s.paramBlock { cmd with record := 0 })
    r.tile.col0.toNat * 32 + tileN r.tile.ncols ≤ 256 ∧ dstrOk 0 r.tile.ncols r.dstr = true ∧ outFmtOk 0 = true ∧
      s.chkScratch (0x7FC0 * 64) (drainBytes 0 r.tile r.dstr) 64 = .ok ∧ p.rfmt ≤ 2 ∧
      s.chkScratch (p.bias + 4 * (0 * 32)) (4 * 32) 4 = .ok ∧
      p.bias + 4 * (0 * 32) + 4 * 32 ≤ 0x7FC0 * 64 ∧
      (∀ i, i < tileM r.tile.mrows → s.chkScratch (p.res + i * p.rstr) (4 * 32) 4 = .ok ∧
        p.res + i * p.rstr + 4 * 32 ≤ 0x7FC0 * 64) := by decide
theorem witness_projections :
    let q := projParam (List.replicate 64 0)
    tileM tile.mrows % 1 = 0 ∧ projStart { q with recaddr := 0x400, recstr := 32 } 0 32 true false = none ∧
      radiusOk Num.one32 = true ∧ radiusOk 0x00800000 = true ∧ matrix.chkScratch (0x400 + 7 * 32) (recLen 0 32) 32 = .ok ∧
      projStart { q with recaddr := 0x400, recstr := 64 } 4 32 true true = none ∧
      0x400 + 7 * 64 + recLen 4 32 ≤ 0x7FC0 * 64 := by decide
/-- A support record of a row that lies inside its set. -/
def insideRec : List Byte := natBytes 12 0 ++ natBytes 2 32 ++ natBytes 2 0 ++ [0, 1] ++ natBytes 14 0
theorem witness_adjoints : recOk (recIn insideRec) 0 32 32 (List.replicate 32 0) 0 0 = true := by decide

/-! ### Witnesses: outposts and the access engine's events -/

/-- A call of a function with its page of 4 KiB at 0x1000. -/
def callOf (who : Caller) : OCall :=
  ⟨9, who, Party.stream 0 false .ve, 0, 3, [5, 6], 0x1000, 0x1000, 7, 0x10⟩
/-- A frame that runs it. -/
def serving (t : Stream) : State := framed t { call := some (callOf (.tag 0 false .ve 0 1)) }
theorem witness_outpostAccesses :
    let s := serving { g := [(1, 0xFC0), (2, 0xFF8), (3, 0x1000), (4, 0xFFFFFFFFFFFFFFFF)] }
    (s.frame 0 0).call = some (callOf (.tag 0 false .ve 0 1)) ∧
      (0 ≤ (s.g 1).toInt ∧ (s.g 1).toInt + (64 : Nat) ≤ (0x1000 : Nat) ∧ (s.g 1).toInt % (64 : Nat) = 0) ∧
      (0 ≤ (s.g 2).toInt ∧ (s.g 2).toInt + sizeBytes 6 ≤ (0x1000 : Nat) ∧ (s.g 2).toInt % sizeBytes 6 = 0) ∧
      s.readFirst 0x1FF8 8 = false ∧
      (4#3) &&& ~~~(7#3) = 0 ∧ s.eccHit 0x1FC0 64 = false ∧ s.eccHit 0x1FF8 8 = false ∧
      (∀ i, i < 64 → mapped (0x1FC0 + i) = true ∧ s.tpbGuarded (0x1FC0 + i) = false) ∧
      (0x1000 : Nat) < (s.g 3).toInt + sizeBytes 1 ∧ (s.g 4).toInt < 0 := by decide
theorem witness_outpostAtomics :
    let s := serving { g := [(1, 0xFF8)] }
    ∀ i, i < 8 → mapped (0x1FF8 + i) = true ∧ s.tpbGuarded (0x1FF8 + i) = false := by decide
/-- A call in the queue of outpost 5, whose kit declares its function at 0x40. -/
def queued : State :=
  { State.reset with
    outposts := [(5, { queue := [callOf .none] })]
    kits := [{ ctx := 0, ptr := 0x1000, code := [], entries := [(3, 0x80000040)], ready := true }] }
theorem witness_outpostCalls :
    (queued.outpost 5).queue = [callOf .none] ∧ (queued.frame 5 7).busy = false ∧
      (queued.entryWord 0 3).map (·.2) = some 0x80000040 ∧ (callOf .none).payload.length ≤ 8 ∧
      ((serving {}).frame 0 0).busy = true ∧
      ((serving {}).frame 0 0).started + 10000000 ≤ ({ serving {} with cyc := 10000000 } : State).cyc := by decide
/-- A reply on its way to a tag. -/
def replying (x : Call) : State :=
  { on .ve { calls := [(4, x)] } with replies := [⟨0, false, .ve, 4, 1, .ready [7]⟩] }
theorem witness_callReply :
    (replying { st := .flight, gen := 1 }).findReply 0 .ve 4 = some ⟨0, false, .ve, 4, 1, .ready [7]⟩ ∧
      (((replying { st := .flight, gen := 1 }).bank 0).get .ve).call 4 = { st := .flight, gen := 1 } ∧
      (((replying { st := .free, gen := 1 }).bank 0).get .ve).call 4 ≠ { st := .flight, gen := 1 } ∧
      ((((replying { st := .flight, gen := 2 }).bank 0).get .ve).call 4).gen ≠ 1 := by decide
/-- Context 0 with the first GiB mapped onto itself, by tables at 0x1000, 0x2000 and 0x3000. -/
def paged (s : State) (x : Ctx := {}) : State :=
  { poke (poke (poke s 0x1000 (natBytes 8 0x2001)) 0x2000 (natBytes 8 0x3001)) 0x3000 [0x1F] with
    ctxs := [(0, { x with ttroot := 0x1000, bounds := [(0, 0xF ||| (0x40000 <<< 76))] })] }
/-- A translation in flight for reading at 0x5010. -/
def xlate (walking live : Bool) (invs : List InvMatch) (pf : Option (Word × Word) := none) : Xlate :=
  ⟨3, 4, 5, 0x5010, 1, 3, 0, pf, walking, live, invs⟩
/-- A stream with it, and a directory. -/
def xlating (x : Xlate) (dir : List DirEntry := []) : State :=
  { on .ae { xlates := [x], h := [(4, hAt 0)] } with dir := dir, cycles := 32 }
theorem witness_translationsEnd :
    let a := xlating (xlate false true [])
    let d : DirEntry := ⟨0, 0, 5, 0, 1, false, 0x9000⟩
    a.HasXlate 0 .ae 3 false (xlate false true []) ∧ (xlating (xlate true true [.all])).HasXlate 0 .ae 3 false (xlate true true [.all]) ∧
      ¬(a.cycles < 0 + 32) ∧ ({ a with cycles := 31 } : State).cycles < 0 + 32 ∧
      (xlating (xlate false true []) [d]).dir.find? (fun d => d.covers (dieOf 0) 0 0x5010) = some d ∧
      a.dir.find? (fun d => d.covers (dieOf 0) 0 0x5010) = none ∧ (1#3) &&& ~~~d.perm = 0 ∧ (1#3) &&& ~~~(2#3) ≠ 0 := by
  refine ⟨⟨?_, ?_⟩, ⟨?_, ?_⟩, ?_⟩ <;> decide
theorem witness_walkEnds :
    (paged (xlating (xlate true true []))).walk 0 0x5010 = .leaf 3 7 false 0 ∧
      (xlating (xlate true true [])).walk 0 0x5010 = .notPresent ∧
      (poke (paged (xlating (xlate true true []))) 0x3000 (natBytes 8 0x1F000000001F)).walk 0 0x5010 = .unmapped ∧
      (poke (paged (xlating (xlate true true []))) 0x2000 [3]).walk 0 0x5010 = .badEntry ∧
      ({ paged (xlating (xlate true true [])) with eccBad := [(0x3000 / 64, true)] } : State).walk 0 0x5010 = .uncorr 0x3000 := by
  decide
/-- A bank that a page fault has put in READY, whose walk answers the fault. -/
theorem witness_translationsEnd_answer :
    let x := xlate true true [] (some (8, 0x70000000))
    let s := { State.reset with cores := [(0, { a := { st := .ready, ae := { life := .running, xlates := [x] } } })] }
    s.HasXlate 0 .ae 3 false x ∧ ((s.core 0).get false).st = .ready := by
  refine ⟨⟨?_, ?_⟩, ?_⟩ <;> decide
theorem witness_invalidationComplete :
    let v : Inval := ⟨7, 0, .all, false⟩
    let s := { on .ae {} with invals := [v] }
    s.invals.find? (fun y => y.id = 7) = some v ∧ s.invOpen v = false ∧
      ({ on .ae posted with invals := [v] } : State).invOpen v = true := by decide
/-- A tile request of 2 by 2 elements of the tensor at 0x20000. -/
def tileReq (store q hv : Bool) (step : W32) : TileReq :=
  { desc := ⟨0, 2, 1, 0, false, 2, hv, 7, [16, 16, 1, 1], [64, 0, 0], 0, 0⟩, dh := hAt 0x20000, sh := 0, ph := hAt 0x10000
    c := [15, 0, 0, 0], tw := 2, th := 2, outf := 0, rm := 0, ovf := 0, dst := 0x1000, pad := 0x3F80, q := q, transposed := false
    step := step, seed := 0, stepTid := 0, rowCol := 0, store := store }
/-- A request of the access engine. -/
def reqOf (k : ReqKind) (w : Option (Nat × W32 × W32) := none) : Req :=
  { id := 3, seq := 3, pc := 0, w1 := 0, w2 := 0, kind := k, waiting := w }
/-- A stream with it outstanding, first in the operand queue's order. -/
def asking (r : Req) : State := poke (on .ae { reqs := [r] } { oqOrder := [3] }) 0x10000 tpbBytes
theorem witness_tilesServed :
    let t := tileReq false false false 0
    let s := asking (reqOf (.tile t))
    let p := Party.stream 0 false .ae
    s.HasReq 0 3 false (reqOf (.tile t)) ∧ (s.ask t.tensor).tileEcc t = none ∧ ((s.ask t.tensor).tileOut p 3 t none).isOk = true ∧
      s.reqHeld 0 false (reqOf (.tile t)) = false ∧
      State.drainHeld (s.bank 0) 3 = false ∧ (s.bank 0).oqOrder.head? = some 3 ∧ (s.bank 0).oq.length < 4 ∧ t.outf = t.desc.fmt ∧ Num.width t.outf % 8 = 0 ∧
      t.order[3]? = some (1, 1) ∧ t.box.holds 0 0 = true ∧ t.box.holds 1 0 = false ∧
      (s.tileIn 0 p 3 (tileReq true false false 0)).isOk = true ∧
      (State.ask { s with eccBad := [(0x20000 / 64, true)] } t.tensor).tileEcc t = some 0x2003C := by
  refine ⟨⟨?_, ?_⟩, ?_⟩ <;> decide
theorem witness_stepsResolve :
    let t := tileReq false false true (BitVec.allOnes 32)
    let s := asking (reqOf (.tile t))
    let p := Party.stream 0 false .ae
    s.HasReq 0 3 false (reqOf (.tile t)) ∧ s.reqHeld 0 false (reqOf (.tile t)) = false ∧ State.drainHeld (s.bank 0) 3 = false ∧
      (s.readTpb p 3 .sc t.desc t.ph t.dh).toOption.map (fun b => (b.commit, b.rel, b.back, b.fwd, b.waits)) = some (5, 0, 0, 0, true) ∧
      (s.readTpb p 3 .sc t.desc 0 t.dh).isOk = false ∧
      ((asking (reqOf (.tile t) (some (9, 0, 5)))).tpbFields p 3 .sc t.ph).toOption.map (·.1.commit) = some 5 := by
  refine ⟨⟨?_, ?_⟩, ?_⟩ <;> decide
theorem witness_stepsResolve_window :
    let below := fun (step commit rel back : Nat) => (rel ≠ 0xFFFFFFFF ∧ step ≤ rel) ∨ step + back < commit
    ¬below 5 5 4 0 ∧ below 4 5 4 0 ∧ ¬below 6 5 4 0 ∧ 5 + 0 < 6 ∧ ¬(5 + 1 < 6) := by decide
theorem witness_feedsServed :
    let q : Req := reqOf (.qld 3 0x1000 8 32 (some 0x2000))
    let g : Req := reqOf (.gather false 64 0x1FFF80 (hAt 0x1000) [0, 0xFC0])
    let s := asking g
    (asking q).HasReq 0 3 false q ∧ s.HasReq 0 3 false g ∧ s.reqHeld 0 false g = false ∧
      State.drainHeld (s.bank 0) 3 = false ∧ (asking q).reqHeld 0 false q = false ∧ ((asking q).bank 0).oqOrder.head? = some 3 ∧ ((asking q).bank 0).oq.length < 4 ∧
      (on .ae { reqs := [q] } { oqOrder := [2, 3] }).curBank.oqOrder.head? ≠ some 3 ∧
      (∀ x ∈ [0, 0xFC0], s.eccHit (0x1000 + x) 64 = false) ∧ 0x1FFF80 + 2 * 64 ≤ 0x200000 ∧
      (∀ x ∈ [0, 0xFC0], 0x1000 + x + 64 ≤ windowBase 0 + 0x1FFF80) ∧
      (∀ x ∈ [0, 0xFC0], ∀ i, i < 64 → mapped (0x1000 + x + i) = true) := by
  refine ⟨⟨?_, ?_⟩, ⟨?_, ?_⟩, ?_⟩ <;> decide
/-- A gather into bytes that a load of its stream has still to read; and an uncorrectable error at an element. -/
theorem witness_feedsServed_held :
    let g : Req := reqOf (.gather false 64 0x1FFF80 (hAt 0x1000) [0, 0xFC0])
    let s := on .ae { reqs := [g], loads := [waitingLoad 1 (windowBase 0 + 0x1FFFF8) 8 (.greg 3 6)] }
    s.reqHeld 0 false g = true ∧
      [0, 0xFC0].find? (fun o => ({ s with eccBad := [(0x1FC0 / 64, true)] } : State).eccHit (0x1000 + o) 64) = some 0xFC0 := by
  decide
/-- A near-memory operation of a stream. -/
def nearOf (k : NearKind) (done : Bool := false) : NearOp :=
  { id := 3, seq := 3, pc := 0, w1 := 0, kind := k, performed := done, reply := 9, unit := k.unit }
/-- A stream with it posted. -/
def nearing (o : NearOp) : State := on .ae { near := [o] }
theorem witness_nearPerformed :
    let a := nearOf (.nadd true (hAt 0x1000) 0 [1, 2])
    let m := nearOf (.namo .add 1 (hAt 0x1000) 0xFF8 1 0 4)
    let n := nearOf (.nred 0 (hAt 0x1000) 0 64 [63] 0)
    let p := Party.stream 0 false .ae
    (nearing a).HasNear 0 3 false a ∧ (nearing a).nearWaits 0 false a = false ∧
      State.drainHeld ((nearing a).bank 0) 3 = false ∧ ((nearing a).bstrm 0 false .ae).reqs = [] ∧
      ((nearing a).addElems p (some 3) true 0x1000 [1, 2] 0).2.2 = none ∧
      (nearing n).eccHit (0x1000 + 0 + 63 * 64) 64 = false ∧
      (nearing m).eccHit 0x1FF8 8 = false ∧
      (∀ i, i < 8 → mapped (0x1FF8 + i) = true ∧ (nearing m).tpbGuarded (0x1FF8 + i) = false) ∧
      (nearOf (.namo .add 1 (hAt 0x1000) 0 1 0 4) true).performed = true := by
  refine ⟨⟨?_, ?_⟩, ?_⟩ <;> decide
theorem witness_sequencerRuns :
    let q : SeqProg := ⟨2, 0, 1, 0, 64, 128, List.replicate 5 ⟨1, 1, 0, 0, 0, 0⟩⟩
    parseSeq seqBytes = some q ∧
      (State.seqRun (Party.stream 0 false .ae) 3 q 0x1000 q.counters { a := q.a, b := q.b, c := q.c, zero := false }
        (nearing (nearOf (.nseq (hAt 0x1000) seqBytes)), none)).2 = none := by decide
theorem witness_stepCommands :
    let d := (tileReq false false true 0).desc
    let r := reqOf (.wrel d (hAt 0x10000) (hAt 0x20000) 4)
    let u := reqOf (.update false d (hAt 0x10000) (hAt 0x20000) (hAt 0x60000) 0)
    let p := Party.stream 0 false .ae
    let tile := { reqOf (.tile (tileReq false false true 0)) with sampled := some (3, 4, 4) }
    (asking r).HasReq 0 3 false r ∧ (asking u).HasReq 0 3 false u ∧ (asking r).commandHeld 0 false r = false ∧
      (asking u).commandHeld 0 false u = false ∧
      ((asking r).readTpb p 3 .near d (hAt 0x10000) (hAt 0x20000)).toOption.map (·.commit) = some 5 ∧
      ((asking r).readTpb p 3 .near d 0 (hAt 0x20000)).isOk = false ∧
      State.drainHeld ((asking r).bank 0) 3 = false ∧ (asking r).arrived 0x10000 = [] ∧ inHbm 0x10000 = true ∧ inHbm (0x10000 + 11) = true ∧
      (∃ y ∈ (asking tile).arrived 0x10000, ∃ w, y.sampled = some w ∧
        (w.1 = BitVec.allOnes 32 ∨ w.1.toNat < 4) ∧ w.2.1.toNat ≤ 4) ∧
      (∃ y ∈ (asking tile).arrived 0x10000, ∃ w, y.sampled = some w ∧ w.2.2.toNat < 5) ∧
      (((asking u).learnTpb 0x10000).temperGrans p 3 (parseTpb 0x10000 ((asking u).homeBytes 0x10000 256)) true 0x60000 6
        (List.range 1) 0).2.2 = none := by
  refine ⟨⟨?_, ?_⟩, ⟨?_, ?_⟩, ?_, ?_, ?_, ?_, ?_, ?_, ?_, ?_, ?_, ?_⟩
  all_goals decide
/-- The temper queue of a tensor, with a command first and one behind it. -/
theorem witness_temperQueue :
    let q := fun (ids : List Nat) => tget [] ({ asking (reqOf (.qld 3 0 8 32 none)) with temperQ := [(0x10000, ids)] } : State).temperQ 0x10000
    (3 ∈ q [3, 5] ∧ (q [3, 5]).head? = some 3) ∧ (3 ∉ q [2] ∧ (q [2] ++ [3]).head? ≠ some 3) ∧ (3 ∉ q [] ∧ (q [] ++ [3]).head? = some 3) ∧
      State.drainHeld { ae := { owed := [] }, pf := none } 3 = false := by decide
/-- A command that an earlier near-memory operation on the same bytes holds; and one that may not begin, as its step is the last. -/
theorem witness_stepCommands_held :
    let d := (tileReq false false true 0).desc
    let r := reqOf (.wrel d (hAt 0x10000) (hAt 0x20000) 4)
    let o : NearOp := { id := 1, seq := 1, pc := 0, w1 := 0, kind := .namo .add 1 (hAt 0x10000) 0xF8 1 0 3 }
    let s := on .ae { reqs := [r], near := [o] }
    s.commandHeld 0 false r = true ∧
      ((asking { r with sampled := some (0, 4, 5) }).tpbFields (Party.stream 0 false .ae) 3 .near (hAt 0x10000)).toOption.map (·.1.at0) = some 0x10000 ∧
      (parseTpb 0 (natBytes 4 7 ++ natBytes 4 0xFFFFFFFE ++ natBytes 248 0)).commit = 0xFFFFFFFE := by
  decide

/-! ### Witnesses: copies, slots, the fabric and what watches a job -/

/-- A busy copy slot 2. -/
def copying (x : Copy) : State := on .xe {} { copies := [(2, { x with busy := true })] }
/-- A copy of two units from 0x1000 to 0x2000 of core scratch, counted on a barrier at 0x40. -/
def copyOf (bar : Option Nat) : Copy := { busy := true, src := 0x1000, dst := 0x2000, len := 128, bar := bar }
theorem witness_copiesLand :
    let x := copyOf (some 0x40)
    let s := copying x
    s.HasCopy 0 2 false x ∧ x.kind ≠ .send ∧ x.kind ≠ .rot ∧ x.data = [] ∧ x.remote = false ∧
      s.landHeld (Party.stream 0 false .xe) .cp x.seq (s.unitRanges 0 false x x.unit) = false ∧
      s.eccHit (windowBase 0 + 0x1000) 64 = false ∧
      0x2000 + 64 ≤ 0x200000 ∧ 0x40 + 16 ≤ 0x2000 ∧ s.buf = [] ∧ s.receivers 0 false x = [0] ∧
      Handle.v ({ x with dk := true, dh := hAt 0x1000 } : Copy).dh = true ∧ Handle.v (0 : Handle) = false ∧
      inWindow 0x1000 = false ∧ State.drainHeld ((s.core 0).get false) 1 = false ∧
      s.awayOpen (Party.stream 0 false .xe) .cp x.seq [(windowBase 0 + 0x1000, 64)] = false ∧
      ({ s with eccBad := [((windowBase 0 + 0x1000) / 64, true)] } : State).eccHit (windowBase 0 + 0x1000) 64 = true := by
  refine ⟨⟨?_, ?_⟩, ?_⟩ <;> decide
theorem witness_copiesLand_home :
    let x := { copyOf (some 0x40) with dk := true, dh := hAt 0x2000 }
    handlePhys x.dh (0x2000 + 0) = 0x4000 ∧ inWindow 0x4000 = false ∧
      ∀ k, k < 64 → mapped (0x4000 + k) = true ∧
        ((copying x).stepOver (Party.stream 0 false .xe) .cp x.seq [(0x4000, 64)]).tpbGuarded (0x4000 + k) = false := by decide
/-- A unit that its acknowledgement counts, one that waits for its acknowledgement, and one whose data are read and whose place a
load of the stream has still to read. -/
theorem witness_copiesLand_waits :
    let x := { copyOf (some 0x40) with remote := true, landed := 64 }
    let y := { copyOf none with data := List.replicate 64 7, seq := 2 }
    let s := on .xe { loads := [waitingLoad 1 (windowBase 0 + 0x2000) 8 (.greg 4 6)] } { copies := [(2, y)] }
    (copying x).HasCopy 0 2 false x ∧ x.landed = 64 * (x.unit + 1) ∧ 0x40 + 16 ≤ 0x200000 ∧
      (copying x).landHeld (Party.stream 0 false .xe) .cp x.seq [(windowBase 0 + 0x40, 16)] = false ∧
      ({ copyOf (some 0x40) with remote := true } : Copy).landed ≠ 64 * (x.unit + 1) ∧
      s.HasCopy 0 2 false y ∧ s.landHeld (Party.stream 0 false .xe) .cp y.seq (s.unitRanges 0 false y y.unit) = true := by
  refine ⟨⟨?_, ?_⟩, ?_, ?_, ?_, ?_, ⟨?_, ?_⟩, ?_⟩ <;> decide
/-- A gang of two cores at its first rotation, of tiles of one length or of two, core 1 having issued `n`. -/
def rotating (n len : Nat) (l : Life) : State :=
  let x := fun (m : Nat) => ({ kind := .rot, busy := true, len := m, dreg := 5, rotN := 1, src := 0x1000 } : Copy)
  let bank := fun (r : BitVec 2) (m : Nat) (k : Nat) (l : Life) =>
    ({ st := .run, job := { gang := 1, rank := r }, xe := { life := l }, rots := k, copies := if k = 0 then [] else [(2, x m)] } : Bank)
  { State.reset with
    cores := [(0, { a := bank 0 64 1 .running }), (1, { a := bank 1 len n l })]
    gangs := [{ id := 1, cand := 1, seq := 0, ctx := 0, cluster := 0, cores := [0, 1], eff := 5, started := 0 }]
    cur := .eng 0 .xe }
theorem witness_rotationsStart :
    let s := rotating 1 64 .done
    let bank := fun (s : State) (y : Nat × Bool) => (s.core y.1).get y.2
    s.bankWhere 0 (fun b => (State.firstRot b).isSome) = some false ∧ State.firstRot ((s.core 0).get false) = some 1 ∧
      State.rotSlot ((s.core 0).get false) 1 = some 2 ∧ s.members 0 false = [(0, false), (1, false)] ∧ s.gangSize 0 false = 2 ∧
      (∀ y ∈ s.members 0 false, 1 ≤ (bank s y).rots ∧ (State.rotSlot (bank s y) 1).isSome = true) ∧
      ((s.members 0 false).map (·.1)).Nodup ∧
      ((bank (rotating 1 128 .running) (1, false)).copy 2).len ≠ ((bank (rotating 1 128 .running) (0, false)).copy 2).len ∧
      (bank (rotating 0 64 .running) (1, false)).rots < 1 ∧ (bank (rotating 0 64 .done) (1, false)).xe.life ≠ .running ∧
      (∀ y ∈ s.members 0 false, s.awayOpen (Party.stream y.1 y.2 .xe) .cp 0 [(windowBase y.1 + 0x1000, 64)] = false) := by
  decide
/-- A partner that has ended by itself, and one that has been discarded with a gang that fails. -/
theorem witness_rotationsStart_lost :
    let s := fun (f : Bool) => ({ rotating 1 64 .done with
      cores := [(0, (rotating 1 64 .done).core 0)]
      gangs := [{ id := 1, cand := 1, seq := 0, ctx := 0, cluster := 0, cores := [0, 1], eff := 5, started := 0, failing := f }] } : State)
    ((s false).members 0 false).length < (s false).gangSize 0 false ∧ (s false).partnerGone 0 false = true ∧
      (s true).partnerGone 0 false = false ∧ ((s true).members 0 false).length < (s true).gangSize 0 false := by decide
/-- A rotation of a core whose own earlier access of another package touches its tile. -/
theorem witness_rotationsStart_away :
    let r : RemAcc := { id := 3, seq := 0, pc := 0, words := 0, path := .cp, addr := 0x80001000, op := .load 8, dest := .greg 1 6 }
    let s := on .xe { rems := [r] } { rots := 1, copies := [(2, { kind := .rot, busy := true, len := 64, rotN := 1, src := 0x1000, seq := 1 })] }
    State.rotSlot ((s.core 0).get false) 1 = some 2 ∧ ({ s with mgmt := { peerid := 0x1000 } } : State).awayOpen
      (Party.stream 0 false .xe) .cp ((s.bank 0).copy 2).seq [(windowBase 0 + 0x1000, 64)] = true := by decide
/-- A stream that waits at an instruction. -/
def waitingAt (e : Eng) (i : Instr) (t : Stream := {}) : State :=
  on e { t with blocked := true, imem := Memory.writeN [] 0 ((encode i).flatMap fun w => natBytes 4 w.toNat) }
theorem witness_waitsRunOut :
    let s := waitingAt .xe (.bwait 1 2 0) { g := [(2, 1)] }
    s.mayIssue 0 .xe = true ∧ ((s.bank 0).get .xe).blocked = true ∧
      (match s.fetch with
        | .exec (.bwait 1 2 0) t => if t.g 2 ≠ 0 then (t.g 2).toNat else 0
        | _ => 0) = 1 ∧
      (match (waitingAt .xe (.xstatWait 3 1 2 0) { g := [(1, 1)] }).fetch with
        | .exec (.xstatWait 3 1 2 0) t => (t.g 1).toNat
        | _ => 0) = 1 ∧
      (match (waitingAt .ce (.rwait 1 0) { calls := [(0, { st := .flight })] }).fetch with
        | .exec (.rwait 1 0) t => decide ((t.me.call ((t.g 1).toNat % 16)).st = .flight)
        | _ => false) = true ∧
      (match (waitingAt .ae (.rwaitAe 1 0) { calls := [(0, { st := .flight })] }).fetch with
        | .exec (.rwaitAe 1 0) _ => true
        | _ => false) = true := by decide
/-- A touch of a busy slot past its deadline, and a wait for a call in flight past the timeout. -/
theorem witness_waitsRunOut_late :
    let s : State := { on .xe { g := [(1, 1)], blocked := true
                                imem := Memory.writeN [] 0 ((encode (.xstatWait 3 1 2 0)).flatMap fun w => natBytes 4 w.toNat) }
                        { copies := [(0, { busy := true })] } with cyc := 1 }
    let r : State := { waitingAt .ce (.rwait 1 0) { calls := [(0, { st := .flight })] } with cyc := 12000000 }
    (match s.fetch with
      | .exec (.xstatWait 3 1 2 0) t => decide (t.afterWait 0 = some t ∧ t.me.owed = [] ∧ (t.g 1).toNat ≤ t.cyc % 2 ^ 64 ∧
          ((t.bank 0).copy ((t.g 2).toNat % 16)).busy = true)
      | _ => false) = true ∧
    (match r.fetch with
      | .exec (.rwait 1 0) t => decide (t.afterWait 0 = some t ∧ (t.me.call ((t.g 1).toNat % 16)).st = .flight ∧
          (t.me.call ((t.g 1).toNat % 16)).issued + 12000000 ≤ t.cyc)
      | _ => false) = true := by decide
/-- A send of two units whose slot starts at tick 9. -/
def sending : Copy := { kind := .send, busy := true, src := 0x1000, len := 128, at_ := 9, peer := 3, chan := 4 }
/-- A receive of 2,048 elements of F4. -/
def receiving (got : List Byte) : Recv := { id := 7, desc := { slotDesc 0 with peer := 3, chan := 4 }, got := got }
theorem witness_slotsCarry :
    let s := copying sending
    s.HasCopy 0 2 false sending ∧ s.cyc < 9 + 0 ∧ 9 + 0 ≤ ({ s with cyc := 9 } : State).cyc ∧
      s.mgmt.peerid.getLsbD 12 = false ∧ ({ s with mgmt := { peerid := 0x1000 } } : State).mgmt.peerid.getLsbD 12 = true ∧
      State.drainHeld ((s.core 0).get false) 1 = false ∧
      s.awayOpen (Party.stream 0 false .xe) .cp sending.seq [(windowBase 0 + 0x1000 + 64 * 0, 64)] = false ∧
      s.eccHit (windowBase 0 + 0x1000 + 64 * 0) 64 = false ∧ s.armed 0 3 4 = none ∧
      (on .xe {} { recvs := [receiving []] }).armed 0 3 4 = some (false, receiving []) ∧ (receiving []).through = true ∧
      slotLen (receiving []).desc.ifmt (receiving []).desc.n = 17 * 64 ∧
      (receiving []).got.length + 64 < slotLen (receiving []).desc.ifmt (receiving []).desc.n := by
  refine ⟨⟨?_, ?_⟩, ?_⟩ <;> decide
/-- A job whose one started stream is stuck, since a cycle or not yet. -/
def stuckJob (since : Option Nat) : State := on .ve { stuck := true, blocked := true } { stuckSince := since }
theorem witness_lateJobs_region :
    let s := waitingAt .ve .nop { sealed := true, sealCount := 65537 }
    s.mayIssue 0 .ve = true ∧ (s.bstrm 0 false .ve).sealed = true ∧ 65536 < s.me.sealCount ∧ s.me.loads = [] ∧
      (match s.imemWord s.me.pc with
        | some w => !wLong w && (match decode s.map w ((s.imemWord (s.me.pc + 4)).getD 0) with
          | .ok .nop => true
          | _ => false)
        | none => false) = true ∧
      interlocked s.me .nop = false ∧ s.rotHeld .nop = false ∧ s.loadsHold .nop = false := by decide
theorem witness_lateJobs :
    ((stuckJob none).bank 0).allStuck = true ∧ ((on .ve {}).bank 0).allStuck = false ∧
      (stuckJob (some 0)).coreCycles 0 < 0 + 1048576 ∧
      0 + 1048576 ≤ ({ stuckJob (some 0) with cycles := 1048576 } : State).coreCycles 0 ∧
      (firstOwed (on .ve { owed := [⟨1, 0x60, 3, [], 0, false, false⟩] }).me.owed).isSome = true ∧ (on .ve {}).mayIssue 0 .ve = true ∧
      (on .ve {}).barrComplete 0 .ve = false ∧ (on .ve { sealed := true, sealCount := 65537 }).me.sealed = true ∧
      (match ({ on .ve { pc := 2 } with cur := .eng 0 .ve } : State).fetch with
        | .other _ => true
        | _ => false) = true := by decide
/-- An access of another package at 0x5010 of function 0. -/
def access0 (op : RemOp) : RemReq := ⟨3, 9, 1, .sc, 0x5010, op⟩
/-- A module whose function 0 exports a page to peers 2 to 4. -/
def exporting (dir : List DirEntry) (r : Option Nat := none) : State :=
  { State.reset with ctxs := [(0, { exctl := 0x1004002, reset := r })], dir := dir, mgmt := { peerid := 0x1001 } }
/-- Its page in the export directory. -/
def exported (perm : BitVec 3) : DirEntry := ⟨4, 0, 5, 0, perm, false, 0x9000⟩
theorem witness_remoteArrives :
    let s := exporting [exported 7]
    let x := s.ctx 0
    ((access0 (.load 8)).addr.extractLsb' 36 9).toNat = 0 ∧ 385 ≤ ((0x1FF000000000#57).extractLsb' 36 9).toNat ∧
      x.exctl.getLsbD 24 = true ∧ (x.exctl.extractLsb' 0 12).toNat ≤ 3 ∧ 3 ≤ (x.exctl.extractLsb' 12 12).toNat ∧
      x.reset = none ∧ ((exporting [] (some 0)).ctx 0).reset ≠ none ∧ ¬(({} : Ctx).exctl.getLsbD 24 = true) ∧
      (exporting []).dir.find? (fun d => d.covers 4 0 0x5010) = none ∧
      s.dir.find? (fun d => d.covers 4 0 0x5010) = some (exported 7) ∧ s.eccHit 0x9010 8 = false ∧
      State.opNeed (.load 8) &&& ~~~(7#3) = 0 ∧ State.opNeed (.store [1]) &&& ~~~(1#3) ≠ 0 ∧
      (∀ k, k < 8 → mapped (0x9010 + k) = true ∧ (s.stepOver (s.peerParty 3 1) .sc 9 [(0x9010, 8)]).tpbGuarded (0x9010 + k) = false) ∧
      inWindow (0x9000#57).toNat = false ∧ State.opReads 0 (.load 8) = true ∧
      ((List.range 8).find? fun k => State.opReads k (.load 8) &&
        ({ s with eccBad := [(0x9010 / 64, true)] } : State).eccHit (0x9010 + k) 1) = some 0 ∧
      ((List.range 8).find? fun k => State.opReads k (.load 8) && s.eccHit (0x9010 + k) 1) = none ∧ s.mgmt.peerid.getLsbD 12 = true ∧ ({} : Mgmt).peerid.getLsbD 12 = false ∧
      State.opNeed (.call 3 [] false 7) &&& ~~~(7#3) = 0 := by decide
/-- The owner's ticket for an earlier access of the same stream, for the access itself, and for one of another stream. -/
theorem witness_remoteArrives_behind :
    let t := fun (strm tag : Nat) => (⟨3, strm, tag, 0, 5, 0x5010, false, true⟩ : OwnTicket)
    let r := access0 (.load 8)
    let mine := fun (t : OwnTicket) => t.peer = r.peer ∧ t.strm = r.strm ∧ t.ctx = 0 ∧ t.page = r.addr.extractLsb' 12 24
    (mine (t 1 8) ∧ (t 1 8).tag < r.tag) ∧ (mine (t 1 9) ∧ (t 1 9).tag = r.tag) ∧ ¬mine (t 2 8) := by decide
/-- A write that is not yet visible everywhere, and the acknowledgement that waits for it. -/
theorem witness_remoteArrives_acks :
    let s := { exporting [exported 7] with
      acks := [⟨access0 (.store [7]), 4, 5, []⟩]
      log := [{ party := Party.stream 0 false .ce, path := .sc, cells := [(0x9010, 7)], no := 4 }], nextId := 6 }
    (∃ a, s.acks[0]? = some a ∧ (s.ackTurn 0).acks = [] ∧ ∀ w ∈ (s.ackTurn 0).log, a.lo ≤ w.no ∧ w.no < a.hi) := by
  exact ⟨_, rfl, by decide⟩
/-- A remote access in flight. -/
def remoteOf (dest : RemDest) (held : Bool) : RemAcc := 
  { id := 3, seq := 3, pc := 0, words := 0, path := .sc, addr := 0x80001000, op := .load 8, dest := dest, held := held, ticketed := held
    entry := 4 }
/-- A stream with it, behind entry 4 of the ticket table. -/
def remoting (r : RemAcc) (t : Stream := {}) (k : Ticket := { reserved := true }) (b : Bank := {}) : State :=
  { State.reset with
    cores := [(0, { a := { b with st := .run, ve := { t with life := .running, rems := [r] } }, tickets := [(4, { k with eng := .ve })] })]
    cur := .eng 0 .ve }
theorem witness_remoteAnswers :
    let r := remoteOf (.greg 5 6) false
    (remoting r).HasRem 0 .ve 3 false r ∧ (remoteOf .none true).held = true ∧
      r.got = none ∧ (¬∃ y ∈ ((remoting r).bstrm 0 false .ve).rems, y.entry = r.entry ∧ y.id < r.id ∧ (y.held = true ∨ y.replayed = true)) ∧
      ((remoting (remoteOf (.call 2 1) false) { calls := [(2, { st := .flight, gen := 1 })] }).me.call 2).st = .flight ∧
      (((remoting (remoteOf (.unit 2 false) false) {} {} { copies := [(2, copyOf none)] }).bank 0).copy 2).busy = true := by
  refine ⟨⟨?_, ?_⟩, ?_⟩ <;> decide
/-- A vector load of two parts, one of which has come; a held access behind one that a notice lets go; and a remote call's fault. -/
theorem witness_remoteAnswers_parts :
    let v := fun (n : Nat) (got : Option (List Byte)) =>
      ({ remoteOf (.vec 3 0 (BitVec.allOnes 1024) 0) false with id := n, got := got } : RemAcc)
    let q := ({ remoteOf (.greg 5 6) true with id := 4 } : RemAcc)
    let k : Ticket := { v := true, reserved := true, notice := true, peer := 3, page := 5 }
    let left := fun (s : State) => (s.bstrm 0 false .ve).rems.filter fun y => y.id ≠ 3
    let two := fun (got : Option (List Byte)) => ({ remoting (v 3 none) with
      cores := [(0, { a := { st := .run, ve := { life := .running, rems := [v 3 none, v 4 got] } } })] } : State)
    let s := ({ remoting (remoteOf (.greg 5 6) false) {} k with
      cores := [(0, { a := { st := .run, ve := { life := .running, rems := [remoteOf (.greg 5 6) false, q] } }, tickets := [(4, k)] })] } : State)
    (two none).HasRem 0 .ve 3 false (v 3 none) ∧ (∃ y ∈ (left (two none)).filter (fun y => y.seq = 3), y.got = none) ∧
      (∀ y ∈ (left (two (some []))).filter (fun y => y.seq = 3), y.got ≠ none) ∧
      ((s.core 0).ticket 4).v = true ∧ ((s.core 0).ticket 4).notice = true ∧
      ((left s).filter fun y => y.entry = 4).find? (fun y => y.held) = some q ∧
      (∀ z ∈ (left s).filter (fun y => y.entry = 4), z.held = true ∨ (z.replayed = false ∧ q.id ≤ z.id)) ∧
      State.inParts (v 3 none).dest = true ∧
      ((remoting { remoteOf (.greg 5 6) true with ticketed := false }).bstrm 0 false .ve).rems.all (fun y => y.held && !y.ticketed) = true := by
  refine ⟨⟨?_, ?_⟩, ?_⟩ <;> decide
theorem witness_ticketsHold :
    let r := remoteOf (.greg 5 6) true
    let k : Ticket := { v := true, reserved := true, peer := 3, page := 5, first := 0 }
    let s := remoting r {} k
    ((s.core 0).ticket 4).v = true ∧ ((s.core 0).ticket 4).notice = false ∧
      ((s.core 0).ticket 4).first + 10000000 < ({ s with cyc := 10000001 } : State).cyc ∧
      ((s.bstrm 0 false .ve).rems.map (·.id)).Nodup ∧ (s.bstrm 0 false .ve).rems.any (fun y => y.replayed && !y.held) = false ∧
      (s.bstrm 0 false .ve).rems.find? (fun y => y.entry = 4 && y.held) = some r ∧
      ((List.range 32).filter fun n => let t := (s.core 0).ticket n; t.v && t.peer = 3 && t.page = 5) = [4] := by decide
/-- An owner with a recorded ticket for page 5 of function 0. -/
def owning (walking : Bool) (s : State) : State := { s with tickets := [⟨3, 1, 9, 0, 5, 0x5010, walking, false⟩] }
theorem witness_ownersAnswer :
    let s := owning true (paged State.reset { exroot := 0x3000 })
    (∃ t ∈ s.tickets, (t.ctx = 0 ∧ t.page = 5 ∧ t.noticed = false) ∧ t.walking = true) ∧ s.exportWalk 0 (5 * 4096) = .leaf 3 7 false 0 ∧
      (owning true State.reset).exportWalk 0 (5 * 4096) = .notPresent ∧
      (∀ t ∈ (owning false s).tickets, t.ctx = 0 ∧ t.page = 5 ∧ t.noticed = false → t.walking = false) := by decide
/-- The last of a gang's rotations to issue finds another length, or a partner gone. -/
theorem witness_rotationsFault :
    (rotating 1 128 .running).rotFault 0 false 1 64 = some 0x55 ∧ (rotating 0 64 .done).rotFault 0 false 1 64 = some 0x54 ∧
      (rotating 1 64 .running).rotFault 0 false 1 64 = none := by decide
/-- A count of R151 that has paused. -/
theorem witness_lateJobs_paused :
    let s := fun (n : Nat) => on .ve { stuck := true, blocked := true } { stuckSince := some 9, stuckFor := n }
    (s 1048584).coreCycles 0 + ((s 1048584).bank 0).stuckFor < 9 + 1048576 ∧
      9 + 1048576 ≤ (s 1048585).coreCycles 0 + ((s 1048585).bank 0).stuckFor ∧ ((s 1048585).bank 0).allStuck = true := by decide

/-! ### Witnesses: queues, graphs, the scheduler, resets and the management plane -/

/-- Context 0 with its memory mapped, a queue of 16 entries at 0x4000 that holds `n`, and a graph of one event node. -/
def submitted (n : Nat) (x : Ctx := {}) : State :=
  poke (poke (poke (paged State.reset { x with sqs := [(0, { base := 0x4000, en := true, tail := BitVec.ofNat 32 n })] }) 0x4000
    (natBytes 8 0x5000 ++ natBytes 24 0)) 0x5000 (natBytes 8 0x6000 ++ natBytes 8 1)) 0x6000
    ([5] ++ natBytes 23 0 ++ natBytes 8 0x7000 ++ natBytes 8 77 ++ natBytes 24 0)
/-- Its submission entry. -/
def entry0 : SubEntry := ⟨0x5000, 0, 0, false, false⟩
/-- A tail beyond the capacity of 16 entries. -/
theorem witness_queuesServed_over :
    ((submitted 1).ctx 0).reset = none ∧ (submitted 1).mgmt.ready = true ∧ ((submitted 1).sq 0 0).en = true ∧
      2 ^ ((submitted 1).sq 0 0).log2n.toNat < ((17 : BitVec 32) - ((submitted 1).sq 0 0).head).toNat ∧
      ¬(2 ^ ((submitted 1).sq 0 0).log2n.toNat < ((16 : BitVec 32) - ((submitted 1).sq 0 0).head).toNat) := by decide
theorem witness_queuesServed :
    let s := submitted 1
    let x := s.sq 0 0
    (s.ctx 0).reset = none ∧ s.mgmt.ready = true ∧ s.mgmt.hold = false ∧ x.en = true ∧ x.head ≠ x.tail ∧
      (x.tail - x.head).toNat ≤ 2 ^ x.log2n.toNat ∧ (s.ctxLoad 0 0x4000 32).map parseSub = some (entry0, true) ∧
      2 ^ x.log2n.toNat < ((submitted 17).sq 0 0).tail.toNat ∧ ((submitted 0).sq 0 0).head = ((submitted 0).sq 0 0).tail ∧
      ({ s with ctxs := [(0, {})] } : State).ctxLoad 0 0x4000 32 = none ∧
      ({ s with eccBad := [(0x4000 / 64, true)] } : State).ctxLoad 0 0x4000 32 = none := by decide
theorem witness_graphStarts :
    let s := submitted 1 { subs := [(0, [entry0])] }
    s.subs 0 0 = [entry0] ∧ (s.readGraph 0 0x5000).isOk = true ∧ s.graphs = [] ∧
      (({ s with graphs := [{ id := 4, ctx := 0, sq := 0, sub := entry0, nodes := [] }]
                 ctxs := [(0, { lastGraph := [(0, 4)] })] } : State).graph
        (tget 0 (({ s with ctxs := [(0, { lastGraph := [(0, 4)] })] } : State).ctx 0).lastGraph 0)).isSome = true := by decide
/-- A graph with one node of a type, whose word or record is at 0x8000. -/
def graphOf (x : Node) (st : Tab NodeSt := []) (copies : Tab GCopy := []) : State :=
  { poke (paged State.reset) 0x8000 (natBytes 8 5) with
    graphs := [{ id := 4, ctx := 0, sq := 0, sub := entry0, nodes := [x, { x with ty := 5 }, { x with ty := 5 }], st := st, copies := copies }]
    nextId := 5 }
/-- A node of a type. -/
def nodeOf (ty : Nat) (const : Word) : Node := ⟨ty, 0, 0, [1, 2], false, 0x8000, const⟩
theorem witness_nodesRun :
    (∀ ty ∈ [0, 1, 2, 3, 4, 5], ∃ g, (graphOf (nodeOf ty 5)).NodeReady 4 0 ty g (nodeOf ty 5)) ∧
      (graphOf (nodeOf 2 5)).ctxLoadNat 0 0x8000 8 = some 5 ∧ condHolds 0 5 5 = true ∧ condHolds 0 5 6 = false ∧
      (graphOf (nodeOf 0 5)).poolOpen 4 0 = true ∧
      ((poke (graphOf (nodeOf 0 5)) 0x8000 walkRec).ctxLoad 0 0x8000 64).map (fun b => (parseWalk b).isSome) = some true ∧
      (((graphOf (nodeOf 5 5)).publish.ctxWrite 0 0x8000 (natBytes 8 5)).isSome = true) := by
  refine ⟨?_, by decide, by decide, by decide, by decide, by decide, by decide⟩
  intro ty h
  refine ⟨{ id := 4, ctx := 0, sq := 0, sub := entry0
            nodes := [nodeOf ty 5, { nodeOf ty 5 with ty := 5 }, { nodeOf ty 5 with ty := 5 }] }, rfl, rfl, rfl, ?_⟩
  revert ty; decide
theorem witness_copyNodes :
    let y : GCopy := ⟨0x9000, 0xA000, 2, 0⟩
    let s := graphOf (nodeOf 1 0) [(0, .running)] [(0, y)]
    ((s.graph 4).map fun g => (g.nodeSt 0, g.copies.find? fun z => z.1 = 0)) = some (.running, some (0, y)) ∧ y.done + 1 < y.units ∧
      (s.ctxLoad 0 0x9000 64).isSome = true ∧ ((s.copyNote 0 y).ctxWrite 0 0xA000 (natBytes 64 0)).isSome = true ∧
      recNat (natBytes 8 0x9000 ++ natBytes 8 0xA000 ++ natBytes 8 128) 16 8 % 64 = 0 := by decide
/-- A candidate of a place. -/
def candOf (place : Place) : Cand :=
  { id := 2, ctx := 0, sq := 0, place := place, eff := 5
    walk := { kit := 0, arg := 0, ndim := 1, gang := 1, prio := 5, ecls := 0, order := [0], ext := [1], str := [1] } }
/-- A module with it, on the clusters of die 0. -/
def scheduling (place : Place) : State :=
  { State.reset with cands := [candOf place], ctxs := [(0, { ckcnt := 8 })], mgmt := { trips := 0xE } }
theorem witness_schedulerEnters :
    (scheduling .spilled).nextEntry = some (candOf .spilled) ∧ ({ scheduling .node with cands := [{ candOf .node with node := some (4, 0) }] } : State).nextEntry =
        some { candOf .node with node := some (4, 0) } ∧
      (scheduling .pool).nextEntry = none ∧ (scheduling .spilled).chosen = none := by decide
theorem witness_schedulerChooses : (scheduling .pool).chosen = some (candOf .pool) := by decide
theorem witness_schedulerPlaces : (scheduling .pool).bestCluster (candOf .pool) = some 0 ∧
    State.candSeq (candOf .pool) = some 0 ∧ (∀ x ∈ (scheduling .pool).slots, x.cand ≠ (candOf .pool).id) ∧ (scheduling .pool).mgmt.ready = true ∧
    (scheduling .pool).mgmt.ebTick + 1000 ≤ ({ scheduling .pool with cyc := 1000 } : State).cyc := by decide
theorem witness_victim :
    let s : State := { yielding 9 with cands := (yielding 9).cands.map fun c => { c with waited := 1000001 } }
    (∀ g ∈ s.gangs, g.longWait = false ∨ g.preempt = none) ∧ (s.gangs.map (·.id)).Nodup ∧ (s.victim.map (·.id)) = some 1 := by decide
/-- A gang that fails, its copy engine done or still running. -/
def failingGang (l : Life) : State :=
  { State.reset with
    cores := [(0, { a := { st := .run, job := { gang := 1 }, xe := { life := l } } })]
    gangs := [{ id := 1, cand := 1, seq := 0, ctx := 0, cluster := 0, cores := [0], eff := 5, started := 0, failing := true }] }
theorem witness_preemptionRuns_failing :
    ((failingGang .done).gang 1).map (fun g => (g.failing, (failingGang .done).gangQuiet g)) = some (true, true) ∧
      ((failingGang .running).gang 1).map (fun g => (failingGang .running).gangQuiet g) = some false := by decide
theorem witness_preemptionRuns :
    let s := preempted {}
    (s.gang 1).map (fun g => (g.preempt, s.gangSealed g, s.sealingDone g, g.noWithdraw)) = some (some 0, false, true, false) ∧ (s.gang 1).map (·.failing) = some false ∧
      0 + 10000000 ≤ ({ s with cyc := 10000000 } : State).cyc ∧
      ((preempted { sealed := true }).gang 1).map (fun g => (preempted { sealed := true }).gangSealed g) = some true := by decide
/-- A core with a READY bank beside one in RUN, and with a bank in WAIT whose record was not posted. -/
def banks (p : Option PfWait) : State :=
  { preempted {} with
    cores := [(0, { a := { st := if p.isSome then .wait else .ready, pf := p }, b := { st := .run, job := { gang := 1 } }, runB := true })]
    cyc := 1000000 }
theorem witness_banks :
    let p : PfWait := ⟨.ce, 1, 0, 0, false, 0, false, 0, 0⟩
    ((banks none).core 0).a.st = .ready ∧ ((banks none).core 0).b.st = .run ∧ ((banks none).core 0).a.readySince + 1000000 ≤ (banks none).cyc ∧
      (((banks (some p)).core 0).get false).pf = some p ∧ (((banks (some p)).core 0).get false).st = .wait ∧
      p.offered + 1000000 ≤ (banks (some p)).cyc := by decide
theorem witness_resets :
    let s := { State.reset with ctxs := [(3, { reset := some 0 })] }
    (s.ctx 3).reset ≠ none ∧ (s.ctx 0).reset = none ∧ s.fnQuiet 3 = true ∧ s.mgmt.recovery = false ∧
      ({ s with mgmt := { resetAt := some 0, ready := false } } : State).mgmt.resetAt ≠ none := by decide
theorem witness_moduleEvents :
    let s := { preempted {} with mgmt := { hold := true, opBusy := true }, cyc := 10000000 }
    s.mgmt.linkUp = true ∧ s.mgmt.ready = true ∧ (s.gang 1).isSome = true ∧ s.mgmt.lossAt + 10000000 ≤ s.cyc ∧
      ((s.gang 1).map fun g => (s.gangBanks g).any fun x => ((s.core x.1).get x.2).sealedAny) = some false ∧
      (((preempted { sealed := true }).gang 1).map fun g => (preempted { sealed := true }).gangBanks g) = some [(0, false)] ∧
      ((preempted { sealed := true }).bank 0).sealedAny = true ∧ (s.core 5).a.busy = false ∧ (s.core 5).b.busy = false ∧
      (tget {} s.mgmt.logs 0 : ErrLog).entries.length < 256 := by decide
theorem witness_moduleEvents_thermal :
    let s := fun (t at_ : Nat) => ({ State.reset with mgmt := { temps := [(23, t)], hotAt := [(0, at_)] }, cyc := 1000001 } : State)
    23 ∈ State.dieSensors 0 ∧ 96 ∈ State.dieSensors 0 ∧ 105 ≤ tget 0 (s 105 0).mgmt.temps 23 ∧
      (∀ n ∈ State.dieSensors 0, tget 0 (s 94 1).mgmt.temps n < 105) ∧ (∀ n ∈ State.dieSensors 0, tget 0 (s 94 1).mgmt.temps n < 95) ∧
      tget 0 (s 94 1).mgmt.hotAt 0 + 1000000 ≤ (s 94 1).cyc ∧ (s 94 2).cyc < tget 0 (s 94 2).mgmt.hotAt 0 + 1000000 := by decide
theorem witness_moduleEvents_memory :
    let s := State.reset
    let idle := fun (s : State) => s.cyc - tget s.mgmt.chanFrom s.mgmt.chanReq 3
    tget 0 s.mgmt.chans 3 = 0 ∧ idle s < s.mgmt.pdidle.toNat ∧ idle { s with cyc := 511 } < s.mgmt.pdidle.toNat ∧
      s.mgmt.pdidle.toNat ≤ idle { s with cyc := 512 } ∧ s.mgmt.sridle.toNat ≤ idle { s with cyc := 100000 } ∧
      inWindow (0x110000200008#45).toNat = true ∧ (s.core (windowCore (0x110000200008#45).toNat)).a.busy = false ∧
      inWindow (0x1000#45).toNat = false := by decide
theorem witness_registerPages :
    let s := State.reset
    (s.ctx 0).kitPend = none ∧ (∀ y ∈ s.invals, ¬(y.ctx = 0 ∧ y.driver = true)) ∧ (0x4000000000000003#64).getLsbD 62 = true ∧
      (0x3E0#64).getLsbD 9 = true ∧ (s.sq 0 0).en = false ∧ (s.sq 0 0).base.toNat % 64 = 0 ∧ s.inReset = false ∧
      ({ s with ctxs := [(3, { reset := some 0 })] } : State).inReset = true := by decide
theorem witness_pageFaultAnswers :
    let p : PfWait := ⟨.ce, 1, 0, 7, true, 0, false, 0, 0⟩
    (banks (some p)).bankWhere 0 (fun b => b.st = .wait && b.job.ctx = 0 && b.pf.any fun p => p.posted && p.seq = 7) = some false := by
  decide
/-- The header of a kit with only an outpost image of 4 bytes at 0x100 from the kit, its data at 0x200 and its tables at 0x400. -/
def kitHead : List Byte :=
  natBytes 4 0x54494B58 ++ natBytes 4 1 ++ natBytes 128 0 ++ natBytes 8 0x100 ++ natBytes 4 4 ++ natBytes 4 0 ++ natBytes 4 0xFFFFFFFF ++
    natBytes 12 0 ++ natBytes 8 0x200 ++ natBytes 8 0 ++ natBytes 8 0x400 ++ natBytes 64 0
theorem witness_kitRegistration :
    let s := poke (paged State.reset { kitPend := some 0x9000 }) 0x9000 kitHead
    (s.ctx 0).kitPend = some 0x9000 ∧ (s.kitHeader 0 0x9000).any (fun h => (kitImage h 4).len ≠ 0) = true ∧
      s.ctxAddr 0 (0x9000 + 0x400 + 1136) 1 = some 0x9870 := by decide
theorem witness_managementAnswers :
    let e : LogEntry := ⟨0, 1, 0, 2, 3, 4⟩
    let s := { State.reset with mgmt := { logs := [(2, ⟨[e], 5⟩)], logSel := 2 } }
    (tget {} s.mgmt.logs 2 : ErrLog).entries = [e] ∧ (tget {} s.mgmt.logs 1 : ErrLog).entries = [] ∧
      s.mgmt.recovery = false ∧ ({ recovery := true } : Mgmt).recovery = true := by decide
theorem witness_instructionMemories :
    (State.reset.core 383).a.busy = false ∧ (0x7FFC#16).toNat + 4 ≤ 0x8000 ∧ ((on .ve {}).core 0).a.busy = true ∧
      (on .ve {}).mayIssue 0 .ve = true := by decide
/-- R453: the pages of function 1 and of the device stand at their places in the physical map. -/
theorem test_register_pages :
    (({ State.reset with mgmt := { ready := true } } : State).hostWriteTurn 0x1F0000010328 (natBytes 8 9)).ctx 1 = { ckcnt := 9 } ∧
      ((State.reset.hostLoadTurn (0x1F0080000000 + 0x18)).outs.length = 1) := by decide

/-! ### Words, the step and canonical memory -/

theorem witness_decodeEncode :
    (Instr.vadd 63 63 63 9 7).wf = true ∧ encode (.vadd 63 63 63 9 7) = [0x83FFFFCF] ∧
      (Instr.lil 7 0x7FFFFFFFFFFFE).wf = true ∧ encode (.lil 7 0x7FFFFFFFFFFFE) = [0x703FFFFF, 0xFFFFFFFE] ∧
      (Instr.extendedVectorForm ⟨3, 1, 2, 0, 2⟩ ⟨4, 4, 0, 0, false⟩).wf = true := by decide
theorem witness_decodeEncode_extended : ∃ j, decodeVec 4 ⟨3, 1, 2, 0, 2⟩ = .ok j := ⟨_, rfl⟩
theorem witness_encodeDecode : ∃ i, decode .outpost 0x94002008 5 = .ok i := ⟨_, rfl⟩
/-- Bytes at the PC of a VE stream. -/
def code (pc : Word) (bs : List Byte) (t : Stream := {}) : State := on .ve { t with pc := pc, imem := Memory.writeN [] pc.toNat bs }
theorem witness_fetches :
    (code 0x7FFC [0, 0, 0, 0x4E]).imemWord 0x7FFC = some 0x4E000000 ∧ (0x7FFC#64).toNat + 4 ≤ (code 0x7FFC []).imemSize ∧
      (code 0 []).imemSize < (0x7FFD#64).toNat + 4 ∧ (code 0 []).imemWord 0x8000 = none ∧ wLong 0x70000000 = true ∧
      (code 0x7FFC [0, 0, 0, 0x70]).imemWord 0x7FFC = some 0x70000000 ∧ (code 0x7FFC [0, 0, 0, 0x70]).imemWord 0x8000 = none ∧
      (code 8 [0, 0, 0, 0x4E]).mayIssue 0 .ve = true ∧ (code 8 []).cur = .eng 0 .ve ∧ (code 8 []).turns = [] := by decide
theorem witness_fetches_frame :
    let s := framed { pc := 0x3FFC }
    s.cur = .frame 0 0 ∧ (s.frame 0 0).busy = true ∧ (s.imemWord s.me.pc).isSome = true ∧ s.imemWord (s.me.pc + 4) = none := by decide
theorem witness_decodes : (∃ r, decode (.eng .ve) 0 0 = .error r) ∧ ∃ i, decode (.eng .ve) 0x4E000000 0 = .ok i := ⟨⟨_, rfl⟩, ⟨_, rfl⟩⟩
theorem witness_heldBack :
    interlocked (code 8 []).me (.add 1 2 3) = false ∧ (code 8 []).rotHeld (.add 1 2 3) = false ∧
      (code 8 []).regionOver .nop = false ∧ (on .ve { sealed := true, sealCount := 65537 }).regionOver .nop = true := by decide
/-- An instruction that waits for a load which has still to read, a plain one that does not, and what a stream has read ahead. -/
theorem witness_loadsHold :
    let s := code 8 [] { loads := [waitingLoad 1 0x1000 8 (.greg 3 6)] }
    s.loadsHold (.twait 1) = true ∧ s.loadsHold .nop = false ∧ s.loadsHold (.add 1 3 2) = false ∧ interlocked s.me (.add 1 3 2) = true ∧ interlocked s.me (.add 1 4 2) = false ∧ (code 8 []).me.loads = [] ∧
      (code 8 []).me.pre = [] ∧ (code 8 []).me.lazy = false ∧ (code 8 [] { pre := [(0x1000, [7])] }).me.pre ≠ [] := by decide
theorem witness_matrixTurn :
    let m : MqEntry := { record := 0, pc := 8, rm := 0, fte := 0, h := 0, started := true }
    let s := { on .ce {} { mq := [m] } with cur := .me 0 }
    s.turns = [] ∧ (s.bank 0).mq = [m] ∧ (s.bank 0).st = .run ∧ s.tripped (dieOf 0) = false ∧ (s.bank 0).meStopped = false ∧
      decodeMx m.record = some .mnop := by decide
theorem witness_turns :
    Instr.isEvent .moduleReset = true ∧ ({ State.reset with turns := [.event .moduleReset] } : State).turns = [.event .moduleReset] ∧
      (code 8 []).me.wdNote = none ∧ ({ wdNote := some 4 } : Stream).wdNote = some 4 := by decide
theorem witness_stepKeepsCanonical : State.reset.mem.wf = true ∧ nextIs (step (code 8 [0, 0, 0, 0x4E])) (fun t => t.me.pc = 12) = true := by
  decide
/-- R373, R381, R400: a load in its path buffer does not see a program-later store of its stream; a load gives the bytes that its
stream has read ahead; and a write that took its step 2^20 cycles ago is visible to every stream of its core. -/
theorem test_load_before_later_store :
    let a := windowBase 0 + 0x1000
    let s := poke (on .ce { loads := [waitingLoad 1 a 8 (.greg 3 6)] }) a [7]
    let s := { s with buf := [{ party := s.party, path := .sc, cells := [(a, 9)], no := 2 }], nextId := 3 }
    ((s.readTurn 0 .ce 0).g 3, (s.readTurn 0 .ce 0).me.loads.length, s.readByte s.party .sc a) = (7, 0, 9) := by decide
theorem test_load_read_ahead :
    let a := windowBase 0 + 0x1000
    let s := poke (on .ce { g := [(1, 0x1000)], pre := [(a, [7, 0, 0, 0])] }) a [9]
    nextIs (exec (.ld 3 1 0 4) s) (fun t => t.g 3 = 7) = true := by decide
theorem test_write_ages :
    let w : Write := { party := Party.stream 0 false .ce, path := .sc, cells := [(windowBase 0, 9)], no := 1 }
    let s := { State.reset with log := [w], cycles := 1048576 }
    (s.readByte (Party.stream 0 false .ve) .vec (windowBase 0), s.ageWrites.readByte (Party.stream 0 false .ve) .vec (windowBase 0),
      s.ageWrites.readByte (Party.stream 1 false .ve) .vec (windowBase 0)) = (0, 9, 0) := by decide

/-! ### Decoding: every word below is written from the opcode table and R67 to R84, one for each instruction that has one -/

theorem test_words_shared_1 :
    decode (.eng .xe) 0x03629100 0 = .ok (.add 44 20 34) ∧
    decode (.eng .xe) 0x03629101 0 = .ok (.sub 44 20 34) ∧
    decode (.eng .xe) 0x03629102 0 = .ok (.mul 44 20 34) ∧
    decode (.eng .xe) 0x03629103 0 = .ok (.mulh 44 20 34) ∧
    decode (.eng .xe) 0x03629104 0 = .ok (.mulhu 44 20 34) ∧
    decode (.eng .xe) 0x03629105 0 = .ok (.madd 44 20 34) ∧
    decode (.eng .xe) 0x03629106 0 = .ok (.div 44 20 34) ∧
    decode (.eng .xe) 0x03629107 0 = .ok (.divu 44 20 34) ∧
    decode (.eng .xe) 0x03629108 0 = .ok (.rem 44 20 34) ∧
    decode (.eng .xe) 0x03629109 0 = .ok (.remu 44 20 34) ∧
    decode (.eng .xe) 0x0362910A 0 = .ok (.and 44 20 34) ∧
    decode (.eng .xe) 0x0362910B 0 = .ok (.or 44 20 34) ∧
    decode (.eng .xe) 0x0362910C 0 = .ok (.xor 44 20 34) ∧
    decode (.eng .xe) 0x0362910D 0 = .ok (.shl 44 20 34) ∧
    decode (.eng .xe) 0x0362910E 0 = .ok (.shr 44 20 34) ∧
    decode (.eng .xe) 0x0362910F 0 = .ok (.sha 44 20 34) ∧
    decode (.eng .xe) 0x03629110 0 = .ok (.min 44 20 34) ∧
    decode (.eng .xe) 0x03629111 0 = .ok (.max 44 20 34) ∧
    decode (.eng .xe) 0x03629112 0 = .ok (.minu 44 20 34) ∧
    decode (.eng .xe) 0x03629113 0 = .ok (.maxu 44 20 34) ∧
    decode (.eng .xe) 0x03628014 0 = .ok (.clz 44 20) ∧
    decode (.eng .xe) 0x03628015 0 = .ok (.popc 44 20) ∧
    decode (.eng .xe) 0x05629105 0 = .ok (.cmp 5 44 20 34) ∧
    decode (.eng .xe) 0x07629105 0 = .ok (.sel 44 20 34 5) ∧
    decode (.eng .xe) 0x09629234 0 = .ok (.addi 44 20 0x1234) :=
  ⟨rfl, rfl, rfl, rfl, rfl, rfl, rfl, rfl, rfl, rfl, rfl, rfl, rfl, rfl, rfl, rfl, rfl, rfl, rfl, rfl, rfl, rfl, rfl, rfl, rfl⟩
theorem test_words_shared_2 :
    decode (.eng .xe) 0x0B628155 0 = .ok (.andi 44 20 0x155) ∧
    decode (.eng .xe) 0x0D628155 0 = .ok (.ori 44 20 0x155) ∧
    decode (.eng .xe) 0x0F628155 0 = .ok (.xori 44 20 0x155) ∧
    decode (.eng .xe) 0x11628005 0 = .ok (.shli 44 20 5) ∧
    decode (.eng .xe) 0x13628005 0 = .ok (.shri 44 20 5) ∧
    decode (.eng .xe) 0x15628005 0 = .ok (.shai 44 20 5) ∧
    decode (.eng .xe) 0x17628847 0 = .ok (.bfx 44 20 7 33) ∧
    decode (.eng .xe) 0x17629847 0 = .ok (.bfxS 44 20 7 33) ∧
    decode (.eng .xe) 0x19628847 0 = .ok (.bfi 44 20 7 33) ∧
    decode (.eng .xe) 0x1B65A5A5 0 = .ok (.li 44 0x5a5a5) ∧
    decode (.eng .xe) 0x1D67FFFE 0 = .ok (.lui 44 0x7fffe) ∧
    decode (.eng .xe) 0x1EAA00AC 0 = .ok (.bcz 5 20 172) ∧
    decode (.eng .xe) 0x20AA44AC 0 = .ok (.bc 5 20 34 172) ∧
    decode (.eng .xe) 0x23628000 0 = .ok (.jmp 44 20) ∧
    decode (.eng .xe) 0x256000AC 0 = .ok (.call 44 172) ∧
    decode (.eng .xe) 0x268059C3 0 = .ok (.loop 1 5 0x9c3) ∧
    decode (.eng .xe) 0x292AB9C3 0 = .ok (.loopi 2 0x2ab 0x9c3) ∧
    decode (.eng .xe) 0x2B805801 0 = .ok (.loopr 3 5 0x801) ∧
    decode (.eng .xe) 0x2C800000 0 = .ok (.leave 1) ∧
    decode (.eng .xe) 0x2F628AAE 0 = .ok (.ld 44 20 0x155 6) ∧
    decode (.eng .xe) 0x31628AAE 0 = .ok (.st 44 20 0x155 6) ∧
    decode (.eng .xe) 0x336293AE 0 = .ok (.ldHandle 44 20 19 21 6) ∧
    decode (.eng .xe) 0x356293AE 0 = .ok (.stHandle 44 20 19 21 6) ∧
    decode (.eng .xe) 0x37660AC8 0 = .ok (.spl 44 6 0xac8) ∧
    decode (.eng .xe) 0x39660AC8 0 = .ok (.sps 44 6 0xac8) :=
  ⟨rfl, rfl, rfl, rfl, rfl, rfl, rfl, rfl, rfl, rfl, rfl, rfl, rfl, rfl, rfl, rfl, rfl, rfl, rfl, rfl, rfl, rfl, rfl, rfl, rfl⟩
theorem test_words_shared_3 :
    decode (.eng .xe) 0x3A628000 0 = .ok (.kmovKFromG 12 20) ∧
    decode (.eng .xe) 0x3B612001 0 = .ok (.kmovGFromK 44 9) ∧
    decode (.eng .xe) 0x3A612002 0 = .ok (.kmovKFromK 12 9) ∧
    decode (.eng .xe) 0x3C613FFF 0 = .ok (.kaddi 12 9 0x1fff) ∧
    decode (.eng .xe) 0x3E000005 0 = .ok (.twait 5) ∧
    decode (.eng .xe) 0x40000005 0 = .ok (.tsig 5) ∧
    decode (.eng .xe) 0x42000004 0 = .ok (.fence 4) ∧
    decode (.eng .xe) 0x4400014B 0 = .ok (.xfence 3 41) ∧
    decode (.eng .xe) 0x46028000 0 = .ok (.waitc 20) ∧
    decode (.eng .xe) 0x4960004F 0 = .ok (.csrr 44 79) ∧
    decode (.eng .xe) 0x4A028021 0 = .ok (.csrw 33 20) ∧
    decode (.eng .xe) 0x4C001ABC 0 = .ok (.trap 0x1abc) ∧
    decode (.eng .xe) 0x4E000000 0 = .ok (.nop) ∧
    decode (.eng .xe) 0x4E000001 0 = .ok (.rdv) ∧
    decode (.eng .xe) 0x4E000002 0 = .ok (.tret) ∧
    decode (.eng .xe) 0x703FFFFF 0xFFFFFFFE = .ok (.lil 7 0x7FFFFFFFFFFFE) ∧
    decode (.eng .xe) 0x72280040 0x0000000C = .ok (.ldAq 5 0 64 4 1 0 false 0) ∧
    decode (.eng .xe) 0x72FBC000 0x0000502C = .ok (.ldAq 31 30 0 4 5 0 true 2) ∧
    decode (.eng .xe) 0x74012000 0x0000040E = .ok (.stRl 0 9 0 6 1 16 false 0) ∧
    decode (.eng .xe) 0x76000000 0x0000FFFE = .ok (.region 0x7FFF) ∧
    decode (.eng .xe) 0x1A501000 0 = .ok (.li 10 0x1000) ∧
    decode (.eng .xe) 0x28008003 0 = .ok (.loopi 0 8 3) ∧
    decode (.eng .xe) 0x2E614004 0 = .ok (.ld 12 10 0 4) ∧
    decode (.eng .xe) 0x30594004 0 = .ok (.st 11 10 0 4) ∧
    decode (.eng .xe) 0x02596600 0 = .ok (.add 11 11 12) :=
  ⟨rfl, rfl, rfl, rfl, rfl, rfl, rfl, rfl, rfl, rfl, rfl, rfl, rfl, rfl, rfl, rfl, rfl, rfl, rfl, rfl, rfl, rfl, rfl, rfl, rfl⟩
theorem test_words_shared_4 :
    decode (.eng .xe) 0x20428DF8 0 = .ok (.bc 2 5 6 0x1F8) ∧
    decode (.eng .xe) 0x1E24FFFF 0 = .ok (.bcz 1 9 0x7FFF) ∧
    decode (.eng .xe) 0x2E188084 0 = .ok (.ld 3 4 16 4) ∧
    decode (.eng .xe) 0x3239C106 0 = .ok (.ldHandle 7 14 1 0 6) :=
  ⟨rfl, rfl, rfl, rfl⟩
theorem test_words_ce :
    decode (.eng .ce) 0x82028006 0 = .ok (.mqpush 20 6) ∧
    decode (.eng .ce) 0x85600006 0 = .ok (.mqdrop 44 6) ∧
    decode (.eng .ce) 0x87600006 0 = .ok (.mqdepth 44 6) ∧
    decode (.eng .ce) 0x8760000E 0 = .ok (.mqdepthClr 44 6) ∧
    decode (.eng .ce) 0x880002AE 0 = .ok (.semw 5 5 6) ∧
    decode (.eng .ce) 0x8A0002AE 0 = .ok (.sems 5 5 6) ∧
    decode (.eng .ce) 0x8D62910E 0 = .ok (.bsel 1 44 20 34 6) ∧
    decode (.eng .ce) 0x8F628006 0 = .ok (.launch 44 20 6) ∧
    decode (.eng .ce) 0x9012802E 0 = .ok (.ftw 5 20 2 6) ∧
    decode (.eng .ce) 0x94028006 0 = .ok (.rwait 20 6) ∧
    decode (.eng .ce) 0x97628006 0 = .ok (.rpoll 44 20 6) ∧
    decode (.eng .ce) 0x99600006 0 = .ok (.yield 44 6) ∧
    decode (.eng .ce) 0x9B628006 0 = .ok (.gsfset 44 20 6) ∧
    decode (.eng .ce) 0x9B62800E 0 = .ok (.gsfsetOr 44 20 6) ∧
    decode (.eng .ce) 0x920841A5 0 = .ok (.kitld 1 2 3 4 5) ∧
    decode (.eng .ce) 0xF0F2A200 0x04C10403 = .ok (.rcall 30 21 4 0 ⟨3, 1, 1, 12, 1, false⟩) ∧
    decode (.eng .ce) 0x8A000099 0 = .ok (.sems 3 1 1) ∧
    decode (.eng .ce) 0x98280000 0 = .ok (.yield 5 0) ∧
    decode (.eng .ce) 0x9A48A008 0 = .ok (.gsfsetOr 9 5 0) ∧
    decode (.eng .ce) 0x82028000 0 = .ok (.mqpush 20 0) :=
  ⟨rfl, rfl, rfl, rfl, rfl, rfl, rfl, rfl, rfl, rfl, rfl, rfl, rfl, rfl, rfl, rfl, rfl, rfl, rfl, rfl⟩
theorem test_words_ae_1 :
    decode (.eng .ae) 0x83629136 0 = .ok (.qld 6 44 20 34 6) ∧
    decode (.eng .ae) 0x84029106 0 = .ok (.scq 20 34 6) ∧
    decode (.eng .ae) 0x876289AE 0 = .ok (.gld 5 44 19 20 6) ∧
    decode (.eng .ae) 0x896289A6 0 = .ok (.gst 4 44 19 20 6) ∧
    decode (.eng .ae) 0x8A9A910E 0 = .ok (.amoAdd false 19 1 20 34 6) ∧
    decode (.eng .ae) 0x8C9A910E 0 = .ok (.amoMin false 19 1 20 34 6) ∧
    decode (.eng .ae) 0x8E9A910E 0 = .ok (.amoMax false 19 1 20 34 6) ∧
    decode (.eng .ae) 0x909A910E 0 = .ok (.amoAnd false 19 1 20 34 6) ∧
    decode (.eng .ae) 0x929A910E 0 = .ok (.amoOr false 19 1 20 34 6) ∧
    decode (.eng .ae) 0x949A910E 0 = .ok (.amoXor false 19 1 20 34 6) ∧
    decode (.eng .ae) 0x969A910E 0 = .ok (.amoSwap false 19 1 20 34 6) ∧
    decode (.eng .ae) 0x989A910E 0 = .ok (.amoCas false 19 1 20 34 6) ∧
    decode (.eng .ae) 0x9A9A912E 0 = .ok (.xlt 5 19 20 34 6) ∧
    decode (.eng .ae) 0x9C9A912E 0 = .ok (.xltw 5 19 20 34 6) ∧
    decode (.eng .ae) 0x9E000006 0 = .ok (.hinvAll 6) ∧
    decode (.eng .ae) 0x9E02800E 0 = .ok (.hinvRid 20 6) ∧
    decode (.eng .ae) 0x9E029116 0 = .ok (.hinvRange 20 34 6) ∧
    decode (.eng .ae) 0x9E02911E 0 = .ok (.hinvRangeRem 20 34 6) ∧
    decode (.eng .ae) 0xA1626006 0 = .ok (.hchk 44 19 6) ∧
    decode (.eng .ae) 0xA162600E 0 = .ok (.hchkAddr 44 19 6) ∧
    decode (.eng .ae) 0xA2612016 0 = .ok (.hmov 2 12 9 6) ∧
    decode (.eng .ae) 0xA40A8006 0 = .ok (.kget 1 20 6) ∧
    decode (.eng .ae) 0xA6028086 0 = .ok (.wrel 20 1 6) ∧
    decode (.eng .ae) 0xA89A9106 0 = .ok (.tupd 19 20 34 6) ∧
    decode (.eng .ae) 0xAA028006 0 = .ok (.tskip 20 6) :=
  ⟨rfl, rfl, rfl, rfl, rfl, rfl, rfl, rfl, rfl, rfl, rfl, rfl, rfl, rfl, rfl, rfl, rfl, rfl, rfl, rfl, rfl, rfl, rfl, rfl, rfl⟩
theorem test_words_ae_2 :
    decode (.eng .ae) 0xAD62914E 0 = .ok (.nred 9 44 20 34 6) ∧
    decode (.eng .ae) 0xAE9A914E 0 = .ok (.nadd 9 19 20 34 6) ∧
    decode (.eng .ae) 0xB09A910E 0 = .ok (.namoAdd 1 19 20 34 6) ∧
    decode (.eng .ae) 0xB09A912E 0 = .ok (.namoMax 1 19 20 34 6) ∧
    decode (.eng .ae) 0xB09A914E 0 = .ok (.namoSwap 1 19 20 34 6) ∧
    decode (.eng .ae) 0xB09A916E 0 = .ok (.namoCas 1 19 20 34 6) ∧
    decode (.eng .ae) 0xB2000006 0 = .ok (.nfence 6) ∧
    decode (.eng .ae) 0xB360000E 0 = .ok (.nfencePoll 44 6) ∧
    decode (.eng .ae) 0xB4028006 0 = .ok (.nseq 20 6) ∧
    decode (.eng .ae) 0xB6028006 0 = .ok (.rwaitAe 20 6) ∧
    decode (.eng .ae) 0xB9628006 0 = .ok (.tkq 44 20 6) ∧
    decode (.eng .ae) 0xB960000E 0 = .ok (.tkqCnt 44 6) ∧
    decode (.eng .ae) 0xBA9A9106 0 = .ok (.pft 19 20 34 6) ∧
    decode (.eng .ae) 0xF05B0B00 0x000C3E1F = .ok (.tld 11 24 22 0 0 ⟨31, 31, 3, false, 0, 0⟩) ∧
    decode (.eng .ae) 0xF2A30B11 0x0D5403FF = .ok (.tldt 20 24 22 2 1 ⟨0x1FF, 1, 5, true, 2, 3⟩) ∧
    decode (.eng .ae) 0xF4A30B11 0x08800E0F = .ok (.tst 20 24 22 2 1 15 7 1 2) ∧
    decode (.eng .ae) 0xF6F2A200 0x04C10403 = .ok (.rcallAe 30 21 4 0 ⟨3, 1, 1, 12, 1, false⟩) ∧
    decode (.eng .ae) 0x9A0A8008 0 = .ok (.xlt 1 1 20 0 0) ∧
    decode (.eng .ae) 0xA80B0500 0 = .ok (.tupd 1 24 10 0) ∧
    decode (.eng .ae) 0xAC516000 0 = .ok (.nred 0 10 11 0 0) :=
  ⟨rfl, rfl, rfl, rfl, rfl, rfl, rfl, rfl, rfl, rfl, rfl, rfl, rfl, rfl, rfl, rfl, rfl, rfl, rfl, rfl⟩
theorem test_words_ve_1 :
    decode (.eng .ve) 0x83629156 0 = .ok (.vadd 44 20 34 10 6) ∧
    decode (.eng .ve) 0x85629116 0 = .ok (.vsub 44 20 34 2 6) ∧
    decode (.eng .ve) 0x87629106 0 = .ok (.vmul 44 20 34 0 6) ∧
    decode (.eng .ve) 0x89629106 0 = .ok (.vfma 44 20 34 0 6) ∧
    decode (.eng .ve) 0x8B629106 0 = .ok (.vfms 44 20 34 0 6) ∧
    decode (.eng .ve) 0x8D629106 0 = .ok (.vmin 44 20 34 0 6) ∧
    decode (.eng .ve) 0x8F629106 0 = .ok (.vmax 44 20 34 0 6) ∧
    decode (.eng .ve) 0x91629146 0 = .ok (.vand 44 20 34 8 6) ∧
    decode (.eng .ve) 0x93629146 0 = .ok (.vor 44 20 34 8 6) ∧
    decode (.eng .ve) 0x95629146 0 = .ok (.vxor 44 20 34 8 6) ∧
    decode (.eng .ve) 0x97629146 0 = .ok (.vshl 44 20 34 8 6) ∧
    decode (.eng .ve) 0x99629146 0 = .ok (.vshr 44 20 34 8 6) ∧
    decode (.eng .ve) 0x9B629146 0 = .ok (.vsha 44 20 34 8 6) ∧
    decode (.eng .ve) 0x9D628006 0 = .ok (.vabs 44 20 0 6) ∧
    decode (.eng .ve) 0x9D628086 0 = .ok (.vneg 44 20 0 6) ∧
    decode (.eng .ve) 0x9F62911E 0 = .ok (.vwadd 44 20 34 3 6) ∧
    decode (.eng .ve) 0xA162911E 0 = .ok (.vwmul 44 20 34 3 6) ∧
    decode (.eng .ve) 0xA362911E 0 = .ok (.vwfma 44 20 34 3 6) ∧
    decode (.eng .ve) 0xA5628026 0 = .ok (.vnrw 44 20 0 4 6) ∧
    decode (.eng .ve) 0xA76282CE 0 = .ok (.vcvt 44 20 5 9 6) ∧
    decode (.eng .ve) 0xA9628086 0 = .ok (.vqnt 44 20 1 0 6) ∧
    decode (.eng .ve) 0xAB62800E 0 = .ok (.vdqt 44 20 1 6) ∧
    decode (.eng .ve) 0xACBA9106 0 = .ok (.vcmp 1 7 20 34 0 6) ∧
    decode (.eng .ve) 0xAF629166 0 = .ok (.vsel 44 20 34 12 6) ∧
    decode (.eng .ve) 0xB0612306 0 = .ok (.pand 12 9 6 6) :=
  ⟨rfl, rfl, rfl, rfl, rfl, rfl, rfl, rfl, rfl, rfl, rfl, rfl, rfl, rfl, rfl, rfl, rfl, rfl, rfl, rfl, rfl, rfl, rfl, rfl, rfl⟩
theorem test_words_ve_2 :
    decode (.eng .ve) 0xB061230E 0 = .ok (.por 12 9 6 6) ∧
    decode (.eng .ve) 0xB0612316 0 = .ok (.pxor 12 9 6 6) ∧
    decode (.eng .ve) 0xB061201E 0 = .ok (.pnot 12 9 6) ∧
    decode (.eng .ve) 0xB3612106 0 = .ok (.pcnt 44 9 2 6) ∧
    decode (.eng .ve) 0xB361210E 0 = .ok (.pfirst 44 9 2 6) ∧
    decode (.eng .ve) 0xB43A80A6 0 = .ok (.pstage 7 20 2 4 6) ∧
    decode (.eng .ve) 0xB762913E 0 = .ok (.vperm 44 20 34 7 6) ∧
    decode (.eng .ve) 0xB962912E 0 = .ok (.vshuf 44 20 34 6) ∧
    decode (.eng .ve) 0xBB62805E 0 = .ok (.vbcast 44 20 11 6) ∧
    decode (.eng .ve) 0xBD629106 0 = .ok (.vextr 44 20 34 0 6) ∧
    decode (.eng .ve) 0xBF629106 0 = .ok (.vins 44 20 34 0 6) ∧
    decode (.eng .ve) 0xC1629106 0 = .ok (.vslide 44 20 34 0 6) ∧
    decode (.eng .ve) 0xC3629106 0 = .ok (.vzip 44 20 34 0 6) ∧
    decode (.eng .ve) 0xC5628006 0 = .ok (.vuzp 44 20 0 6) ∧
    decode (.eng .ve) 0xC7628006 0 = .ok (.vrsum 44 20 0 6) ∧
    decode (.eng .ve) 0xC7628086 0 = .ok (.vrmax 44 20 0 6) ∧
    decode (.eng .ve) 0xC7628106 0 = .ok (.vrmin 44 20 0 6) ∧
    decode (.eng .ve) 0xC9628006 0 = .ok (.vscan 44 20 0 6) ∧
    decode (.eng .ve) 0xCB628386 0 = .ok (.vsegr 44 20 7 0 6) ∧
    decode (.eng .ve) 0xCD628006 0 = .ok (.vsort 44 20 0 6) ∧
    decode (.eng .ve) 0xCD628086 0 = .ok (.vsortDesc 44 20 0 6) ∧
    decode (.eng .ve) 0xCE3A8046 0 = .ok (.vuniq 7 20 8 6) ∧
    decode (.eng .ve) 0xD1628006 0 = .ok (.vexp2 44 20 6) ∧
    decode (.eng .ve) 0xD1628086 0 = .ok (.vlog2 44 20 6) ∧
    decode (.eng .ve) 0xD1628106 0 = .ok (.vrcp 44 20 6) :=
  ⟨rfl, rfl, rfl, rfl, rfl, rfl, rfl, rfl, rfl, rfl, rfl, rfl, rfl, rfl, rfl, rfl, rfl, rfl, rfl, rfl, rfl, rfl, rfl, rfl, rfl⟩
theorem test_words_ve_3 :
    decode (.eng .ve) 0xD1628186 0 = .ok (.vrsq 44 20 6) ∧
    decode (.eng .ve) 0xD1628206 0 = .ok (.vexp 44 20 6) ∧
    decode (.eng .ve) 0xD1628286 0 = .ok (.vtanh 44 20 6) ∧
    decode (.eng .ve) 0xD1628306 0 = .ok (.vsig 44 20 6) ∧
    decode (.eng .ve) 0xD1628386 0 = .ok (.vgelu 44 20 6) ∧
    decode (.eng .ve) 0xD3600046 0 = .ok (.vhash 44 8 6) ∧
    decode (.eng .ve) 0xD5629116 0 = .ok (.vdrop 44 20 34 2 6) ∧
    decode (.eng .ve) 0xD76299EE 0 = .ok (.vld 44 20 true 19 13 6) ∧
    decode (.eng .ve) 0xD9629986 0 = .ok (.vst 44 20 true 19 0 6) ∧
    decode (.eng .ve) 0xDB629136 0 = .ok (.vlds 44 20 34 6 6) ∧
    decode (.eng .ve) 0xDD629106 0 = .ok (.vsts 44 20 34 0 6) ∧
    decode (.eng .ve) 0xDF629116 0 = .ok (.vgth 44 20 34 2 6) ∧
    decode (.eng .ve) 0xE162914E 0 = .ok (.vsct 44 20 34 9 6) ∧
    decode (.eng .ve) 0xE3628006 0 = .ok (.accrd 44 20 6) ∧
    decode (.eng .ve) 0xE5628006 0 = .ok (.accwr 44 20 6) ∧
    decode (.eng .ve) 0xE6028006 0 = .ok (.vrotb 20 6) ∧
    decode (.eng .ve) 0xE80A8386 0 = .ok (.vdefer 1 20 7 0 6) ∧
    decode (.eng .ve) 0xEB628006 0 = .ok (.vdrain 44 20 0 6) ∧
    decode (.eng .ve) 0xED628006 0 = .ok (.vdqn 44 20 6) ∧
    decode (.eng .ve) 0xF0182102 0x00000104 = .ok (.extendedVectorForm ⟨3, 1, 2, 0, 2⟩ ⟨4, 4, 0, 0, false⟩) ∧
    decode (.eng .ve) 0xF061AB80 0x000001B0 = .ok (.extendedVectorForm ⟨12, 13, 23, 0, 0⟩ ⟨48, 6, 0, 0, false⟩) ∧
    decode (.eng .ve) 0xF0412200 0x0000A493 = .ok (.extendedVectorForm ⟨8, 9, 4, 0, 0⟩ ⟨19, 2, 1, 1, true⟩) ∧
    decode (.eng .ve) 0xA8488180 0 = .ok (.vqnt 9 4 3 0 0) :=
  ⟨rfl, rfl, rfl, rfl, rfl, rfl, rfl, rfl, rfl, rfl, rfl, rfl, rfl, rfl, rfl, rfl, rfl, rfl, rfl, rfl, rfl, rfl, rfl⟩
theorem test_words_xe :
    decode (.eng .xe) 0x83629106 0 = .ok (.xcopy 44 20 34 6) ∧
    decode (.eng .xe) 0x8562912E 0 = .ok (.xmcast 5 44 20 34 6) ∧
    decode (.eng .xe) 0x87629106 0 = .ok (.xrot 44 20 34 6) ∧
    decode (.eng .xe) 0x89629106 0 = .ok (.xfill 44 20 34 6) ∧
    decode (.eng .xe) 0x8A029106 0 = .ok (.binit 20 34 6) ∧
    decode (.eng .xe) 0x8A02910E 0 = .ok (.binitClr 20 34 6) ∧
    decode (.eng .xe) 0x8C029106 0 = .ok (.bwait 20 34 6) ∧
    decode (.eng .xe) 0x8F628006 0 = .ok (.bqry 44 20 6) ∧
    decode (.eng .xe) 0x90000006 0 = .ok (.barr 6) ∧
    decode (.eng .xe) 0x92029106 0 = .ok (.fsend 20 34 6) ∧
    decode (.eng .xe) 0x94028006 0 = .ok (.frecv 20 6) ∧
    decode (.eng .xe) 0x96028006 0 = .ok (.fwiden 20 6) ∧
    decode (.eng .xe) 0x989A912E 0 = .ok (.xltx 5 19 20 34 6) ∧
    decode (.eng .xe) 0x9B601106 0 = .ok (.xstat 44 34 6) ∧
    decode (.eng .xe) 0x9B62910E 0 = .ok (.xstatWait 44 20 34 6) ∧
    decode (.eng .xe) 0x9D601106 0 = .ok (.xcancel 44 34 6) ∧
    decode (.eng .xe) 0xF0508580 0x0000001F = .ok (.xcopy2d 10 4 11 0 31) ∧
    decode (.eng .xe) 0xF2508000 0x00000028 = .ok (.freq 10 4 0 40) ∧
    decode (.eng .xe) 0x8452A5F8 0 = .ok (.xmcast 15 10 21 11 0) ∧
    decode (.eng .xe) 0x9A600588 0 = .ok (.xstatWait 12 0 11 0) :=
  ⟨rfl, rfl, rfl, rfl, rfl, rfl, rfl, rfl, rfl, rfl, rfl, rfl, rfl, rfl, rfl, rfl, rfl, rfl, rfl, rfl⟩
theorem test_words_outpost :
    decode (.outpost) 0x83628030 0 = .ok (.old 44 20 6) ∧
    decode (.outpost) 0x85628030 0 = .ok (.ost 44 20 6) ∧
    decode (.outpost) 0x86029108 0 = .ok (.oamoAdd 1 20 34) ∧
    decode (.outpost) 0x86029128 0 = .ok (.oamoMax 1 20 34) ∧
    decode (.outpost) 0x86029148 0 = .ok (.oamoSwap 1 20 34) ∧
    decode (.outpost) 0x86029168 0 = .ok (.oamoCas 1 20 34) ∧
    decode (.outpost) 0x88612300 0 = .ok (.ovadd 12 9 6) ∧
    decode (.outpost) 0x8A612300 0 = .ok (.ovmul 12 9 6) ∧
    decode (.outpost) 0x8C612300 0 = .ok (.ovfma 12 9 6) ∧
    decode (.outpost) 0x8E612300 0 = .ok (.ovmax 12 9 6) ∧
    decode (.outpost) 0x90628000 0 = .ok (.ovld 12 20) ∧
    decode (.outpost) 0x92628000 0 = .ok (.ovst 12 20) ∧
    decode (.outpost) 0x94028018 0 = .ok (.oreply 3 20) ∧
    decode (.outpost) 0x860120A0 0 = .ok (.oamoMax 0 9 1) ∧
    decode (.outpost) 0x94002008 0 = .ok (.oreply 1 1) :=
  ⟨rfl, rfl, rfl, rfl, rfl, rfl, rfl, rfl, rfl, rfl, rfl, rfl, rfl, rfl, rfl⟩

/-- The matrix commands' records, word 3 first: those of the worked examples, and one for each other command (R200 to R239). -/
theorem test_records :
    decodeMx 0 = some .mnop ∧
    decodeMx 0x00000000000000000000020000050003 = some (.bload ⟨hdr0, 5, 0, false, false, 0, 0, 0, 0, 4, 0, 0, 0⟩) ∧
    decodeMx 0x00000000000018000000020000450003 = some (.bload ⟨hdr0, 5, 0, true, false, 0, 0, 0, 0, 4, 0, 0x1800, 0⟩) ∧
    decodeMx 0x00000040000000000000000000030002 = some (.mmaz ⟨hdr0, 3, 0, 0, false, 0, 0, 0, 0, 0, 64⟩) ∧
    decodeMx 0x000000000000000000_1C0000_01930001 = some (.mma ⟨hdr0, 3, 1, 2, true, 0, 0, 0, 7, 0, 0⟩) ∧
    decodeMx 0x0000040000001000000000000003000A = some (.abank ⟨hdr0, 3, 0, 0, false, 0, 0, 0, 0, 0x1000, 0x400⟩) ∧
    decodeMx 0x00000000000000000000000000010004 = some (.bslot ⟨hdr0, true, false⟩) ∧
    decodeMx 0x00000000000000000008820800000075 = some (.accz ⟨⟨true, 3, false, 0⟩, ⟨8, 1, 1, 2⟩⟩) ∧
    decodeMx 0x00000004004000C00100000000020206 =
      some (.drain ⟨⟨false, 0, true, 0⟩, 2, 0, 0, false, ⟨0, 0, 0, 0⟩, 0, true, false, false, false, 0xC0, 0x80, 4⟩) ∧
    decodeMx 0x02080008004000C00000000000000607 =
      some (.prj ⟨⟨⟨false, 0, true, 1⟩, 0, 0, 0, false, ⟨0, 0, 0, 0⟩, 0, false, false, false, false, 0xC0, 0x80, 8⟩, 0, 1, 0, true⟩) ∧
    decodeMx 0x00000008004081400000000000000A08 =
      some (.prjadj ⟨⟨false, 0, true, 2⟩, 0, 0, 0, false, ⟨0, 0, 0, 0⟩, 0x140, 0x81, 8, 0, 0⟩) ∧
    decodeMx 0x00000000000000000000000000000E09 = some (.semsig ⟨false, 0, true, 3⟩) := by decide
/-- Records with a reserved bit or a reserved kind. -/
theorem test_records_reserved :
    decodeMx 0x10 = none ∧ decodeMx 0xB = none ∧ decodeMx 0x4002 = none ∧ decodeMx 0x00008000000000000000000000000006 = none ∧
      decodeMx 0x00080008000000000000000000000008 = none := by decide

/-! ### Well-formedness: for each check an ill-formed term, which it refuses -/

def illScalar : List Instr :=
  [.cmp 10 1 2 3, .bfx 1 2 32 32, .bfxS 1 2 63 1, .bfi 1 2 1 63, .bcz 14 1 0, .bcz 15 1 0, .bc 15 1 2 0, .loop 0 1 0, .loopi 0 1 0,
   .loopr 0 1 0, .ld 1 2 0 7, .st 1 2 0 1, .ldHandle 1 2 3 0 7, .stHandle 1 2 3 0 3, .spl 1 4 6, .spl 1 7 0, .sps 1 6 4, .sps 1 5 0,
   .twait 0, .tsig 0, .fence 6, .xfence 6 3, .xfence 0 4, .csrr 1 5, .csrw 0x10 1, .csrw 0x40 1, .ldAq 1 2 0 7 0 0 false 0,
   .ldAq 1 2 0 6 6 0 false 0, .ldAq 1 2 0 6 0 0 false 1, .stRl 1 2 0 5 0 0 false 0, .stRl 1 2 0 6 7 0 true 0, .stRl 1 2 0 6 0 0 false 2,
   .region 0x1FFFF]
def illPrivate : List Instr :=
  [.mqpush 6 0, .ftw 0 1 0 0, .rcall 1 2 3 0 ⟨0, 1, 9, 0, 0, false⟩, .rcall 1 2 3 0 ⟨0, 0, 0, 1, 5, false⟩, .rcall 1 2 3 0 ⟨0, 1, 0, 0, 0, false⟩,
   .rcall 1 2 3 0 ⟨0, 0, 0, 1, 0, false⟩, .rcall 1 2 3 0 ⟨0, 0, 0, 1, 1, true⟩, .rcallAe 1 2 3 0 ⟨0, 60, 5, 0, 0, false⟩,
   .rcallAe 1 2 3 0 ⟨0, 0, 0, 61, 4, false⟩, .qld 0 1 2 3 0, .gld 6 1 2 4 0, .gld 0 1 2 5 0, .gst 7 1 2 4 0, .gst 0 1 2 3 0,
   .amoAdd false 1 3 2 3 0, .amoAdd true 1 0 2 3 0, .amoMin false 1 3 2 3 0, .amoMax true 1 0 2 3 0, .amoAnd false 1 2 2 3 0,
   .amoOr false 1 2 2 3 0, .amoXor false 1 2 2 3 0, .amoSwap false 1 3 2 3 0, .amoCas false 1 0 2 3 0, .xlt 0 1 2 3 0, .xltw 0 1 2 3 0,
   .nred 1 1 2 3 0, .nadd 2 1 2 3 0, .namoAdd 3 1 2 3 0, .namoMax 3 1 2 3 0, .namoSwap 3 1 2 3 0, .namoCas 0 1 2 3 0, .namoCas 3 1 2 4 0,
   .tld 1 2 3 0 0 ⟨0, 0, 0, false, 0, 0⟩, .tld 1 2 4 14 0 ⟨0, 0, 0, false, 0, 0⟩, .tld 1 2 4 0 0 ⟨0, 0, 0, false, 5, 0⟩,
   .tldt 1 2 4 15 0 ⟨0, 0, 0, false, 1, 0⟩, .tldt 1 2 4 15 0 ⟨0, 0, 0, false, 0, 1⟩, .tst 1 2 5 0 0 0 0 0 0, .tst 1 2 4 0 0 0 0 6 0,
   .tst 1 2 4 15 0 0 0 0 1, .xltx 0 1 2 3 0, .freq 1 2 0 0, .old 1 2 7, .ost 1 2 3, .oamoAdd 3 1 2, .oamoMax 3 1 2, .oamoSwap 3 1 2,
   .oamoCas 0 1 3, .oreply 5 1, .oreply 4 61]
def illVector : List Instr :=
  [.vadd 1 2 3 3 0, .vsub 1 2 3 4 0, .vmul 1 2 3 11 0, .vfma 1 2 3 12 0, .vfms 1 2 3 14 0, .vmin 1 2 3 13 0, .vmax 1 2 3 3 0, .vand 1 2 3 0 0,
   .vor 1 2 3 15 0, .vxor 1 2 3 2 0, .vshl 1 2 3 1 0, .vshr 1 2 3 11 0, .vsha 1 2 3 0 0, .vabs 1 2 6 0, .vneg 1 2 15 0, .vwadd 2 1 3 0 0,
   .vwmul 3 1 2 1 0, .vwfma 2 1 3 3 0, .vnrw 1 2 1 0 0, .vnrw 1 3 0 1 0, .vcvt 1 2 0 3 0, .vcvt 1 2 5 7 0, .vqnt 1 2 0 0 0, .vqnt 1 4 0 3 0,
   .vdqt 2 1 0 0, .vcmp 0 1 2 3 11 0, .vsel 1 2 3 13 0, .pstage 1 2 0 5 0, .vperm 1 2 3 3 0, .vbcast 1 2 14 0, .vextr 1 2 3 13 0,
   .vins 1 2 3 15 0, .vslide 1 2 3 13 0, .vzip 1 2 3 0 0, .vuzp 2 1 0 0, .vrsum 1 2 1 0, .vrmax 1 2 3 0, .vrmin 1 2 15 0, .vscan 1 2 7 0,
   .vsegr 1 2 3 2 0, .vsort 1 2 0 0, .vsortDesc 2 1 0 0, .vsort 2 4 5 0, .vuniq 1 2 6 0, .vhash 1 0 0, .vdrop 1 2 3 5 0, .vld 1 2 false 1 0 0,
   .vld 1 2 true 1 14 0, .vst 1 2 false 3 0 0, .vlds 1 2 3 11 0, .vsts 1 2 3 15 0, .vgth 1 2 3 5 0, .vsct 1 2 3 4 0, .accrd 1 2 0,
   .accwr 63 2 0, .vdefer 1 63 0 0 0, .vdefer 0 1 0 1 0, .vdrain 2 1 0 0, .vdrain 4 1 7 0, .extendedVectorForm ⟨0, 0, 0, 0, 0⟩ ⟨0, 0, 0, 0, false⟩,
   .extendedVectorForm ⟨0, 0, 0, 0, 0⟩ ⟨1, 0, 5, 0, false⟩, .extendedVectorForm ⟨0, 0, 0, 9, 0⟩ ⟨1, 0, 1, 0, false⟩,
   .extendedVectorForm ⟨0, 0, 0, 0, 0⟩ ⟨1, 0, 0, 1, false⟩, .extendedVectorForm ⟨0, 0, 0, 7, 0⟩ ⟨8, 0, 0, 0, true⟩,
   .extendedVectorForm ⟨0, 0, 0, 0, 0⟩ ⟨24, 1, 0, 0, false⟩]
theorem test_illFormed_scalar : ∀ i ∈ illScalar, i.wf = false := by decide
theorem test_illFormed_private : ∀ i ∈ illPrivate, i.wf = false := by decide
theorem test_illFormed_vector : ∀ i ∈ illVector, i.wf = false := by decide
/-- At the edge of a check: what is still well formed. -/
theorem test_wellFormed_edges :
    ∀ i ∈ ([.cmp 9 1 2 3, .bfx 1 2 63 0, .bfx 1 2 0 63, .bcz 15 0 0, .loop 0 1 1, .ld 1 2 0 6, .spl 1 4 4, .xfence 5 3, .csrr 1 0x4F, .csrw 0x21 1,
      .region 0xFFFF, .mqpush 60 0, .rcall 1 2 3 0 ⟨0, 56, 8, 60, 4, false⟩, .qld 6 1 2 3 0, .gld 5 1 2 62 0, .amoSwap false 1 2 2 3 0,
      .tld 1 2 62 15 0 ⟨511, 511, 15, true, 0, 0⟩, .vwadd 62 1 3 1 0, .vdrain 60 1 9 0, .vdefer 3 60 0 0 0, .oreply 4 60] : List Instr),
      i.wf = true := by decide

/-! ### Single steps: expected values from the rules' tables and worked examples -/

/-- R100: the sum wraps, with a source that is also the destination; a write to g0 is dropped. -/
theorem test_add : gOf (exec (.add 3 3 3) (on .ce { g := [(3, 0x8000000000000001)] })) 3 = 2 ∧
    gOf (exec (.add 0 3 3) (on .ce { g := [(3, 1)] })) 0 = 0 := by decide
theorem test_mulHigh :
    let s := on .ae { g := [(1, 0xFFFFFFFFFFFFFFFF), (2, 2)] }
    gOf (exec (.mulh 3 1 2) s) 3 = 0xFFFFFFFFFFFFFFFF ∧ gOf (exec (.mulhu 3 1 2) s) 3 = 1 := by decide
/-- R101. -/
theorem test_division :
    let s := on .ve { g := [(1, 0x8000000000000000), (2, 0xFFFFFFFFFFFFFFFF), (4, 7)] }
    gOf (exec (.div 3 1 2) s) 3 = 0x8000000000000000 ∧ gOf (exec (.rem 3 1 2) s) 3 = 0 ∧
      gOf (exec (.div 3 1 0) s) 3 = 0xFFFFFFFFFFFFFFFF ∧ gOf (exec (.remu 3 1 0) s) 3 = 0x8000000000000000 ∧
      gOf (exec (.rem 3 1 4) s) 3 = 0xFFFFFFFFFFFFFFFF := by decide
theorem test_shift : gOf (exec (.sha 3 1 2) (on .xe { g := [(1, 0x8000000000000000), (2, 127)] })) 3 = 0xFFFFFFFFFFFFFFFF ∧
    gOf (exec (.shl 3 2 2) (on .xe { g := [(2, 64)] })) 3 = 64 := by decide
/-- R106: the constant that `LUI` and `ORI` build. -/
theorem test_constant : gOf (exec (.lui 5 0x3B2A1) (on .ce {})) 5 = 0x76542000 ∧
    gOf (exec (.ori 5 5 0x1210) (on .ce { g := [(5, 0x76542000)] })) 5 = 0x76543210 := by decide
theorem test_bitFields : gOf (exec (.bfxS 3 1 60 3) (on .ce { g := [(1, 0x8FFFFFFFFFFFFFFF)] })) 3 = 0xFFFFFFFFFFFFFFF8 ∧
    gOf (exec (.bfi 3 1 4 3) (on .ce { g := [(1, 0xA5), (3, 0xFFF)] })) 3 = 0xF5F := by decide
/-- R110: the call at 0x7FF0 sets its link before the fetch at its target, beyond the memory, traps. -/
theorem test_farCall :
    let s := on .ve { pc := 0x7FF0 }
    gOf (exec (.call 62 8) s) 62 = 0x7FF4 ∧ pcOf (exec (.call 62 8) s) = 0x8010 ∧
      nextIs (step (on .ve { pc := 0x8010 })) (fun t => (t.bank 0).ve.trappc = 0x8010 ∧ (t.bank 0).ve.trapcode = 2) = true := by decide
/-- R113: the last word of the body of a loop with two iterations left, then with one. -/
theorem test_loopEnd :
    let s (n : Nat) := on .ce { pc := 0x14, order := [0], lc := [(0, { count := BitVec.ofNat 32 n, ls := 0xC, le := 0x14, active := true })] }
    pcOf (exec .nop (s 2)) = 0xC ∧ pcOf (exec .nop (s 1)) = 0x18 := by decide
/-- R42's worked example: a load past scratch, and the last 8 bytes of it. -/
theorem test_scratchRange :
    let s (a : Word) := on .ce { pc := 0x140, g := [(4, a), (5, 9)] }
    nextIs (exec (.ld 5 4 4 6) (s 0x1FFFFC)) (fun t => (t.bank 0).ce.trappc = 0x140 ∧ (t.bank 0).ce.trapcode = 5 ∧
        tget 0 (t.bank 0).ce.traprec 0 = 0x140 ∧ tget 0 (t.bank 0).ce.traprec 1 = 0x200000 ∧ (t.bank 0).ce.rg 5 = 9) = true ∧
      gOf (exec (.ld 5 4 4 6) (s 0x1FFFF4)) 5 = 0 := by decide
/-- R119: a load of a word extends its sign, an unsigned one does not. -/
theorem test_loadExtends :
    let s := poke (on .ce { g := [(4, 0x1000)] }) (windowBase 0 + 0x1004) [0xFD, 0xFF, 0xFF, 0xFF]
    gOf (exec (.ld 12 4 4 4) s) 12 = 0xFFFFFFFFFFFFFFFD ∧ gOf (exec (.ld 12 4 4 5) s) 12 = 0xFFFFFFFD := by decide
/-- R123: a step register neither wraps nor becomes NOW, and NOW stays NOW. -/
theorem test_kaddi :
    let k (v : W32) (imm : BitVec 13) := match exec (.kaddi 2 1 imm) (on .ae { k := [(1, v)] }) with
      | .next t => t.me.rk 2
      | _ => 0
    k 0xFFFFFFFD 5 = 0xFFFFFFFE ∧ k 3 0x1FFB = 0 ∧ k 0xFFFFFFFF 0x1FFF = 0xFFFFFFFF := by decide
/-- R125: a full line holds the signal back. -/
theorem test_tokens :
    nextIs (exec (.tsig 1) (on .ce { pc := 8 } { lines := [(1, 16)] })) (fun t => t.me.pc = 8 ∧ (t.bank 0).line .ce .ae = 16) = true ∧
      nextIs (exec (.twait 2) (on .ae { pc := 8 } { lines := [(1, 16), (9, 1)] })) (fun t => t.me.pc = 12 ∧ (t.bank 0).line .ce .ae = 16 ∧ (t.bank 0).line .ve .ae = 0) = true := by decide

end Sys2Proof.Tests
end

namespace Sys2Proof.Machine

/-! ## Memory stays canonical through every step (O7)

Four functions give a state another memory: `State.publish` enters the bytes of the writes that every observer sees, and
`State.clearCore`, `State.moduleClear` and `State.losePower` take bytes away; every other store is a write in the buffer.
`Laws/Memory.lean` shows that each of these leaves the canonical form.  What follows carries this through the machine's
functions: a `_mem` lemma for a function that leaves memory as it is, a `_wf` lemma for one that reaches a place that writes
it.  Both kinds are tagged `simp`, so that a function's lemma needs no more than its case split and those of its callees. -/

/-- The state that an effect leaves. -/
def End.state : End → State
  | .done s | .issued s | .goto s _ | .wait s _ | .trapped s => s
/-- The state that an effect of a matrix command leaves. -/
def MeEnd.state : MeEnd → State
  | .done s | .wait s | .fault s _ _ _ => s
/-- The state in which a prepared turn goes on. -/
def Prep.state : Prep → State
  | .exec _ s | .other s => s

@[simp] theorem End.state_done (s) : (End.done s).state = s := rfl
@[simp] theorem End.state_issued (s) : (End.issued s).state = s := rfl
@[simp] theorem End.state_goto (s target) : (End.goto s target).state = s := rfl
@[simp] theorem End.state_wait (s stuck) : (End.wait s stuck).state = s := rfl
@[simp] theorem End.state_trapped (s) : (End.trapped s).state = s := rfl
@[simp] theorem MeEnd.state_done (s) : (MeEnd.done s).state = s := rfl
@[simp] theorem MeEnd.state_wait (s) : (MeEnd.wait s).state = s := rfl
@[simp] theorem MeEnd.state_fault (s code addr progress) : (MeEnd.fault s code addr progress).state = s := rfl
@[simp] theorem Prep.state_exec (i s) : (Prep.exec i s).state = s := rfl
@[simp] theorem Prep.state_other (s) : (Prep.other s).state = s := rfl

@[simp] theorem State.mem_ite (c : Prop) [Decidable c] (s t : State) :
    (if c then s else t).mem = if c then s.mem else t.mem := apply_ite State.mem c s t
@[simp] theorem Memory.wf_ite (c : Prop) [Decidable c] (m n : Memory) :
    Memory.wf (if c then m else n) = if c then m.wf else n.wf := apply_ite Memory.wf c m n
@[simp] theorem End.state_ite (c : Prop) [Decidable c] (e f : End) :
    (if c then e else f).state = if c then e.state else f.state := apply_ite End.state c e f

/-- A vector plan leaves memory canonical, under whatever options it runs. -/
def VPlan.Keeps (p : VPlan) : Prop := ∀ o s, s.mem.wf = true → (p.run o s).state.mem.wf = true

namespace State

@[simp] theorem mem_foldl {α} (l : List α) (s : State) (f : State → α → State) (hf : ∀ t x, (f t x).mem = t.mem) :
    (l.foldl f s).mem = s.mem := by
  induction l generalizing s with
  | nil => rfl
  | cons x l ih => rw [List.foldl_cons, ih, hf]

@[simp] theorem wf_foldl {α} (l : List α) (s : State) (f : State → α → State)
    (hf : ∀ t x, t.mem.wf = true → (f t x).mem.wf = true) (hs : s.mem.wf = true) : (l.foldl f s).mem.wf = true := by
  induction l generalizing s with
  | nil => exact hs
  | cons x l ih => exact ih _ (hf _ _ hs)

/-- `publish_wf`, for `simp`. -/
@[simp] theorem publish_mem_wf {s : State} (hs : s.mem.wf = true) : s.publish.mem.wf = true := publish_wf hs

/-! ### Functions that leave memory as it is -/

section
variable (s : State)

/-! #### Machine/Access -/

@[simp] theorem modCore_mem (n f) : (s.modCore n f).mem = s.mem := by simp [modCore]
@[simp] theorem modBank_mem (n f) : (s.modBank n f).mem = s.mem := by simp [modBank]
@[simp] theorem modCtx_mem (n f) : (s.modCtx n f).mem = s.mem := by simp [modCtx]
@[simp] theorem modStrm_mem (a f) : (s.modStrm a f).mem = s.mem := by simp [modStrm]
@[simp] theorem modMe_mem (f) : (s.modMe f).mem = s.mem := by simp [modMe]
@[simp] theorem setG_mem (r v) : (s.setG r v).mem = s.mem := by simp [setG]
@[simp] theorem setK_mem (r v) : (s.setK r v).mem = s.mem := by simp [setK]
@[simp] theorem setP_mem (r v) : (s.setP r v).mem = s.mem := by simp [setP]
@[simp] theorem modCurBank_mem (f) : (s.modCurBank f).mem = s.mem := by simp [modCurBank]
@[simp] theorem fresh_mem : s.fresh.2.mem = s.mem := by simp [fresh]
@[simp] theorem toPeer_mem (peer o) : (s.toPeer peer o).mem = s.mem := by simp [toPeer]
@[simp] theorem takeFabricTime_mem : s.takeFabricTime.mem = s.mem := by simp [takeFabricTime]

/-! #### Machine/Order -/

@[simp] theorem ask_mem (rs) : (s.ask rs).mem = s.mem := by simp [ask]

@[simp] theorem appendWrite_no_mem (p q cs v k hs no) : (s.appendWrite p q cs v k hs no).mem = s.mem := by
  simp [appendWrite]

@[simp] theorem stepOver_mem (p q no rs) : (s.stepOver p q no rs).mem = s.mem := by simp [stepOver]
@[simp] theorem storeBytes_mem (p q a bs via) : (s.storeBytes p q a bs via).mem = s.mem := (rfl)

@[simp] theorem storeUnits_mem (p q unit a bs kept) : (s.storeUnits p q unit a bs kept).mem = s.mem := by
  refine mem_foldl _ _ _ fun t cs => ?_
  split <;> simp

@[simp] theorem performUnits_mem (p q a bs work no) : (s.performUnits p q a bs work no).mem = s.mem := by
  simp [performUnits]

@[simp] theorem performPieces_mem (p q xs work) : (s.performPieces p q xs work).mem = s.mem := by simp [performPieces]
@[simp] theorem storeFor_mem (p a bs) : (s.storeFor p a bs).mem = s.mem := by simp [storeFor]
@[simp] theorem devStore_mem (a bs) : (s.devStore a bs).mem = s.mem := by simp [devStore]
@[simp] theorem learnTpb_mem (a) : (s.learnTpb a).mem = s.mem := by simp [learnTpb]
@[simp] theorem nameTpb_mem (ph) : (s.nameTpb ph).mem = s.mem := by simp [nameTpb]
@[simp] theorem rmw_mem (p q a n f work no) : (s.rmw p q a n f work no).2.mem = s.mem := by simp [rmw]
@[simp] theorem amo_mem (a n f) : (s.amo a n f).2.mem = s.mem := by simp [amo]
@[simp] theorem fencePaths_mem (paths scope) : (s.fencePaths paths scope).mem = s.mem := by simp [fencePaths]
@[simp] theorem releasePaths_mem (paths scope) : (s.releasePaths paths scope).mem = s.mem := by simp [releasePaths]
@[simp] theorem writeStepTurn_mem (n) : (s.writeStepTurn n).mem = s.mem := by fun_cases writeStepTurn s n <;> simp

@[simp] theorem widenTurn_mem (n q scope) : (s.widenTurn n q scope).mem = s.mem := by
  fun_cases widenTurn s n q scope <;> simp

@[simp] theorem badUnit_mem (a) : (s.badUnit a).mem = s.mem := by simp [badUnit]

/-! #### Machine/Walk -/

@[simp] theorem walked_mem (c va) : (s.walked c va).mem = s.mem := by simp [walked]

theorem ctxStore_mem {c p bs t} (ht : s.ctxStore c p bs = some t) : t.mem = s.mem := by
  obtain ⟨a, -, rfl⟩ := Option.map_eq_some_iff.1 ht
  simp

@[simp] theorem deposit_mem (log e) : (s.deposit log e).mem = s.mem := by simp [deposit]

@[simp] theorem depositSev_mem (log kind sev addr) : (s.depositSev log kind sev addr).mem = s.mem := by
  simp [depositSev]

@[simp] theorem depositKind_mem (log kind addr) : (s.depositKind log kind addr).mem = s.mem := by simp [depositKind]

@[simp] theorem ctxNote_mem (c p n) : (s.ctxNote c p n).mem = s.mem := by
  fun_cases ctxNote s c p n <;> simp +zetaDelta

@[simp] theorem raise_mem (c v) : (s.raise c v).mem = s.mem := by simp [raise]
@[simp] theorem dropRecord_mem (c) : (s.dropRecord c).mem = s.mem := by simp [dropRecord]

@[simp] theorem post_mem (c r) : (s.post c r).2.mem = s.mem := by
  unfold post
  dsimp only
  split
  · rfl
  split
  · simp
  split
  · simp
  next ht => simp [ctxStore_mem s ht]

@[simp] theorem postRec_mem (c r) : (s.postRec c r).mem = s.mem := by simp [postRec]

/-! #### Machine/Near -/

@[simp] theorem nredPerform_mem (c p no fmt h base rlen idx dst) :
    (s.nredPerform c p no fmt h base rlen idx dst).mem = s.mem := by
  simp [nredPerform]

/-! #### Machine/Seq -/

theorem seqBody_mem {p no q base x t} (ht : s.seqBody p no q base x = .ok t) : t.mem = s.mem := by
  unfold seqBody at ht
  dsimp only at ht
  split at ht
  · simp at ht
  split at ht
  · simp at ht
  split at ht
  · simp at ht
  · obtain rfl := Except.ok.inj ht
    simp

@[simp] theorem seqRun_mem (p no q base ks x r) : (seqRun p no q base ks x r).1.mem = r.1.mem := by
  induction ks generalizing x r with
  | nil =>
    obtain ⟨s, _ | a⟩ := r
    · rw [seqRun]
      split
      next ht => exact seqBody_mem s ht
      · rfl
    · rfl
  | cons k ks ih =>
    rw [seqRun]
    refine List.foldlRecOn (motive := fun u : State × Option Nat => u.1.mem = r.1.mem) _ _ rfl fun u hu j _ => ?_
    split
    · rw [ih, hu]
    · exact hu

@[simp] theorem addElems_mem (p no int a xs k) : (s.addElems p no int a xs k).1.mem = s.mem := by
  induction xs generalizing s a k with
  | nil => rfl
  | cons x xs ih => rw [addElems]; split <;> simp [ih]

@[simp] theorem performNear_mem (c bankB o) : (s.performNear c bankB o).mem = s.mem := by
  fun_cases performNear s c bankB o <;> simp

/-! #### Machine/Land -/

@[simp] theorem modBar_mem (p c a f work) : (s.modBar p c a f work).mem = s.mem := by simp [modBar]

@[simp] theorem landScratch_mem (p c a bar data work) : (s.landScratch p c a bar data work).mem = s.mem := by
  fun_cases landScratch s p c a bar data work <;> simp +zetaDelta

@[simp] theorem landAt_mem (c bankB x u data) : (s.landAt c bankB x u data).mem = s.mem := by simp [landAt]

@[simp] theorem landRead_mem (c bankB n) : (s.landRead c bankB n).mem = s.mem := by
  simp only [landRead]
  (repeat' split) <;> simp

/-! #### Machine/Jobs -/

@[simp] theorem performNears_mem (c bankB) : (s.performNears c bankB).mem = s.mem :=
  mem_foldl _ _ _ fun _ _ => mem_foldl _ _ _ fun u o => performNear_mem u c bankB o

@[simp] theorem cancelTickets_mem (c bankB) : (s.cancelTickets c bankB).mem = s.mem := by simp [cancelTickets]
@[simp] theorem resumeReady_mem (c) : (s.resumeReady c).mem = s.mem := by simp [resumeReady]
@[simp] theorem flushBank_mem (c bankB) : (s.flushBank c bankB).mem = s.mem := by simp [flushBank]
@[simp] theorem emptyBank_mem (c bankB) : (s.emptyBank c bankB).mem = s.mem := by simp [emptyBank]
@[simp] theorem afterStop_mem (c) : (s.afterStop c).mem = s.mem := by simp [afterStop]
@[simp] theorem leaveUnits_mem (c bankB) : (s.leaveUnits c bankB).mem = s.mem := by simp [leaveUnits]
@[simp] theorem discardBank_mem (c bankB) : (s.discardBank c bankB).mem = s.mem := by simp [discardBank]
@[simp] theorem modCand_mem (n f) : (s.modCand n f).mem = s.mem := by simp [modCand]
@[simp] theorem modGang_mem (n f) : (s.modGang n f).mem = s.mem := by simp [modGang]
@[simp] theorem modGraph_mem (n f) : (s.modGraph n f).mem = s.mem := by simp [modGraph]
@[simp] theorem numberReady_mem (gid) : (s.numberReady gid).mem = s.mem := by simp [numberReady]
@[simp] theorem discardBanks_mem (g) : (s.discardBanks g).mem = s.mem := by simp [discardBanks]

/-! #### Machine/Kit -/

@[simp] theorem saveRec_mem (c idx e) : (s.saveRec c idx e).mem = s.mem := by
  unfold saveRec
  split
  · rfl
  cases ht : s.ctxStore c _ _ with
  | none => rfl
  | some t => exact ctxStore_mem s ht

@[simp] theorem kitNote_mem (c ptr) : (s.kitNote c ptr).mem = s.mem := by fun_cases kitNote s c ptr <;> simp

/-! #### Machine/Sched -/

@[simp] theorem addCand_mem (c q w place parent node) : (s.addCand c q w place parent node).mem = s.mem := by
  simp [addCand]

@[simp] theorem spill_mem (c q w bytes parent) : (s.spill c q w bytes parent).2.mem = s.mem := by
  unfold spill
  dsimp only
  split
  · simp
  split
  · rfl
  split
  · simp
  next ht => simp [ctxStore_mem s ht]

@[simp] theorem placeLaunch_mem (j w bytes) : (s.placeLaunch j w bytes).2.mem = s.mem := by
  fun_cases placeLaunch s j w bytes <;> simp +zetaDelta

@[simp] theorem requestPreempt_mem (gang) : (s.requestPreempt gang).mem = s.mem := by simp [requestPreempt]

/-! #### Machine/Ops -/

@[simp] theorem sendReply_mem (who st) : (s.sendReply who st).mem = s.mem := by fun_cases sendReply s who st <;> simp
@[simp] theorem endFrame_mem (o f) : (s.endFrame o f).mem = s.mem := by simp [endFrame]

@[simp] theorem frameFault_mem (o f code addr pc word) : (s.frameFault o f code addr pc word).mem = s.mem := by
  unfold frameFault
  (repeat' split) <;> simp

@[simp] theorem owe_mem (c bankB e o) : (s.owe c bankB e o).mem = s.mem := by simp [owe]
@[simp] theorem pause_mem : s.pause.mem = s.mem := by fun_cases pause s <;> simp
@[simp] theorem stall_mem (stuck) : (s.stall stuck).mem = s.mem := by simp [stall]
@[simp] theorem advance_mem (n) : (s.advance n).mem = s.mem := by simp [advance]
@[simp] theorem finish_mem (c bankB e g) : (s.finish c bankB e g).mem = s.mem := by simp [finish]
@[simp] theorem workDone_mem (c bankB e) : (s.workDone c bankB e).mem = s.mem := by simp [workDone]
@[simp] theorem finishMe_mem (g) : (s.finishMe g).mem = s.mem := by fun_cases finishMe s g <;> simp
@[simp] theorem signalTurn_mem (c e) : (s.signalTurn c e).mem = s.mem := by fun_cases signalTurn s c e <;> simp
@[simp] theorem noteIssue_mem : s.noteIssue.mem = s.mem := by fun_cases noteIssue s <;> simp
@[simp] theorem noteWait_mem (lines sem i k) : (s.noteWait lines sem i k).mem = s.mem := by simp [noteWait]
@[simp] theorem postPf_mem (c bankB p) : (s.postPf c bankB p).mem = s.mem := by simp [postPf]
@[simp] theorem drainTurn_mem (c p) : (s.drainTurn c p).mem = s.mem := by simp [drainTurn]
@[simp] theorem pageFault_mem (r) : (s.pageFault r).mem = s.mem := by fun_cases pageFault s r <;> simp
@[simp] theorem clearH_mem : s.clearH.mem = s.mem := by simp [clearH]

/-! #### Machine/Operands -/

@[simp] theorem forget_mem (a n) : (s.forget a n).mem = s.mem := by simp [forget]
@[simp] theorem deferLoad_mem (l) : (s.deferLoad l).mem = s.mem := by simp [deferLoad]
@[simp] theorem storePhys_mem (d sz a via) : (s.storePhys d sz a via).state.mem = s.mem := by simp [storePhys]
@[simp] theorem setFrameData_mem (m) : (s.setFrameData m).mem = s.mem := by fun_cases setFrameData s m <;> simp
@[simp] theorem send_mem (c bankB e r) : (s.send c bankB e r).mem = s.mem := by simp [send]

theorem remoteSend_mem {c bankB e pc words path addr op dest grp via sig t}
    (ht : s.remoteSend c bankB e pc words path addr op dest grp via sig = some t) : t.mem = s.mem := by
  unfold remoteSend at ht
  dsimp only at ht
  split at ht
  · simp at ht
  · obtain rfl := Option.some.inj ht
    simp [fresh]

/-! #### Machine/Tile -/

@[simp] theorem issueReq_mem (kind sig q) : (s.issueReq kind sig q).state.mem = s.mem := by simp [issueReq]
@[simp] theorem tileStore_mem (c p t out) : (s.tileStore c p t out).mem = s.mem := by simp [tileStore]
@[simp] theorem tilePut_mem (p t codes scales) : (s.tilePut p t codes scales).mem = s.mem := by simp [tilePut]

/-! #### Machine/Hall -/

@[simp] theorem temperGrans_mem (p no t skip grad step gs k) :
    (s.temperGrans p no t skip grad step gs k).1.mem = s.mem := by
  fun_induction temperGrans s p no t skip grad step gs k <;> simp [*]

/-! #### Machine/Matrix -/

@[simp] theorem meFault_mem (c m code addr progress) : (s.meFault c m code addr progress).mem = s.mem := by
  simp [meFault]

@[simp] theorem meDone_mem (c m) : (s.meDone c m).mem = s.mem := by simp [meDone]
@[simp] theorem accPut_mem (c row col v) : (s.accPut c row col v).mem = s.mem := by simp [accPut]

@[simp] theorem accPutRow_mem (c row col vs) : (s.accPutRow c row col vs).mem = s.mem := by
  induction vs generalizing s col with
  | nil => rfl
  | cons v vs ih => simp [accPutRow, ih]

@[simp] theorem mmaRows_mem (c r cols zero row i n) : (s.mmaRows c r cols zero row i n).mem = s.mem := by
  induction n generalizing s i with
  | zero => rfl
  | succ n ih => simp [mmaRows, ih]

@[simp] theorem mmaBody_mem (r zero onlyBank c m) : (mmaBody r zero onlyBank c m s).state.mem = s.mem := by
  fun_cases mmaBody r zero onlyBank c m s <;> simp +zetaDelta

@[simp] theorem bloadBody_mem (r c m) : (bloadBody r c m s).state.mem = s.mem := by
  fun_cases bloadBody r c m s <;> simp +zetaDelta

@[simp] theorem acczRows_mem (c t) : (s.acczRows c t).mem = s.mem := by simp [acczRows]

@[simp] theorem drainStore_mem (c t clr f dst dstr i row kept) :
    (s.drainStore c t clr f dst dstr i row kept).mem = s.mem := by
  simp [drainStore]

@[simp] theorem drainRows_mem (c r m p i n) : (drainRows c r m p i n s).state.mem = s.mem := by
  fun_induction drainRows c r m p i n s <;> simp [*]

@[simp] theorem drainBody_mem (r c m) : (drainBody r c m s).state.mem = s.mem := by
  fun_cases drainBody r c m s <;> simp

/-! #### Machine/System -/

@[simp] theorem csrStore_mem (n v) : (s.csrStore n v).mem = s.mem := by simp [csrStore]
@[simp] theorem modSlot_mem (j e f) : (s.modSlot j e f).mem = s.mem := by simp [modSlot]
@[simp] theorem sealRegion_mem : s.sealRegion.mem = s.mem := by fun_cases sealRegion s <;> simp

@[simp] theorem openRegion_mem (mask) : (s.openRegion mask).state.mem = s.mem := by
  fun_cases openRegion s mask <;> simp +zetaDelta

/-! #### Machine/Xlate -/

@[simp] theorem invalidate_mem (x r) : (s.invalidate x r).2.mem = s.mem := by simp [invalidate]
@[simp] theorem invalOver_mem (id) : (s.invalOver id).mem = s.mem := by simp [invalOver]

theorem startXlate_mem {need h a b id t} (ht : s.startXlate need h a b = some (id, t)) : t.mem = s.mem := by
  unfold startXlate at ht
  dsimp only at ht
  split at ht
  · simp at ht
  · obtain ⟨-, rfl⟩ := Prod.mk.inj (Option.some.inj ht)
    simp [fresh]

@[simp] theorem hinvBody_mem (r) : (s.hinvBody r).state.mem = s.mem := by simp [hinvBody]
@[simp] theorem modBankStrm_mem (c bankB e f) : (s.modBankStrm c bankB e f).mem = s.mem := by simp [modBankStrm]
@[simp] theorem endXlate_mem (c bankB e x off) : (s.endXlate c bankB e x off).mem = s.mem := by simp [endXlate]
@[simp] theorem putXlate_mem (c bankB e x h) : (s.putXlate c bankB e x h).mem = s.mem := by simp [putXlate]

@[simp] theorem failXlate_mem (c bankB e x reason) : (s.failXlate c bankB e x reason).mem = s.mem := by
  fun_cases failXlate s c bankB e x reason <;> simp +zetaDelta

@[simp] theorem leafXlate_mem (c bankB e x pgsz perm rem addr) :
    (s.leafXlate c bankB e x pgsz perm rem addr).mem = s.mem := by
  simp [leafXlate]

@[simp] theorem lookupXlate_mem (c e bankB x) : (s.lookupXlate c e bankB x).mem = s.mem := by
  fun_cases lookupXlate s c e bankB x <;> simp

@[simp] theorem walkXlate_mem (c e bankB x) : (s.walkXlate c e bankB x).mem = s.mem := by
  fun_cases walkXlate s c e bankB x <;> simp +zetaDelta

/-! #### Machine/Ae -/

@[simp] theorem postNear_mem (kind) : (s.postNear kind).state.mem = s.mem := by simp [postNear]

theorem sendParts_mem {c e via int base grp parts t} (ht : s.sendParts c e via int base grp parts = some t) :
    t.mem = s.mem := by
  induction parts generalizing s with
  | nil => obtain rfl := Option.some.inj ht; rfl
  | cons x parts ih =>
    rw [sendParts] at ht
    split at ht
    · simp at ht
    next hu => rw [ih _ ht, remoteSend_mem s hu]

/-! #### Machine/AeEvents -/

@[simp] theorem leaveTemper_mem (id) : (s.leaveTemper id).mem = s.mem := by simp [leaveTemper]
@[simp] theorem dropReq_mem (c bankB id) : (s.dropReq c bankB id).mem = s.mem := by simp [dropReq]
@[simp] theorem putReq_mem (c bankB r) : (s.putReq c bankB r).mem = s.mem := by simp [putReq]
@[simp] theorem finishReq_mem (c bankB r) : (s.finishReq c bankB r).mem = s.mem := by simp [finishReq]

@[simp] theorem faultReq_mem (c bankB r e progress step) : (s.faultReq c bankB r e progress step).mem = s.mem := by
  simp [faultReq]

@[simp] theorem appendTile_mem (c bankB r o) : (s.appendTile c bankB r o).mem = s.mem := by simp [appendTile]
@[simp] theorem putStat_mem (c bankB r stat) : (s.putStat c bankB r stat).mem = s.mem := by simp [putStat]

@[simp] theorem deliverTile_mem (c bankB r t hall) : (s.deliverTile c bankB r t hall).mem = s.mem := by
  simp only [deliverTile]
  (repeat' split) <;> simp

@[simp] theorem resolveTile_mem (c bankB r t tpb step waited) :
    (s.resolveTile c bankB r t tpb step waited).mem = s.mem := by
  fun_cases resolveTile s c bankB r t tpb step waited <;> simp

@[simp] theorem arriveTile_mem (c bankB r t) : (s.arriveTile c bankB r t).mem = s.mem := by
  fun_cases arriveTile s c bankB r t <;> simp +zetaDelta

@[simp] theorem serveStore_mem (c bankB r t) : (s.serveStore c bankB r t).mem = s.mem := by
  fun_cases serveStore s c bankB r t <;> simp

@[simp] theorem serveTile_mem (c bankB r t) : (s.serveTile c bankB r t).mem = s.mem := by
  fun_cases serveTile s c bankB r t <;> simp

@[simp] theorem resumeTile_mem (c bankB r) : (s.resumeTile c bankB r).mem = s.mem := by
  fun_cases resumeTile s c bankB r <;> simp

@[simp] theorem expireTile_mem (c bankB r) : (s.expireTile c bankB r).mem = s.mem := by
  fun_cases expireTile s c bankB r <;> simp

@[simp] theorem serveQld_mem (c bankB r) : (s.serveQld c bankB r).mem = s.mem := by
  fun_cases serveQld s c bankB r <;> simp

@[simp] theorem serveGather_mem (c bankB r) : (s.serveGather c bankB r).mem = s.mem := by
  fun_cases serveGather s c bankB r <;> simp

@[simp] theorem faultCmd_mem (c bankB r e progress step) : (s.faultCmd c bankB r e progress step).mem = s.mem := by
  simp [faultCmd]

@[simp] theorem leaveNear_mem (id) : (s.leaveNear id).mem = s.mem := by simp [leaveNear]
@[simp] theorem dropNear_mem (c bankB id) : (s.dropNear c bankB id).mem = s.mem := by simp [dropNear]

@[simp] theorem faultNear_mem (c bankB o a progress) : (s.faultNear c bankB o a progress).mem = s.mem := by
  simp [faultNear]

@[simp] theorem putRel_mem (t step) : (s.putRel t step).mem = s.mem := by simp [putRel]

@[simp] theorem serveRelease_mem (c bankB r) : (s.serveRelease c bankB r).mem = s.mem := by
  fun_cases serveRelease s c bankB r <;> simp +zetaDelta

@[simp] theorem arriveUpdate_mem (c bankB r) : (s.arriveUpdate c bankB r).mem = s.mem := by
  fun_cases arriveUpdate s c bankB r <;> simp

@[simp] theorem beginUpdate_mem (c bankB r) : (s.beginUpdate c bankB r).mem = s.mem := by
  fun_cases beginUpdate s c bankB r <;> simp +zetaDelta

@[simp] theorem serveUpdate_mem (c bankB r) : (s.serveUpdate c bankB r).mem = s.mem := by simp [serveUpdate]

@[simp] theorem runNred_mem (c bankB o) : (s.runNred c bankB o).mem = s.mem := by
  fun_cases runNred s c bankB o <;> simp

@[simp] theorem runNadd_mem (c bankB o) : (s.runNadd c bankB o).mem = s.mem := by
  fun_cases runNadd s c bankB o <;> simp +zetaDelta

@[simp] theorem runNamo_mem (c bankB o) : (s.runNamo c bankB o).mem = s.mem := by
  fun_cases runNamo s c bankB o <;> simp +zetaDelta

@[simp] theorem replyNamo_mem (c bankB o) : (s.replyNamo c bankB o).mem = s.mem := by
  fun_cases replyNamo s c bankB o <;> simp

@[simp] theorem runSeq_mem (c bankB o) : (s.runSeq c bankB o).mem = s.mem := by
  fun_cases runSeq s c bankB o <;> simp +zetaDelta

/-! #### Machine/Interlock -/

@[simp] theorem keepAhead_mem (i) : (s.keepAhead i).mem = s.mem := by simp [keepAhead]

/-! #### Machine/Calls -/

@[simp] theorem queueCall_mem (o x) : (s.queueCall o x).mem = s.mem := by simp [queueCall]

@[simp] theorem callLocal_mem (h off entry ws who) : (s.callLocal h off entry ws who).mem = s.mem := by
  simp [callLocal]

@[simp] theorem freeCall_mem (n) : (s.freeCall n).mem = s.mem := by simp [freeCall]
@[simp] theorem joinCall_mem : s.joinCall.mem = s.mem := by fun_cases joinCall s <;> simp +zetaDelta
@[simp] theorem writeReturn_mem (x regs) : (s.writeReturn x regs).mem = s.mem := by simp [writeReturn]

/-! #### Machine/Ce -/

@[simp] theorem modJob_mem (f) : (s.modJob f).mem = s.mem := by simp [modJob]
@[simp] theorem setGsf_mem (d v) : (s.setGsf d v).state.mem = s.mem := by simp [setGsf]

/-! #### Machine/Control -/

@[simp] theorem branchIf_mem (c off) : (s.branchIf c off).state.mem = s.mem := by simp [branchIf]

@[simp] theorem loopStart_mem (n count body rot) : (s.loopStart n count body rot).state.mem = s.mem := by
  simp [loopStart]

/-! #### Machine/Turns -/

@[simp] theorem meTurn_mem (c) : (s.meTurn c).state.mem = s.mem := by fun_cases meTurn s c <;> simp

@[simp] theorem hostStore_mem (a bs) : (s.hostStore a bs).mem = s.mem :=
  mem_foldl _ _ _ fun t cs => by simp

@[simp] theorem evictTurn_mem (n) : (s.evictTurn n).mem = s.mem := by simp [evictTurn]
@[simp] theorem energyTurn_mem (n uj) : (s.energyTurn n uj).mem = s.mem := by simp [energyTurn]

/-! #### Machine/Copies -/

@[simp] theorem setBar_mem (a f) : (s.setBar a f).mem = s.mem := by simp [setBar]
@[simp] theorem takeSlot_mem (n x sig) : (s.takeSlot n x sig).mem = s.mem := by simp [takeSlot]
@[simp] theorem promise_mem : s.promise.2.mem = s.mem := by simp [promise]
@[simp] theorem endCopy_mem (c bankB n) : (s.endCopy c bankB n).mem = s.mem := by simp [endCopy]

@[simp] theorem faultCopy_mem (c bankB n code addr) : (s.faultCopy c bankB n code addr).mem = s.mem := by
  simp [faultCopy]

@[simp] theorem endRots_mem (c bankB k code) : (s.endRots c bankB k code).mem = s.mem := by
  unfold endRots
  split
  · rfl
  · refine mem_foldl _ _ _ fun t y => ?_
    split <;> simp

@[simp] theorem modCopy_mem (c bankB n f) : (s.modCopy c bankB n f).mem = s.mem := by simp [modCopy]
@[simp] theorem doneUnit_mem (c bankB n) : (s.doneUnit c bankB n).mem = s.mem := by simp [doneUnit]
@[simp] theorem landedUnit_mem (c bankB n) : (s.landedUnit c bankB n).mem = s.mem := by simp [landedUnit]

@[simp] theorem landUnit_mem (c bankB n x data) : (s.landUnit c bankB n x data).mem = s.mem := by
  unfold landUnit
  dsimp only
  split
  · split
    · simp
    next ht =>
      split at ht
      · simp at ht
      · simp [remoteSend_mem s ht]
  · repeat' split
    all_goals simp

@[simp] theorem nextUnit_mem (c bankB n x) : (s.nextUnit c bankB n x).mem = s.mem := by
  unfold nextUnit
  dsimp only
  split
  · simp
  split
  · simp
  split
  · simp
  split
  · split
    · simp
    next ht =>
      split at ht
      · simp at ht
      · simp [remoteSend_mem s ht]
  · repeat' split
    all_goals simp

@[simp] theorem countUnit_mem (c bankB x) : (s.countUnit c bankB x).mem = s.mem := by
  fun_cases countUnit s c bankB x <;> simp

@[simp] theorem copyStep_mem (c bankB n) : (s.copyStep c bankB n).mem = s.mem := by simp [copyStep]

@[simp] theorem unitReply_mem (c bankB n ack data) : (s.unitReply c bankB n ack data).mem = s.mem := by
  simp [unitReply]

@[simp] theorem startRot_mem (bars c bankB n) : (s.startRot bars c bankB n).mem = s.mem := by simp [startRot]
@[simp] theorem rotate_mem (c bankB k) : (s.rotate c bankB k).mem = s.mem := by fun_cases rotate s c bankB k <;> simp
@[simp] theorem waitIssued_mem : s.waitIssued.state.mem = s.mem := by simp [waitIssued]
@[simp] theorem joinUnits_mem : s.joinUnits.mem = s.mem := by simp [joinUnits]
@[simp] theorem barrAll_mem (ms) : (s.barrAll ms).mem = s.mem := by simp [barrAll]
@[simp] theorem dropBarr_mem (c) : (s.dropBarr c).mem = s.mem := by simp [dropBarr]
@[simp] theorem xcancelBody_mem (d b) : (s.xcancelBody d b).state.mem = s.mem := by simp [xcancelBody]

/-! #### Machine/VecCore -/

@[simp] theorem setVreg_mem (n x) : (s.setVreg n x).mem = s.mem := by simp [setVreg]
@[simp] theorem vput_mem (r w xs) : (s.vput r w xs).mem = s.mem := by simp [vput]
@[simp] theorem gput_mem (r g w xs) : (s.gput r g w xs).mem = s.mem := by simp [gput]
@[simp] theorem amaxOver_mem (xs) : (s.amaxOver xs).mem = s.mem := by simp [amaxOver]

/-! #### Machine/VecMem -/

theorem remoteAll_mem {path via sig dest base grp ops t} (ht : s.remoteAll path via sig dest base grp ops = some t) :
    t.mem = s.mem := by
  induction ops generalizing s with
  | nil => obtain rfl := Option.some.inj ht; rfl
  | cons x ops ih =>
    rw [remoteAll] at ht
    split at ht
    · split at ht
      next hu => rw [ih _ ht, remoteSend_mem s hu]
      · simp at ht
    · simp at ht

@[simp] theorem vStore_mem (pa masks data via) : (s.vStore pa masks data via).mem = s.mem := by
  unfold vStore
  refine (mem_foldl _ _ _ fun t u => ?_).trans (forget_mem s pa 512)
  dsimp only
  split <;> rfl

/-! #### Machine/Loads -/

@[simp] theorem putDest_mem (c bankB e d data) : (s.putDest c bankB e d data).mem = s.mem := by
  fun_cases putDest s c bankB e d data <;> simp

@[simp] theorem deferTurn_mem (c e) : (s.deferTurn c e).mem = s.mem := by simp [deferTurn]
@[simp] theorem readPart_mem (c e l bs) : (s.readPart c e l bs).mem = s.mem := by simp [readPart]

/-! #### Machine/Outposts -/

@[simp] theorem callStore_mem (a bs) : (s.callStore a bs).mem = s.mem := by simp [callStore]
@[simp] theorem setWreg_mem (r v) : (s.setWreg r v).mem = s.mem := by fun_cases setWreg s r v <;> simp
@[simp] theorem showCall_mem (c) : (s.showCall c).mem = s.mem := by fun_cases showCall s c <;> simp
@[simp] theorem entryBad_mem (c) : (s.entryBad c).mem = s.mem := by fun_cases entryBad s c <;> simp

@[simp] theorem startCall_mem (o f) : (s.startCall o f).mem = s.mem := by
  fun_cases startCall s o f <;> simp +zetaDelta

@[simp] theorem takeReply_mem (r) : (s.takeReply r).mem = s.mem := by simp [takeReply]

/-! #### Machine/Slots -/

@[simp] theorem landResult_mem (p work r) : (s.landResult p work r).1.mem = s.mem := by simp [landResult]

@[simp] theorem hopBlocks_mem (p work n x) : (hopBlocks p work n x).1.mem = x.1.mem := by
  induction n generalizing x with
  | zero => rfl
  | succ n ih => rw [hopBlocks, ih]; simp

@[simp] theorem hop_mem (p work r) : (s.hop p work r).1.mem = s.mem := by fun_cases hop s p work r <;> simp
@[simp] theorem sendUnit_mem (c bankB n) : (s.sendUnit c bankB n).mem = s.mem := by simp [sendUnit]
@[simp] theorem arrive_mem (c bankB r data) : (s.arrive c bankB r data).mem = s.mem := by simp [arrive]

/-! #### Machine/Fabric -/

@[simp] theorem modTicket_mem (c n f) : (s.modTicket c n f).mem = s.mem := by simp [modTicket]
@[simp] theorem modRem_mem (c bankB e id f) : (s.modRem c bankB e id f).mem = s.mem := by simp [modRem]
@[simp] theorem pump_mem (c bankB e n) : (s.pump c bankB e n).mem = s.mem := by fun_cases pump s c bankB e n <;> simp
@[simp] theorem release_mem (c bankB e n) : (s.release c bankB e n).mem = s.mem := by simp [release]
@[simp] theorem leaveEntry_mem (c bankB e n) : (s.leaveEntry c bankB e n).mem = s.mem := by simp [leaveEntry]
@[simp] theorem dropRem_mem (c bankB e r) : (s.dropRem c bankB e r).mem = s.mem := by simp [dropRem]

@[simp] theorem answerTag_mem (c bankB e tag gen st) : (s.answerTag c bankB e tag gen st).mem = s.mem := by
  simp [answerTag]

@[simp] theorem countPart_mem (c bankB e seq n) : (s.countPart c bankB e seq n).mem = s.mem := by simp [countPart]

@[simp] theorem deliver_mem (c bankB e r data) : (s.deliver c bankB e r data).mem = s.mem := by
  fun_cases deliver s c bankB e r data <;> simp

@[simp] theorem oweRem_mem (c bankB e r code cls window last) :
    (s.oweRem c bankB e r code cls window last).mem = s.mem := by
  simp [oweRem]

@[simp] theorem joinPart_mem (c bankB e r data bad) : (s.joinPart c bankB e r data bad).mem = s.mem := by
  simp only [joinPart]
  (repeat' split) <;> simp

@[simp] theorem remFault_mem (c bankB e r code cls window addr pc word) :
    (s.remFault c bankB e r code cls window addr pc word).mem = s.mem := by
  fun_cases remFault s c bankB e r code cls window addr pc word <;> simp +zetaDelta

@[simp] theorem sendFault_mem (c id code addr) : (s.sendFault c id code addr).mem = s.mem := by
  fun_cases sendFault s c id code addr <;> simp +zetaDelta

@[simp] theorem takeTicket_mem (c bankB e r) : (s.takeTicket c bankB e r).mem = s.mem := by simp [takeTicket]
@[simp] theorem takeNotice_mem (c peer page) : (s.takeNotice c peer page).mem = s.mem := by simp [takeNotice]
@[simp] theorem expireTicket_mem (c n) : (s.expireTicket c n).mem = s.mem := by fun_cases expireTicket s c n <;> simp
@[simp] theorem refuse_mem (r code addr) : (s.refuse r code addr).mem = s.mem := by simp [refuse]
@[simp] theorem answerPeer_mem (r data) : (s.answerPeer r data).mem = s.mem := by simp [answerPeer]
@[simp] theorem ackLater_mem (r lo data) : (s.ackLater r lo data).mem = s.mem := by simp [ackLater]

@[simp] theorem performRemote_mem (r ctx pgsz perm page off) :
    (s.performRemote r ctx pgsz perm page off).mem = s.mem := by
  simp only [performRemote]
  (repeat' split) <;> simp

@[simp] theorem ackTurn_mem (n) : (s.ackTurn n).mem = s.mem := by fun_cases ackTurn s n <;> simp

@[simp] theorem arriveRemote_mem (r) : (s.arriveRemote r).mem = s.mem := by
  fun_cases arriveRemote s r <;> simp +zetaDelta

@[simp] theorem cancelOwn_mem (peer strm c page) : (s.cancelOwn peer strm c page).mem = s.mem := by simp [cancelOwn]

@[simp] theorem endExport_mem (ctx page) : (s.endExport ctx page).mem = s.mem := by
  simp only [endExport]
  (repeat' split) <;> simp

/-! #### Machine/Graphs -/

@[simp] theorem postSched_mem (c code q graph node) : (s.postSched c code q graph node).mem = s.mem := by
  simp [postSched]

theorem ctxWrite_mem {c p bs t} (ht : s.ctxWrite c p bs = some t) : t.mem = s.mem := by
  unfold ctxWrite at ht
  dsimp only at ht
  split at ht
  · obtain rfl := Option.some.inj ht
    refine mem_foldl _ _ _ fun u x => ?_
    split <;> simp
  · simp at ht

@[simp] theorem modSq_mem (c q f) : (s.modSq c q f).mem = s.mem := by simp [modSq]
@[simp] theorem setSubs_mem (c q es) : (s.setSubs c q es).mem = s.mem := by simp [setSubs]
@[simp] theorem queueBad_mem (c q) : (s.queueBad c q).mem = s.mem := by simp [queueBad]
@[simp] theorem ringDoorbell_mem (c q tail) : (s.ringDoorbell c q tail).mem = s.mem := by simp [ringDoorbell]
@[simp] theorem graphNote_mem (c p) : (s.graphNote c p).mem = s.mem := by fun_cases graphNote s c p <;> simp
@[simp] theorem copyNote_mem (c x) : (s.copyNote c x).mem = s.mem := by simp [copyNote]

theorem copyOne_mem {c x t} (ht : s.copyOne c x = some t) : t.mem = s.mem := by
  unfold copyOne at ht
  dsimp only at ht
  split at ht
  · simp at ht
  · exact ctxWrite_mem s ht

@[simp] theorem dropCopy_mem (gid n) : (s.dropCopy gid n).mem = s.mem := by simp [dropCopy]

/-! #### Machine/Select -/

@[simp] theorem enterPool_mem (c) : (s.enterPool c).mem = s.mem := by fun_cases enterPool s c <;> simp +zetaDelta

@[simp] theorem takeCkSlot_mem (c kit seq rank) : (s.takeCkSlot c kit seq rank).2.mem = s.mem := by
  fun_cases takeCkSlot s c kit seq rank <;> simp

@[simp] theorem updateBudget_mem : s.updateBudget.mem = s.mem := by simp [updateBudget]
@[simp] theorem requestLong_mem : s.requestLong.mem = s.mem := by fun_cases requestLong s <;> simp
@[simp] theorem withdraw_mem (gid) : (s.withdraw gid).mem = s.mem := by fun_cases withdraw s gid <;> simp
@[simp] theorem readyLate_mem (c) : (s.readyLate c).mem = s.mem := by simp [readyLate]
@[simp] theorem reoffer_mem (c bankB) : (s.reoffer c bankB).mem = s.mem := by fun_cases reoffer s c bankB <;> simp

/-! #### Machine/Watch -/

@[simp] theorem abandonBarr_mem (c e) : (s.abandonBarr c e).mem = s.mem := by simp [abandonBarr]

/-! #### Machine/Resets -/

@[simp] theorem requestOp_mem (op) : (s.requestOp op).mem = s.mem := by simp [requestOp]
@[simp] theorem writeOp_mem (op) : (s.writeOp op).mem = s.mem := by simp [writeOp]
@[simp] theorem releaseOp_mem : s.releaseOp.mem = s.mem := by fun_cases releaseOp s <;> simp
@[simp] theorem changeOp_mem : s.changeOp.mem = s.mem := by simp [changeOp]
@[simp] theorem resetFn_mem (c) : (s.resetFn c).mem = s.mem := by simp [resetFn]

@[simp] theorem endFnReset_mem (c) : (s.endFnReset c).mem = s.mem := by
  unfold endFnReset
  dsimp only
  split
  · rw [releaseOp_mem, mem_foldl _ _ _ fun t x => by simp]
  · rfl

@[simp] theorem resetDone_mem : s.resetDone.mem = s.mem := by simp [resetDone]
@[simp] theorem endHold_mem : s.endHold.mem = s.mem := by simp [endHold]
@[simp] theorem loseLink_mem : s.loseLink.mem = s.mem := by simp [loseLink]
@[simp] theorem sensorTurn_mem (n v) : (s.sensorTurn n v).mem = s.mem := by simp [sensorTurn]
@[simp] theorem setTrip_mem (die on) : (s.setTrip die on).mem = s.mem := by simp [setTrip]
@[simp] theorem newHealth_mem (f) : (s.newHealth f).mem = s.mem := by simp [newHealth]
@[simp] theorem setChan_mem (n st) : (s.setChan n st).mem = s.mem := by simp [setChan]
@[simp] theorem enterChan_mem (n st bound) : (s.enterChan n st bound).mem = s.mem := by simp [enterChan]
@[simp] theorem requestTurn_mem (n) : (s.requestTurn n).mem = s.mem := by simp [requestTurn]
@[simp] theorem coreCorrected_mem (a) : (s.coreCorrected a).mem = s.mem := by simp [coreCorrected]

/-! #### Machine/HostRegs -/

@[simp] theorem answer_mem (ws) : (s.answer ws).mem = s.mem := by simp [answer]
@[simp] theorem writeSqctl_mem (c q v) : (s.writeSqctl c q v).mem = s.mem := by simp [writeSqctl]
@[simp] theorem writeFqctl_mem (c v) : (s.writeFqctl c v).mem = s.mem := by simp [writeFqctl]
@[simp] theorem readFqctl_mem (c) : (s.readFqctl c).mem = s.mem := by simp [readFqctl]
@[simp] theorem answerFault_mem (core bankB p) : (s.answerFault core bankB p).mem = s.mem := by simp [answerFault]
@[simp] theorem resumeFault_mem (c v) : (s.resumeFault c v).mem = s.mem := by fun_cases resumeFault s c v <;> simp
@[simp] theorem setKitstat_mem (c v) : (s.setKitstat c v).mem = s.mem := by simp [setKitstat]
@[simp] theorem registerKit_mem (c ptr) : (s.registerKit c ptr).mem = s.mem := by simp [registerKit]

@[simp] theorem endRegister_mem (c) : (s.endRegister c).mem = s.mem := by
  fun_cases endRegister s c <;> simp +zetaDelta

@[simp] theorem unregisterKit_mem (c ptr) : (s.unregisterKit c ptr).mem = s.mem := by simp [unregisterKit]
@[simp] theorem writeInvctl_mem (c v) : (s.writeInvctl c v).mem = s.mem := by simp [writeInvctl]
@[simp] theorem resumeExport_mem (c v) : (s.resumeExport c v).mem = s.mem := by simp [resumeExport]
@[simp] theorem holdClear_mem : s.holdClear.mem = s.mem := by simp [holdClear]
@[simp] theorem writeEbmax_mem (v) : (s.writeEbmax v).mem = s.mem := by simp [writeEbmax]
@[simp] theorem selectLog_mem (v) : (s.selectLog v).mem = s.mem := by simp [selectLog]
@[simp] theorem drainLog_mem (n) : (s.drainLog n).2.mem = s.mem := by fun_cases drainLog s n <;> simp
@[simp] theorem readLogrd_mem : s.readLogrd.mem = s.mem := by simp [readLogrd]
@[simp] theorem writeBound_mem (c i high v) : (s.writeBound c i high v).mem = s.mem := by simp [writeBound]
@[simp] theorem writePage_mem (c off v) : (s.writePage c off v).mem = s.mem := by simp [writePage]
@[simp] theorem putImem_mem (c e a v) : (s.putImem c e a v).mem = s.mem := by simp [putImem]

/-! #### Machine/Lantern -/

@[simp] theorem writeFirmware_mem (image key signature complete) :
    (s.writeFirmware image key signature complete).mem = s.mem := by
  simp [writeFirmware]

@[simp] theorem attest_mem : s.attest.mem = s.mem := by simp [attest]

/-! #### Machine/LoadStore -/

@[simp] theorem dropAhead_mem : s.dropAhead.mem = s.mem := by simp [dropAhead]

/-! #### Machine/Planisher -/

@[simp] theorem prjStore_mem (c t clr f dst dstr kept i n xs) :
    (s.prjStore c t clr f dst dstr kept i n xs).mem = s.mem := by
  induction n generalizing s i xs with
  | zero => rfl
  | succ n ih => simp [prjStore, ih]

@[simp] theorem prjRows_mem (c r m p q j n) : (prjRows c r m p q j n s).state.mem = s.mem := by
  fun_induction prjRows c r m p q j n s with
  | case6 j n s d fmt span len valid recAt rad zs _ _ _ out _ u v _ ih =>
    rw [ih]
    dsimp only [u, v]
    split <;> simp
  | _ => rfl

@[simp] theorem prjBody_mem (r c m) : (prjBody r c m s).state.mem = s.mem := by fun_cases prjBody r c m s <;> simp

@[simp] theorem adjRows_mem (c r m q j n) : (adjRows c r m q j n s).state.mem = s.mem := by
  fun_induction adjRows c r m q j n s <;> simp [*]

@[simp] theorem adjBody_mem (r c m) : (adjBody r c m s).state.mem = s.mem := by fun_cases adjBody r c m s <;> simp
end

/-! ### Functions that may write memory -/

section
variable {s : State} (hs : s.mem.wf = true)
include hs

/-! #### Machine/Jobs -/

@[simp] theorem writeDone_wf (c q sub v) : (s.writeDone c q sub v).mem.wf = true := by
  have hp := publish_wf hs
  unfold writeDone
  dsimp only
  split
  all_goals
    split
    · simp [hp]
    split
    · simp [hp]
    split
    next ht => simp [ctxStore_mem _ ht, hp]
    · simp [hp]

@[simp] theorem graphCheck_wf (gid) : (s.graphCheck gid).mem.wf = true := by fun_cases graphCheck s gid <;> simp [hs]
@[simp] theorem nodeDone_wf (gid n succ) : (s.nodeDone gid n succ).mem.wf = true := by simp [nodeDone, hs]
@[simp] theorem abandonGraph_wf (gid code) : (s.abandonGraph gid code).mem.wf = true := by simp [abandonGraph, hs]

@[simp] theorem walkCheck_wf (cid) : (s.walkCheck cid).mem.wf = true := by
  fun_cases walkCheck s cid <;> simp +zetaDelta [hs]

@[simp] theorem gangOver_wf (g) : (s.gangOver g).mem.wf = true := by simp [gangOver, hs]

@[simp] theorem discardGang_wf (g) : (s.discardGang g).mem.wf = true := by
  fun_cases discardGang s g <;> simp +zetaDelta [hs]

@[simp] theorem jobEnd_wf (c bankB) : (s.jobEnd c bankB).mem.wf = true := by
  fun_cases jobEnd s c bankB <;> simp +zetaDelta [hs]

@[simp] theorem jobFail_wf (c bankB r) : (s.jobFail c bankB r).mem.wf = true := by
  simp only [jobFail]
  (repeat' split) <;> simp [hs]

@[simp] theorem failOver_wf (gid) : (s.failOver gid).mem.wf = true := by fun_cases failOver s gid <;> simp [hs]

/-! #### Machine/Ops -/

@[simp] theorem entered_wf (c e me cls recov r) : (s.entered c e me cls recov r).mem.wf = true := by
  simp [entered, hs]

@[simp] theorem trapAt_wf (pc code addr) : (s.trapAt pc code addr).mem.wf = true := by
  fun_cases trapAt s pc code addr <;> simp [hs]

@[simp] theorem trap_wf (code addr) : (s.trap code addr).mem.wf = true := by simp [trap, hs]
@[simp] theorem illegal_wf : s.illegal.mem.wf = true := by simp [illegal, hs]

@[simp] theorem trapWords_wf (code cls ws me) : (s.trapWords code cls ws me).mem.wf = true := by
  fun_cases trapWords s code cls ws me <;> simp [hs]

@[simp] theorem report_wf (o) : (s.report o).mem.wf = true := by unfold report; split <;> simp [hs]
@[simp] theorem transfer_wf (target) : (s.transfer target).mem.wf = true := by simp [transfer, hs]

omit hs in
@[simp] theorem ends_wf {n e} (he : e.state.mem.wf = true) : (ends n e).mem.wf = true := by
  cases e with
  | goto u target => exact transfer_wf he target
  | _ => simpa [ends] using he

@[simp] theorem withPattern_wf (tk n body) (hb : ∀ g t, t.mem.wf = true → (body g t).state.mem.wf = true) :
    (s.withPattern tk n body).mem.wf = true := by
  unfold withPattern
  split
  · extract_lets p g waits run
    have run_wf : ∀ t, t.mem.wf = true → (run t).mem.wf = true := fun t ht => by
      have hbody := hb g t ht
      dsimp only [run]
      split <;> simp_all
    split
    · split
      · exact report_wf hs _
      · split
        · exact run_wf _ (by simp [hs])
        · simp [hs]
    · exact run_wf s hs
  · exact illegal_wf hs

@[simp] theorem trapReturn_wf : s.trapReturn.mem.wf = true := by simp [trapReturn, hs]

/-! #### Machine/Operands -/

@[simp] theorem afterChk_wf (c k) (hk : ∀ x, (k x).state.mem.wf = true) : (s.afterChk c k).state.mem.wf = true := by
  fun_cases afterChk s c k <;> simp [hs, hk]

@[simp] theorem memUncorr_wf (a) : (s.memUncorr a).mem.wf = true := by simp [memUncorr, hs]
@[simp] theorem loadNow_wf (d sz a) : (s.loadNow d sz a).state.mem.wf = true := by simp [loadNow, hs]

@[simp] theorem loadPhys_wf (d sz a via) : (s.loadPhys d sz a via).state.mem.wf = true := by
  fun_cases loadPhys s d sz a via <;> simp [hs]

@[simp] theorem loadLocal_wf (d sz a acq) : (s.loadLocal d sz a acq).state.mem.wf = true := by simp [loadLocal, hs]
@[simp] theorem storeLocal_wf (d sz a) : (s.storeLocal d sz a).state.mem.wf = true := by simp [storeLocal, hs]

@[simp] theorem remoteIssue_wf (via addr path op dest sig) :
    (s.remoteIssue via addr path op dest sig).state.mem.wf = true := by
  unfold remoteIssue
  split
  · split
    · simp [hs]
    split
    · simp [hs]
    split
    next ht => simp [remoteSend_mem s ht, hs]
    · simp [hs]
  · simp [hs]

@[simp] theorem loadHandle_wf (d r sz off acq) : (s.loadHandle d r sz off acq).state.mem.wf = true := by
  simp [loadHandle, hs]

@[simp] theorem storeHandle_wf (d r sz off) : (s.storeHandle d r sz off).state.mem.wf = true := by
  simp [storeHandle, hs]

@[simp] theorem atPoint_wf (p k) (hk : ∀ x, (k x).state.mem.wf = true) : (s.atPoint p k).state.mem.wf = true := by
  fun_cases atPoint s p k <;> simp [hs, hk]

/-! #### Machine/Tile -/

@[simp] theorem withDesc_wf (q a k) (hk : ∀ x, (k x).state.mem.wf = true) :
    (s.withDesc q a k).state.mem.wf = true := by
  simp only [withDesc]
  (repeat' split) <;> simp [hs, hk]

@[simp] theorem unlocked_wf (rs k) (hk : ∀ x, (k x).state.mem.wf = true) : (s.unlocked rs k).state.mem.wf = true := by
  simp [unlocked, hs, hk]

@[simp] theorem issueTile_wf (d a b fmt w store trans sig) :
    (s.issueTile d a b fmt w store trans sig).state.mem.wf = true := by
  unfold issueTile
  refine withDesc_wf hs _ _ _ fun desc => unlocked_wf hs _ _ fun _ => ?_
  dsimp only
  split
  · simp [hs]
  · split <;> simp [hs]

/-! #### Machine/Matrix -/

@[simp] theorem meRun_wf (body) (hb : ∀ c m, (body c m s).state.mem.wf = true) : (s.meRun body).mem.wf = true := by
  unfold meRun
  split
  next c _ =>
    split
    · exact hs
    next m _ _ =>
      split
      · split <;> next he => simpa [he] using hb c m
      · exact hs
  · exact illegal_wf hs

/-! #### Machine/System -/

@[simp] theorem streamOnly_wf (e) (he : e.state.mem.wf = true) : (s.streamOnly e).state.mem.wf = true := by
  simp [streamOnly, hs, he]

@[simp] theorem stepStatBody_wf (d) : (s.stepStatBody d).state.mem.wf = true := by
  fun_cases stepStatBody s d <;> simp +zetaDelta [hs]

@[simp] theorem sealing_wf (k) (hk : ∀ x, (k x).state.mem.wf = true) : (s.sealing k).state.mem.wf = true := by
  simp [sealing, hs, hk]

@[simp] theorem endStream_wf (c e) : (s.endStream c e).mem.wf = true := by simp [endStream, hs]

/-! #### Machine/Xlate -/

@[simp] theorem xltBody_wf (need h a b) : (s.xltBody need h a b).state.mem.wf = true := by
  fun_cases xltBody s need h a b with
  | case1 => simp [hs]
  | case2 id t ht => simpa [startXlate_mem _ ht] using hs

@[simp] theorem xltwBody_wf (need h a b) : (s.xltwBody need h a b).state.mem.wf = true := by
  fun_cases xltwBody s need h a b with
  | case2 _ id t ht => simpa [startXlate_mem _ ht] using hs
  | _ => simp [hs]

@[simp] theorem xlateStep_wf (c e id f) (hf : ∀ x y, (f x y).mem.wf = true) :
    (s.xlateStep c e id f).mem.wf = true := by
  fun_cases xlateStep s c e id f <;> simp [hs, hf]

/-! #### Machine/Ae -/

@[simp] theorem gatherBody_wf (store sz d h a sig) : (s.gatherBody store sz d h a sig).state.mem.wf = true := by
  refine unlocked_wf hs _ _ fun _ => afterChk_wf hs _ _ fun _ => ?_
  dsimp only
  split <;> simp [hs]

@[simp] theorem amoAt_wf (op ty b pa via) : (s.amoAt op ty b pa via).state.mem.wf = true := by simp [amoAt, hs]

@[simp] theorem amoBody_wf (sig op loc h ty a b) : (s.amoBody sig op loc h ty a b).state.mem.wf = true := by
  simp [amoBody, hs]

@[simp] theorem withTensor_wf (q a also k) (hk : ∀ d x t, t.mem.wf = true → (k d x t).state.mem.wf = true) :
    (s.withTensor q a also k).state.mem.wf = true := by
  unfold withTensor
  refine withDesc_wf hs _ _ _ fun d => unlocked_wf hs _ _ fun _ => ?_
  split
  · simp [hs]
  refine afterChk_wf hs _ _ fun _ => ?_
  split
  · simp [hs]
  · exact hk _ _ _ (by simp [hs])

@[simp] theorem issueSealing_wf (kind sig) : (s.issueSealing kind sig).state.mem.wf = true := by
  simp [issueSealing, hs]

@[simp] theorem nredBody_wf (fmt d a b) : (s.nredBody fmt d a b).state.mem.wf = true := by
  refine unlocked_wf hs _ _ fun _ => afterChk_wf hs _ _ fun _ => ?_
  dsimp only
  split
  · simp [hs]
  · refine afterChk_wf hs _ _ fun _ => afterChk_wf hs _ _ fun _ => ?_
    simp [hs]

@[simp] theorem naddRemote_wf (int h off data) : (s.naddRemote int h off data).state.mem.wf = true := by
  unfold naddRemote
  split
  · split
    · simp [hs]
    refine sealing_wf hs _ fun _ => ?_
    dsimp only
    split
    · simp [hs]
    next ht =>
      have hm := sendParts_mem _ ht
      split <;> simp [hm, hs]
  · simp [hs]

@[simp] theorem naddBody_wf (fmt h a b) : (s.naddBody fmt h a b).state.mem.wf = true := by
  unfold naddBody
  dsimp only
  split
  · simp [hs]
  · refine afterChk_wf hs _ _ fun _ => afterChk_wf hs _ _ fun _ => ?_
    simp [hs]

@[simp] theorem namoBody_wf (op ty h a b) : (s.namoBody op ty h a b).state.mem.wf = true := by simp [namoBody, hs]

/-! #### Machine/AeEvents -/

@[simp] theorem reqStep_wf (c id f) (hf : ∀ x y, (f x y).mem.wf = true) : (s.reqStep c id f).mem.wf = true := by
  fun_cases reqStep s c id f <;> simp [hs, hf]

@[simp] theorem nearStep_wf (c id f) (hf : ∀ x y, (f x y).mem.wf = true) : (s.nearStep c id f).mem.wf = true := by
  fun_cases nearStep s c id f <;> simp [hs, hf]

@[simp] theorem arriveTurn_wf (c id) : (s.arriveTurn c id).mem.wf = true := by simp [arriveTurn, hs]

@[simp] theorem nearReady_wf (c id f) (hf : ∀ x y, (f x y).mem.wf = true) : (s.nearReady c id f).mem.wf = true := by
  simp [nearReady, hs, hf]

/-! #### Machine/Calls -/

@[simp] theorem callGo_wf (d a r w tag) : (s.callGo d a r w tag).state.mem.wf = true := by
  unfold callGo
  extract_lets t h off ws gen taken sealed addr dest
  have taken_mem : ∀ u, (taken u).mem = u.mem := fun u => by dsimp only [taken]; split <;> simp
  have sealed_mem : ∀ u, (sealed u).mem = u.mem := fun u => by dsimp only [sealed]; split <;> simp
  split
  · split
    · simp [hs]
    · have hr := remoteIssue_wf hs h addr .rem (.call w.entry ws tag.isNone (Handle.perm h)) dest none
      split
      next heq => simpa [sealed_mem, taken_mem, heq] using hr
      · exact hr
  · split
    · extract_lets who
      split <;> simp [sealed_mem, taken_mem, hs]
    · simp [hs]

@[simp] theorem callBody_wf (d a r w) : (s.callBody d a r w).state.mem.wf = true := by
  unfold callBody
  refine afterChk_wf hs _ _ fun _ => ?_
  dsimp only
  split
  · simp [hs]
  split
  · simp [hs]
  split
  · simp [hs]
  · simp [hs]

@[simp] theorem waitCall_wf (a) : (s.waitCall a).state.mem.wf = true := by fun_cases waitCall s a <;> simp [hs]

/-! #### Machine/Turns -/

@[simp] theorem fetch_wf : s.fetch.state.mem.wf = true := by
  unfold fetch
  dsimp only
  (repeat' split) <;> simp [hs]

@[simp] theorem agentTurn_wf (a) : (s.agentTurn a).state.mem.wf = true := by
  fun_cases agentTurn s a <;> simp +zetaDelta [*]

/-! #### Machine/Copies -/

@[simp] theorem withBar_wf (a k) (hk : ∀ t, t.mem.wf = true → (k t).state.mem.wf = true) :
    (s.withBar a k).state.mem.wf = true := by
  simp [withBar, hs, hk]

@[simp] theorem copyBody_wf (k d a b rows mask sig) : (s.copyBody k d a b rows mask sig).state.mem.wf = true := by
  unfold copyBody
  refine afterChk_wf hs _ _ fun _ => ?_
  dsimp only
  split
  · simp [hs]
  split
  · simp [hs]
  split
  · simp [hs]
  refine afterChk_wf hs _ _ fun _ => ?_
  split
  · simp [hs]
  split
  · split <;> simp [hs]
  · simp [hs]

@[simp] theorem binitBody_wf (a b clr) : (s.binitBody a b clr).state.mem.wf = true := by
  simp +contextual [binitBody, hs]

@[simp] theorem bwaitBody_wf (a b) : (s.bwaitBody a b).state.mem.wf = true := by
  refine atPoint_wf hs _ _ fun _ => afterChk_wf hs _ _ fun _ => withBar_wf hs _ _ fun t ht => ?_
  dsimp only
  simp [ht]

@[simp] theorem barrBody_wf : s.barrBody.state.mem.wf = true := by simp [barrBody, hs]
@[simp] theorem xstatBody_wf (d a b) : (s.xstatBody d a b).state.mem.wf = true := by simp [xstatBody, hs]

/-! #### Machine/VecCore -/

@[simp] theorem vEntry_wf (k skip) (hk : ∀ x, (k x).state.mem.wf = true) : (s.vEntry k skip).state.mem.wf = true := by
  fun_cases vEntry s k skip <;> simp [hs, hk]

@[simp] theorem vEntryCvt_wf (k) (hk : ∀ x, (k x).state.mem.wf = true) : (s.vEntryCvt k).state.mem.wf = true := by
  simp [vEntryCvt, hs, hk]

@[simp] theorem ftInvalid_wf : s.ftInvalid.state.mem.wf = true := by simp [ftInvalid, hs]

@[simp] theorem vWith_wf (types acc fmt o k) (hk : ∀ x, (k x).state.mem.wf = true) :
    (s.vWith types acc fmt o k).state.mem.wf = true := by
  simp [vWith, hs, hk]

@[simp] theorem vFinish_wf (policy outs k) (hk : ∀ t, t.mem.wf = true → (k t).mem.wf = true) :
    (s.vFinish policy outs k).state.mem.wf = true := by
  fun_cases vFinish s policy outs k <;> simp [hs, hk]

@[simp] theorem runVec_wf (p o tk) (hp : p.Keeps) : (s.runVec p o tk).mem.wf = true := by
  unfold runVec
  split
  · split
    · exact withPattern_wf hs _ _ _ fun g t ht => hp _ _ ht
    · simp [hs]
  · simp [hs]

/-! #### Machine/VecMem -/

@[simp] theorem vRemote_wf (h off load dest ops) : (s.vRemote h off load dest ops).state.mem.wf = true := by
  unfold vRemote
  dsimp only
  split
  · simp [hs]
  split
  · simp [hs]
  split
  next ht =>
    have hm := remoteAll_mem _ ht
    split <;> simp [hm, hs]
  · simp [hs]

@[simp] theorem vElems_wf (o w addr k) (hk : ∀ x, (k x).state.mem.wf = true) :
    (s.vElems o w addr k).state.mem.wf = true := by
  simp [vElems, hs, hk]

@[simp] theorem vLoadElems_wf (o d w addr) : (s.vLoadElems o d w addr).state.mem.wf = true := by
  unfold vLoadElems
  refine vElems_wf hs _ _ _ _ fun es => ?_
  dsimp only
  split
  · simp [hs]
  · split <;> simp [hs]

@[simp] theorem vStoreElems_wf (o d w addr) : (s.vStoreElems o d w addr).state.mem.wf = true := by
  simp [vStoreElems, hs]

@[simp] theorem accJoin_wf (a k) (hk : ∀ x, (k x).state.mem.wf = true) : (s.accJoin a k).state.mem.wf = true := by
  simp [accJoin, hs, hk]

/-! #### Machine/Loads -/

@[simp] theorem asAgent_wf (a f) (hf : ∀ t, t.mem.wf = true → (f t).mem.wf = true) :
    (s.asAgent a f).mem.wf = true := by
  simp [asAgent, hs, hf]

@[simp] theorem lateUncorr_wf (l) : (s.lateUncorr l).mem.wf = true := by simp [lateUncorr, hs]

@[simp] theorem readStep_wf (c e n) : (s.readStep c e n).mem.wf = true := by
  fun_cases readStep s c e n <;> simp +zetaDelta [hs]

@[simp] theorem readTurn_wf (c e n) : (s.readTurn c e n).mem.wf = true := by simp +contextual [readTurn, hs]
@[simp] theorem peekTurn_wf (c e a n) : (s.peekTurn c e a n).mem.wf = true := by simp [peekTurn, hs]

/-! #### Machine/Slots -/

@[simp] theorem withSlot_wf (a ok k) (hk : ∀ x, (k x).state.mem.wf = true) :
    (s.withSlot a ok k).state.mem.wf = true := by
  simp only [withSlot]
  (repeat' split) <;> simp [hs, hk]

/-! #### Machine/Fabric -/

@[simp] theorem remStep_wf (c e id f) (hf : ∀ x y, (f x y).mem.wf = true) : (s.remStep c e id f).mem.wf = true := by
  fun_cases remStep s c e id f <;> simp [hs, hf]

@[simp] theorem remReply_wf (c e id data) : (s.remReply c e id data).mem.wf = true := by simp [remReply, hs]

@[simp] theorem remFaulted_wf (c e id code addr pc word) : (s.remFaulted c e id code addr pc word).mem.wf = true := by
  simp [remFaulted, hs]

@[simp] theorem loop_wf (o) : (s.loop o).mem.wf = true := by fun_cases loop s o <;> simp [hs]
@[simp] theorem gatewayTurn_wf (n) : (s.gatewayTurn n).mem.wf = true := by fun_cases gatewayTurn s n <;> simp [hs]

/-! #### Machine/Graphs -/

@[simp] theorem graphBad_wf (c q e node) : (s.graphBad c q e node).mem.wf = true := by simp [graphBad, hs]

@[simp] theorem fetchEntry_wf (c q) : (s.fetchEntry c q).mem.wf = true := by
  fun_cases fetchEntry s c q <;> simp +zetaDelta [hs]

@[simp] theorem startGraph_wf (c q) : (s.startGraph c q).mem.wf = true := by
  fun_cases startGraph s c q <;> simp +zetaDelta [hs]

@[simp] theorem readyNode_wf (gid n ty k) (hk : ∀ x y, (k x y).mem.wf = true) :
    (s.readyNode gid n ty k).mem.wf = true := by
  fun_cases readyNode s gid n ty k <;> simp [hs, hk]

@[simp] theorem nodeBad_wf (g n code) : (s.nodeBad g n code).mem.wf = true := by simp [nodeBad, hs]

@[simp] theorem runWalk_wf (gid n) : (s.runWalk gid n).mem.wf = true := by
  refine readyNode_wf hs _ _ _ _ fun g x => ?_
  dsimp only
  split
  · exact hs
  split
  · simp [hs]
  · split <;> simp [hs]

@[simp] theorem nodeCopy_wf (gid n k) (hk : ∀ x y, (k x y).mem.wf = true) : (s.nodeCopy gid n k).mem.wf = true := by
  fun_cases nodeCopy s gid n k <;> simp [hs, hk]

@[simp] theorem runCopy_wf (gid n) : (s.runCopy gid n).mem.wf = true := by
  unfold runCopy
  split
  · exact hs
  split
  · refine nodeCopy_wf hs _ _ _ fun g x => ?_
    dsimp only
    split
    · split
      · simp [hs]
      next ht => simp [copyOne_mem _ ht, hs]
    · exact hs
  · refine readyNode_wf hs _ _ _ _ fun g x => ?_
    dsimp only
    split <;> simp [hs]

@[simp] theorem endCopyNode_wf (gid n) : (s.endCopyNode gid n).mem.wf = true := by
  refine nodeCopy_wf hs _ _ _ fun g x => ?_
  dsimp only
  split
  · split
    · simp [hs]
    next ht =>
      split at ht
      · obtain rfl := Option.some.inj ht
        simp [hs]
      · simp [copyOne_mem _ ht, hs]
  · exact hs

@[simp] theorem runCondition_wf (gid n) : (s.runCondition gid n).mem.wf = true := by
  refine readyNode_wf hs _ _ _ _ fun g x => ?_
  dsimp only
  split <;> simp [hs]

@[simp] theorem runSwitch_wf (gid n) : (s.runSwitch gid n).mem.wf = true := by
  refine readyNode_wf hs _ _ _ _ fun g x => ?_
  dsimp only
  split <;> simp [hs]

@[simp] theorem runEvent_wf (gid n) : (s.runEvent gid n).mem.wf = true := by
  refine readyNode_wf hs _ _ _ _ fun g x => ?_
  split
  · simp [hs]
  next ht => simp [ctxWrite_mem _ ht, publish_wf hs]

@[simp] theorem runLoop_wf (gid n) : (s.runLoop gid n).mem.wf = true := by
  fun_cases runLoop s gid n <;> simp +zetaDelta [hs]

/-! #### Machine/Select -/

@[simp] theorem startJob_wf (c kit gang seq core rank) : (s.startJob c kit gang seq core rank).mem.wf = true := by
  unfold startJob
  dsimp only
  rw [modCore_mem]
  exact writeImage_wf _ _ (clearCore_wf _ _ _ (by simp [hs]))

@[simp] theorem startGang_wf (c kit cluster) : (s.startGang c kit cluster).mem.wf = true := by
  unfold startGang
  split
  · exact hs
  dsimp only
  refine wf_foldl _ _ _ (fun t x ht => ?_) (wf_foldl _ _ _ (fun t x ht => startJob_wf ht _ _ _ _ _ _) ?_)
  · split
    · exact ht
    · simp [ht]
  · simpa using hs

@[simp] theorem kitBad_wf (c) : (s.kitBad c).mem.wf = true := by fun_cases kitBad s c <;> simp +zetaDelta [hs]
@[simp] theorem decide_wf : s.decide_.mem.wf = true := by
  unfold decide_
  (repeat' split) <;> simp [hs]

@[simp] theorem carryOut_wf (gid) : (s.carryOut gid).mem.wf = true := by fun_cases carryOut s gid <;> simp [hs]

/-! #### Machine/Watch -/

@[simp] theorem deadlock_wf (c) : (s.deadlock c).mem.wf = true := by fun_cases deadlock s c <;> simp [hs]

@[simp] theorem lateReport_wf (c e) : (s.lateReport c e).mem.wf = true := by
  fun_cases lateReport s c e <;> simp +zetaDelta [hs]

@[simp] theorem longRegion_wf (c e) : (s.longRegion c e).mem.wf = true := by
  unfold longRegion
  dsimp only
  split
  · have hf := fetch_wf (s := { s with cur := .eng c e }) hs
    split
    next he => simpa [he] using hf
    · exact hs
  · exact hs

/-! #### Machine/Resets -/

@[simp] theorem resetNow_wf : s.resetNow.mem.wf = true := moduleClear_wf hs

@[simp] theorem lossDiscard_wf (gid) : (s.lossDiscard gid).mem.wf = true := by
  fun_cases lossDiscard s gid <;> simp [hs]

@[simp] theorem fenceJob_wf (c bankB) : (s.fenceJob c bankB).mem.wf = true := by
  fun_cases fenceJob s c bankB <;> simp [hs]

@[simp] theorem coreError_wf (c) : (s.coreError c).mem.wf = true := by simp [coreError, hs]
@[simp] theorem memErrorTurn_wf (a) : (s.memErrorTurn a).mem.wf = true := by simp [memErrorTurn, hs]

/-! #### Machine/HostRegs -/

@[simp] theorem pagesOpen_wf {k} (hk : k.mem.wf = true) : (s.pagesOpen k).mem.wf = true := by simp [pagesOpen, hs, hk]
@[simp] theorem planesUp_wf {k} (hk : k.mem.wf = true) : (s.planesUp k).mem.wf = true := by simp [planesUp, hs, hk]
@[simp] theorem writeDevice_wf (off v) : (s.writeDevice off v).mem.wf = true := by simp [writeDevice, hs]
@[simp] theorem hostRead_wf (p off) : (s.hostRead p off).mem.wf = true := by unfold hostRead; split <;> simp [hs]

@[simp] theorem writeReg_wf (p off v) : (s.writeReg p off v).mem.wf = true := by
  fun_cases writeReg s p off v <;> simp [hs]

@[simp] theorem hostWriteTurn_wf (a bs) : (s.hostWriteTurn a bs).mem.wf = true := by
  fun_cases hostWriteTurn s a bs <;> simp [hs]

@[simp] theorem hostLoadTurn_wf (a) : (s.hostLoadTurn a).mem.wf = true := by fun_cases hostLoadTurn s a <;> simp [hs]

@[simp] theorem writeImem_wf (w c e a v) : (s.writeImem w c e a v).mem.wf = true := by
  fun_cases writeImem s w c e a v <;> simp [hs]

/-! #### Machine/LoadStore -/

@[simp] theorem handleForm_wf (e) (he : e.state.mem.wf = true) : (s.handleForm e).state.mem.wf = true := by
  simp [handleForm, hs, he]

@[simp] theorem loadForm_wf (d a imm sz hf h) : (s.loadForm d a imm sz hf h).state.mem.wf = true := by
  simp [loadForm, hs]

@[simp] theorem storeForm_wf (d a imm sz hf h) : (s.storeForm d a imm sz hf h).state.mem.wf = true := by
  simp [storeForm, hs]

end

end State

/-! ### Vector plans -/

namespace VPlan

open State

/-- The answers of an FT entry's form (R82): its body, a group that is not one, types that the major does not take. -/
theorem entryForm_wf {s : State} (hs : s.mem.wf = true) (types group : Prop) [Decidable types] [Decidable group] {body : End}
    (hb : body.state.mem.wf = true) :
    (if types then if group then body else .trapped s.illegal else s.ftInvalid).state.mem.wf = true := by
  split
  · split
    · exact hb
    · exact illegal_wf hs
  · exact ftInvalid_wf hs

theorem vArith_keeps {op d a b fmt} : (vArith op d a b fmt).Keeps := fun _ _ hs => by
  dsimp only [vArith]
  exact vWith_wf hs _ _ _ _ _ fun _ => vFinish_wf hs _ _ _ fun _ ht => by simp [ht]

theorem vLogic_keeps {op d a b fmt} : (vLogic op d a b fmt).Keeps := fun _ _ hs => by simp [vLogic, vPair, hs]
theorem vAbsNeg_keeps {neg d a fmt} : (vAbsNeg neg d a fmt).Keeps := fun _ _ hs => by simp [vAbsNeg, hs]

theorem vWide_keeps {op d a b fmt} : (vWide op d a b fmt).Keeps := fun _ _ hs => by
  dsimp only [vWide]
  split
  · exact vEntry_wf hs _ _ fun _ => entryForm_wf hs _ _ <| vFinish_wf hs _ _ _ fun _ ht => by simp [ht]
  · exact vFinish_wf hs _ _ _ fun _ ht => by simp [ht]

theorem vCvt_keeps {d a src fmt} : (vCvt d a src fmt).Keeps := fun _ _ hs => by
  dsimp only [vCvt]
  split
  · exact vEntryCvt_wf hs _ fun _ => entryForm_wf hs _ _ <| vFinish_wf hs _ _ _ fun _ ht => by simp [ht]
  · exact vFinish_wf hs _ _ _ fun _ ht => by simp [ht]

theorem vNrw_keeps {d a src fmt} : (vNrw d a src fmt).Keeps := fun _ _ hs => by
  dsimp only [vNrw]
  split
  · exact vEntryCvt_wf hs _ fun _ => entryForm_wf hs _ _ <| vFinish_wf hs _ _ _ fun _ ht => by simp [ht]
  · exact vFinish_wf hs _ _ _ fun _ ht => by simp [ht]

theorem vQnt_keeps {d a ty fmt} : (vQnt d a ty fmt).Keeps := fun _ _ hs => by
  dsimp only [vQnt]
  split
  · exact vEntryCvt_wf hs _ fun _ => entryForm_wf hs _ _ <| vFinish_wf hs _ _ _ fun _ ht => by simp [ht]
  · exact vFinish_wf hs _ _ _ fun _ ht => by simp [ht]

theorem vDqt_keeps {d a fmt} : (vDqt d a fmt).Keeps := fun _ _ hs => by
  dsimp only [vDqt]
  split
  · exact vEntryCvt_wf hs _ fun _ => entryForm_wf hs _ _ <| vFinish_wf hs _ _ _ fun _ ht => by simp [ht]
  · exact vFinish_wf hs _ _ _ fun _ ht => by simp [ht]

theorem vSpecial_keeps {f d a} : (vSpecial f d a).Keeps := fun _ _ hs => by
  dsimp only [vSpecial]
  exact vFinish_wf hs _ _ _ fun _ ht => by simp [ht]

theorem vHash_keeps {d fmt} : (vHash d fmt).Keeps := fun _ _ hs => by simp [vHash, hs]

theorem vDrop_keeps {d a b fmt} : (vDrop d a b fmt).Keeps := fun _ _ hs => by
  dsimp only [vDrop]
  exact vWith_wf hs _ _ _ _ _ fun _ => vFinish_wf hs _ _ _ fun _ ht => by simp [ht]

theorem vCmp_keeps {c p a b fmt} : (vCmp c p a b fmt).Keeps := fun _ _ hs => by simp [vCmp, hs]
theorem vSel_keeps {d a b fmt} : (vSel d a b fmt).Keeps := fun _ _ hs => by simp [vSel, hs]
theorem vPred_keeps {f d} : (vPred f d).Keeps := fun _ _ hs => by simp [vPred, hs]
theorem vPcnt_keeps {d a sz} : (vPcnt d a sz).Keeps := fun _ _ hs => by simp [vPcnt, hs]
theorem vPfirst_keeps {d a sz} : (vPfirst d a sz).Keeps := fun _ _ hs => by simp [vPfirst, hs]
theorem vPstage_keeps {p a sz m} : (vPstage p a sz m).Keeps := fun _ _ hs => by simp [vPstage, hs]
theorem vPermute_keeps {types fmt d f} : (vPermute types fmt d f).Keeps := fun _ _ hs => by simp [vPermute, hs]
theorem vPerm_keeps {d a b fmt} : (vPerm d a b fmt).Keeps := vPermute_keeps
theorem vShuf_keeps {d a b} : (vShuf d a b).Keeps := vPermute_keeps
theorem vBcast_keeps {d a fmt} : (vBcast d a fmt).Keeps := vPermute_keeps
theorem vSlide_keeps {d a b fmt} : (vSlide d a b fmt).Keeps := vPermute_keeps
theorem vExtr_keeps {d a b fmt} : (vExtr d a b fmt).Keeps := fun _ _ hs => by simp [vExtr, hs]
theorem vIns_keeps {d a b fmt} : (vIns d a b fmt).Keeps := fun _ _ hs => by simp [vIns, hs]
theorem vZip_keeps {d a b fmt} : (vZip d a b fmt).Keeps := fun _ _ hs => by simp [vZip, hs]
theorem vUzp_keeps {d a fmt} : (vUzp d a fmt).Keeps := fun _ _ hs => by simp [vUzp, hs]

theorem vRsum_keeps {d a fmt} : (vRsum d a fmt).Keeps := fun _ _ hs => by
  dsimp only [vRsum]
  exact vFinish_wf hs _ _ _ fun _ ht => by simp [ht]

theorem vRext_keeps {wantMax d a fmt} : (vRext wantMax d a fmt).Keeps := fun _ _ hs => by simp [vRext, hs]

theorem vScan_keeps {d a fmt} : (vScan d a fmt).Keeps := fun _ _ hs => by
  dsimp only [vScan]
  exact vFinish_wf hs _ _ _ fun _ ht => by simp [ht]

theorem vSegr_keeps {d a p fmt} : (vSegr d a p fmt).Keeps := fun _ _ hs => by
  dsimp only [vSegr]
  exact vFinish_wf hs _ _ _ fun _ ht => by simp [ht]

theorem vSort_keeps {desc d a fmt} : (vSort desc d a fmt).Keeps := fun _ _ hs => by simp [vSort, hs]
theorem vUniq_keeps {p a fmt} : (vUniq p a fmt).Keeps := fun _ _ hs => by simp [vUniq, hs]
theorem vRotb_keeps {a} : (vRotb a).Keeps := fun _ _ hs => by simp [vRotb, hs]
theorem vDefer_keeps {k1 a p fmt} : (vDefer k1 a p fmt).Keeps := fun _ _ hs => by
  dsimp only [vDefer]
  split <;> simp [hs]
theorem vDrain_keeps {d a fmt} : (vDrain d a fmt).Keeps := fun _ _ hs => by simp [vDrain, hs]
theorem vDqn_keeps {d a} : (vDqn d a).Keeps := fun _ _ hs => by simp [vDqn, hs]

theorem vLd_keeps {d a hf h fmt} : (vLd d a hf h fmt).Keeps := fun _ _ hs => by
  dsimp only [vLd]
  refine afterChk_wf hs _ _ fun _ => ?_
  split
  · exact vRemote_wf hs ..
  split
  · simp [hs]
  split
  · exact hs
  split <;> simp [hs]

theorem vSt_keeps {d a hf h fmt} : (vSt d a hf h fmt).Keeps := fun _ _ hs => by
  dsimp only [vSt]
  refine afterChk_wf hs _ _ fun _ => ?_
  split
  · exact vRemote_wf hs ..
  split <;> simp [hs]

theorem vLds_keeps {d a b fmt} : (vLds d a b fmt).Keeps := fun _ _ hs => vLoadElems_wf hs ..
theorem vSts_keeps {d a b fmt} : (vSts d a b fmt).Keeps := fun _ _ hs => vStoreElems_wf hs ..
theorem vGth_keeps {d a b fmt} : (vGth d a b fmt).Keeps := fun _ _ hs => vLoadElems_wf hs ..
theorem vSct_keeps {d a b fmt} : (vSct d a b fmt).Keeps := fun _ _ hs => vStoreElems_wf hs ..

theorem vAccrd_keeps {d a} : (vAccrd d a).Keeps := fun _ _ hs => by
  dsimp only [vAccrd]
  exact accJoin_wf hs _ _ fun _ => by simp [hs]

theorem vAccwr_keeps {d a} : (vAccwr d a).Keeps := fun _ _ hs => by
  dsimp only [vAccwr]
  refine accJoin_wf hs _ _ fun _ => ?_
  simp [hs]

end VPlan

/-- Every plan of a vector instruction leaves memory canonical. -/
theorem VPlan.Keeps.of_vplan {i p} (hp : Instr.vplan i = some p) : p.Keeps := by
  cases i with
  | vadd | vsub | vmul | vfma | vfms | vmin | vmax => cases hp; exact vArith_keeps
  | vand | vor | vxor | vshl | vshr | vsha => cases hp; exact vLogic_keeps
  | vabs | vneg => cases hp; exact vAbsNeg_keeps
  | vwadd | vwmul | vwfma => cases hp; exact vWide_keeps
  | vnrw => cases hp; exact vNrw_keeps
  | vcvt => cases hp; exact vCvt_keeps
  | vqnt => cases hp; exact vQnt_keeps
  | vdqt => cases hp; exact vDqt_keeps
  | vcmp => cases hp; exact vCmp_keeps
  | vsel => cases hp; exact vSel_keeps
  | pand | por | pxor | pnot => cases hp; exact vPred_keeps
  | pcnt => cases hp; exact vPcnt_keeps
  | pfirst => cases hp; exact vPfirst_keeps
  | pstage => cases hp; exact vPstage_keeps
  | vperm => cases hp; exact vPerm_keeps
  | vshuf => cases hp; exact vShuf_keeps
  | vbcast => cases hp; exact vBcast_keeps
  | vslide => cases hp; exact vSlide_keeps
  | vextr => cases hp; exact vExtr_keeps
  | vins => cases hp; exact vIns_keeps
  | vzip => cases hp; exact vZip_keeps
  | vuzp => cases hp; exact vUzp_keeps
  | vrsum => cases hp; exact vRsum_keeps
  | vrmax | vrmin => cases hp; exact vRext_keeps
  | vscan => cases hp; exact vScan_keeps
  | vsegr => cases hp; exact vSegr_keeps
  | vsort | vsortDesc => cases hp; exact vSort_keeps
  | vuniq => cases hp; exact vUniq_keeps
  | vexp2 | vlog2 | vrcp | vrsq | vexp | vtanh | vsig | vgelu => cases hp; exact vSpecial_keeps
  | vhash => cases hp; exact vHash_keeps
  | vdrop => cases hp; exact vDrop_keeps
  | vld => cases hp; exact vLd_keeps
  | vst => cases hp; exact vSt_keeps
  | vlds => cases hp; exact vLds_keeps
  | vsts => cases hp; exact vSts_keeps
  | vgth => cases hp; exact vGth_keeps
  | vsct => cases hp; exact vSct_keeps
  | accrd => cases hp; exact vAccrd_keeps
  | accwr => cases hp; exact vAccwr_keeps
  | vrotb => cases hp; exact vRotb_keeps
  | vdefer => cases hp; exact vDefer_keeps
  | vdrain => cases hp; exact vDrain_keeps
  | vdqn => cases hp; exact vDqn_keeps
  | _ => cases hp

/-- The short form of a vector instruction runs its plan. -/
theorem exec_of_vplan {i p} (hp : Instr.vplan i = some p) (s : State) : ∃ tk, exec i s = .next (s.runVec p {} tk) := by
  unfold Instr.vplan at hp
  split at hp <;> cases hp <;> exact ⟨_, rfl⟩

/-! ### The instructions and events whose effect is written out in their meaning -/

/-- An answer whose next state, where it has one, holds canonical memory. -/
structure AnswerWf (x : Answer) : Prop where
  wf : ∀ t, x = .next t → t.mem.wf = true

theorem AnswerWf.next {t : State} (ht : t.mem.wf = true) : AnswerWf (.next t) := ⟨fun _ h => by cases h; exact ht⟩
theorem AnswerWf.fault (f : Fault) : AnswerWf (.fault f) := ⟨fun _ h => by cases h⟩
theorem AnswerWf.refused (r : Refusal) : AnswerWf (.refused r) := ⟨fun _ h => by cases h⟩

section
open State
variable {s : State} (hs : s.mem.wf = true)
include hs

theorem put_wf (n d v) : AnswerWf (s.put n d v) := .next (ends_wf (by simp [hs]))

theorem pattern_wf {tk n body} (hb : ∀ g t, t.mem.wf = true → (body g t).state.mem.wf = true) :
    AnswerWf (.next (s.withPattern tk n body)) := .next (withPattern_wf hs _ _ _ hb)

theorem execTwait_wf (m) : AnswerWf (execTwait m s) := by
  refine .next (ends_wf ?_)
  split
  · refine atPoint_wf hs _ _ fun _ => ?_
    split <;> simp [hs]
  · exact illegal_wf hs

theorem execTsig_wf (m) : AnswerWf (execTsig m s) := by
  refine .next (ends_wf ?_)
  split
  · split <;> simp [hs]
  · exact illegal_wf hs

theorem execRdv_wf : AnswerWf (execRdv s) := by
  refine .next ?_
  split
  · split
    · split <;> simp [hs]
    · simp [hs]
  · simp [hs]
  · exact hs

theorem execLdAq_wf (d a imm sz scope paths hf h) : AnswerWf (execLdAq d a imm sz scope paths hf h s) :=
  .next <| ends_wf <| atPoint_wf hs _ _ fun _ => loadForm_wf (by simp [hs]) ..

theorem execStRl_wf (d a imm sz scope paths hf h) : AnswerWf (execStRl d a imm sz scope paths hf h s) := by
  refine .next <| ends_wf <| atPoint_wf hs _ _ fun _ => ?_
  split
  · exact illegal_wf hs
  · refine afterChk_wf hs _ _ fun _ => ?_
    split
    · exact storeForm_wf (by simp [hs]) ..
    · exact hs

theorem execBsel_wf (k d a b tk) : AnswerWf (execBsel k d a b tk s) := by
  refine pattern_wf hs fun _ t ht => afterChk_wf ht _ _ fun _ => afterChk_wf ht _ _ fun _ => ?_
  dsimp only
  split
  · split <;> simp [ht]
  · simp [ht]

theorem execLaunch_wf (d a tk) : AnswerWf (execLaunch d a tk s) := by
  refine pattern_wf hs fun _ t ht => afterChk_wf ht _ _ fun _ => ?_
  dsimp only
  split
  · simp [ht]
  split
  · split <;> simp [ht]
  · exact ht

theorem execYield_wf (d tk) : AnswerWf (execYield d tk s) := by
  refine pattern_wf hs fun _ t ht => ?_
  split
  · simp [ht]
  · split
    · simp [ht]
    · split <;> simp [ht]

theorem execQld_wf (fmt d a b tk) : AnswerWf (execQld fmt d a b tk s) := by
  refine pattern_wf hs fun _ t ht => ?_
  dsimp only
  split
  · simp [ht]
  · refine afterChk_wf ht _ _ fun _ => afterChk_wf ht _ _ fun _ => ?_
    simp [ht]

theorem execWrel_wf (a k tk) : AnswerWf (execWrel a k tk s) :=
  pattern_wf hs fun _ _ ht => withTensor_wf ht _ _ _ _ fun _ _ _ hu => issueSealing_wf hu _ _

theorem execTupd_wf (h a b tk) : AnswerWf (execTupd h a b tk s) :=
  pattern_wf hs fun _ _ ht => withTensor_wf ht _ _ _ _ fun _ _ _ hu =>
    afterChk_wf hu _ _ fun _ => issueSealing_wf hu _ _

theorem execTskip_wf (a tk) : AnswerWf (execTskip a tk s) :=
  pattern_wf hs fun _ _ ht => withTensor_wf ht _ _ _ _ fun _ _ _ hu => issueSealing_wf hu _ _

theorem execNseq_wf (a tk) : AnswerWf (execNseq a tk s) := by
  refine pattern_wf hs fun _ t ht => afterChk_wf ht _ _ fun _ => ?_
  dsimp only
  split
  · simp [ht]
  refine unlocked_wf ht _ _ fun _ => ?_
  split
  · simp [ht]
  refine afterChk_wf ht _ _ fun _ => ?_
  split
  · split
    · exact ht
    · exact sealing_wf ht _ fun _ => by simp [ht]
  · simp [ht]

theorem execBqry_wf (d a tk) : AnswerWf (execBqry d a tk s) :=
  pattern_wf hs fun _ _ ht => afterChk_wf ht _ _ fun _ => withBar_wf ht _ _ fun _ hu => by simp [hu]

theorem execFreq_wf (d a tk dur) : AnswerWf (execFreq d a tk dur s) := by
  refine pattern_wf hs fun _ t ht => withSlot_wf ht _ _ _ fun x => ?_
  split
  · exact ht
  dsimp only
  split
  · simp [ht]
  split <;> simp [ht]

theorem execFsend_wf (a b tk) : AnswerWf (execFsend a b tk s) := by
  refine pattern_wf hs fun _ t ht => withSlot_wf ht _ _ _ fun x => afterChk_wf ht _ _ fun _ => ?_
  split
  · simp [ht]
  dsimp only
  split
  · simp [ht]
  split
  · simp [ht]
  split <;> simp [ht]

theorem execFrecv_wf (a tk) : AnswerWf (execFrecv a tk s) := by
  refine pattern_wf hs fun _ t ht => withSlot_wf ht _ _ _ fun x => afterChk_wf ht _ _ fun _ => ?_
  split <;> simp [ht]

theorem execFwiden_wf (a tk) : AnswerWf (execFwiden a tk s) := by
  refine pattern_wf hs fun _ t ht => withSlot_wf ht _ _ _ fun x => afterChk_wf ht _ _ fun _ => ?_
  dsimp only
  split <;> simp [ht]

/-! ### Outposts -/

theorem inFrame_wf {k} (hk : ∀ o f c, (k o f c).state.mem.wf = true) : AnswerWf (s.inFrame k) := by
  refine .next (ends_wf ?_)
  split
  · split
    · exact hk _ _ _
    · exact illegal_wf hs
  · exact illegal_wf hs

theorem inPage_wf {a n perm k} (hk : ∀ c pa, (k c pa).state.mem.wf = true) : AnswerWf (s.inPage a n perm k) := by
  refine inFrame_wf hs fun _ _ c => ?_
  dsimp only
  split
  · exact trap_wf hs ..
  split
  · exact trap_wf hs ..
  split
  · exact trap_wf hs ..
  · exact hk _ _

theorem wOp_wf (d a b f) : AnswerWf (s.wOp d a b f) := inFrame_wf hs fun _ _ _ => by simp [hs]

theorem oamo_wf (op ty a b) : AnswerWf (s.oamo op ty a b) := inPage_wf hs fun _ _ => by
  split <;> simp [hs]

theorem execOst_wf (d a sz) : AnswerWf (execOst d a sz s) := inPage_wf hs fun _ _ => by simp [hs]
theorem execOvst_wf (d a) : AnswerWf (execOvst d a s) := inPage_wf hs fun _ _ => by simp [hs]
theorem execOvadd_wf (d a b) : AnswerWf (execOvadd d a b s) := wOp_wf hs ..
theorem execOvmul_wf (d a b) : AnswerWf (execOvmul d a b s) := wOp_wf hs ..
theorem execOvfma_wf (d a b) : AnswerWf (execOvfma d a b s) := wOp_wf hs ..
theorem execOvmax_wf (d a b) : AnswerWf (execOvmax d a b s) := wOp_wf hs ..

theorem execOvld_wf (d a) : AnswerWf (execOvld d a s) := inPage_wf hs fun _ _ => by
  split <;> simp [hs]

/-! ### Requests, copies and calls -/

theorem execInvalidationComplete_wf (id) : AnswerWf (execInvalidationComplete id s) := by
  refine .next ?_
  split
  · split <;> simp [hs]
  · exact hs

theorem execTileRequest_wf (c id) : AnswerWf (execTileRequest c id s) := by
  refine .next (reqStep_wf hs _ _ _ fun _ _ => ?_)
  split <;> simp [hs]

theorem execCopyLanding_wf (c slot) : AnswerWf (execCopyLanding c slot s) := by
  refine .next ?_
  split
  · split <;> simp [hs]
  · exact hs

theorem execXrotRotationStart_wf (c) : AnswerWf (execXrotRotationStart c s) := by
  refine .next ?_
  split
  · split <;> simp [hs]
  · exact hs

/-- A stream that looks again at the instruction on which it waits: what is fetched, and then done, keeps memory. -/
theorem fetchAs_wf (a : Agent) : ({ s with cur := a }.fetch).state.mem.wf = true := fetch_wf (s := { s with cur := a }) hs

theorem execPromiseMiss_wf (c) : AnswerWf (execPromiseMiss c s) := by
  refine .next ?_
  split
  · have hf := fetchAs_wf hs (.eng c.val .xe)
    split
    next heq =>
      rw [heq] at hf
      split
      · exact withPattern_wf hf _ _ _ fun _ _ hu => bwaitBody_wf hu ..
      · exact hs
    next heq =>
      rw [heq] at hf
      split
      · exact withPattern_wf hf _ _ _ fun _ _ hu => xstatBody_wf hu ..
      · exact hs
    · exact hs
  · exact hs

theorem execCallLost_wf (c e) : AnswerWf (execCallLost c e s) := by
  refine .next ?_
  split
  · have hf := fetchAs_wf hs (.eng c.val e)
    dsimp only
    split
    next heq =>
      rw [heq] at hf
      split
      · exact withPattern_wf hf _ _ _ fun _ _ hu => waitCall_wf hu _
      · exact hs
    next heq =>
      rw [heq] at hf
      split
      · exact withPattern_wf hf _ _ _ fun _ _ hu => waitCall_wf hu _
      · exact hs
    · exact hs
  · exact hs

theorem execCallReply_wf (c e tag) : AnswerWf (execCallReply c e tag s) := by
  refine .next ?_
  split <;> simp [hs]

theorem execSlotSendStart_wf (c slot) : AnswerWf (execSlotSendStart c slot s) := by
  refine .next ?_
  split
  · split <;> simp [hs]
  · exact hs

theorem execSlotArrival_wf (c peer chan data) : AnswerWf (execSlotArrival c peer chan data s) := by
  refine .next ?_
  split <;> simp [hs]

theorem execPeerUnreach_wf (c e id) : AnswerWf (execPeerUnreach c e id s) := by
  refine .next ?_
  split
  · exact remStep_wf hs _ _ _ _ fun _ _ => by simp [hs]
  · simp [hs]

theorem execPoolAllocation_wf : AnswerWf (execPoolAllocation s) := by
  refine .next ?_
  split <;> simp [hs]

theorem execExtendedVectorForm_wf (o w) : AnswerWf (execExtendedVectorForm o w s) := by
  refine .next ?_
  split
  · split
    next hp => exact runVec_wf hs _ _ _ (VPlan.Keeps.of_vplan hp)
    · exact illegal_wf hs
  · exact illegal_wf hs
end

/-! ### The dispatch -/

section
open State
variable {s : State} (hs : s.mem.wf = true)
include hs

/-- What every instruction, matrix command and event answers holds canonical memory. -/
theorem exec_wf (i : Instr) : AnswerWf (exec i s) := by
  cases hp : Instr.vplan i with
  | some p =>
    obtain ⟨tk, ht⟩ := exec_of_vplan hp s
    exact ht ▸ .next (runVec_wf hs _ _ _ (VPlan.Keeps.of_vplan hp))
  | none =>
    cases i with
    -- registers and control flow (R105 to R115)
    | add | sub | mul | mulh | mulhu | madd | div | divu | rem | remu | and | or | xor | shl | shr | sha | min | max | minu
      | maxu | clz | popc | cmp | sel | addi | andi | ori | xori | shli | shri | shai | bfx | bfxS | bfi | li | lui | lil
      | spl => exact put_wf hs _ _ _
    | bcz | bc | jmp | call | loop | loopi | leave | sps | waitc | nop | region => exact .next (ends_wf (by simp [hs]))
    | kmovKFromG | kmovGFromK | kmovKFromK | kaddi => exact .next (ends_wf (streamOnly_wf hs _ (by simp [hs])))
    | csrr | csrw => exact .next (ends_wf (by simp [hs]))
    | loopr | trap | tret | kitld => exact .next (by simp [hs])
    | ld => exact .next (ends_wf (loadLocal_wf hs ..))
    | st => exact .next (ends_wf (storeLocal_wf hs ..))
    | ldHandle => exact .next (ends_wf (handleForm_wf hs _ (loadHandle_wf hs ..)))
    | stHandle => exact .next (ends_wf (handleForm_wf hs _ (storeHandle_wf hs ..)))
    | ldAq d a imm sz scope paths hf h => exact execLdAq_wf hs d a imm sz scope paths hf h
    | stRl => exact execStRl_wf hs ..
    | fence | xfence => exact .next (ends_wf (atPoint_wf hs _ _ fun _ => by simp [hs]))
    | twait => exact execTwait_wf hs _
    | tsig => exact execTsig_wf hs _
    | rdv => exact execRdv_wf hs
    -- the instructions under a wait and signal pattern (R147)
    | mqpush | mqdrop | mqdepth | mqdepthClr | semw | sems | ftw | gsfset | gsfsetOr | scq | hinvAll | hinvRid | hinvRange
      | hinvRangeRem | hchk | hchkAddr | hmov | nfence | nfencePoll | tkq | tkqCnt | pft | rpoll | xstat | xcancel =>
      exact pattern_wf hs fun _ _ ht => by simp [ht]
    | kget => exact pattern_wf hs fun _ _ ht => withTensor_wf ht _ _ _ _ fun _ _ _ hu => by simp [hu]
    | bsel => exact execBsel_wf hs ..
    | launch => exact execLaunch_wf hs ..
    | yield => exact execYield_wf hs ..
    | qld => exact execQld_wf hs ..
    | wrel => exact execWrel_wf hs ..
    | tupd => exact execTupd_wf hs ..
    | tskip => exact execTskip_wf hs ..
    | nseq => exact execNseq_wf hs ..
    | bqry => exact execBqry_wf hs ..
    | freq => exact execFreq_wf hs ..
    | fsend => exact execFsend_wf hs ..
    | frecv => exact execFrecv_wf hs ..
    | fwiden => exact execFwiden_wf hs ..
    | tld | tldt | tst => exact pattern_wf hs fun _ _ ht => issueTile_wf ht ..
    | gld | gst => exact pattern_wf hs fun _ _ ht => gatherBody_wf ht ..
    | amoAdd | amoMin | amoMax | amoAnd | amoOr | amoXor | amoSwap | amoCas =>
      exact pattern_wf hs fun _ _ ht => amoBody_wf ht ..
    | xlt | xltx => exact pattern_wf hs fun _ _ ht => xltBody_wf ht ..
    | xltw => exact pattern_wf hs fun _ _ ht => xltwBody_wf ht ..
    | nred => exact pattern_wf hs fun _ _ ht => nredBody_wf ht ..
    | nadd => exact pattern_wf hs fun _ _ ht => naddBody_wf ht ..
    | namoAdd | namoMax | namoSwap | namoCas => exact pattern_wf hs fun _ _ ht => namoBody_wf ht ..
    | rcall | rcallAe => exact pattern_wf hs fun _ _ ht => callBody_wf ht ..
    | rwait | rwaitAe => exact pattern_wf hs fun _ _ ht => waitCall_wf ht _
    | xcopy | xcopy2d | xmcast | xrot | xfill => exact pattern_wf hs fun _ _ ht => copyBody_wf ht ..
    | binit | binitClr => exact pattern_wf hs fun _ _ ht => binitBody_wf ht ..
    | bwait => exact pattern_wf hs fun _ _ ht => bwaitBody_wf ht ..
    | barr => exact pattern_wf hs fun _ _ ht => barrBody_wf ht
    | xstatWait => exact pattern_wf hs fun _ _ ht => xstatBody_wf ht ..
    | extendedVectorForm => exact execExtendedVectorForm_wf hs ..
    -- outposts (R358)
    | old => exact inPage_wf hs fun _ _ => loadNow_wf hs ..
    | ost => exact execOst_wf hs ..
    | ovst => exact execOvst_wf hs ..
    | oamoAdd | oamoMax | oamoSwap | oamoCas => exact oamo_wf hs ..
    | ovadd => exact execOvadd_wf hs ..
    | ovmul => exact execOvmul_wf hs ..
    | ovfma => exact execOvfma_wf hs ..
    | ovmax => exact execOvmax_wf hs ..
    | ovld => exact execOvld_wf hs ..
    | oreply => exact inFrame_wf hs fun _ _ _ => by simp [hs]
    -- matrix commands (R200)
    | mnop | mma | mmaz | abank | bload | bslot | accz | drain | semsig | prj | prjadj =>
      exact .next (meRun_wf hs _ fun _ _ => by simp [hs])
    -- events of translation, requests, near memory, copies and calls
    | translationLookup | pageWalkEnd => exact .next (xlateStep_wf hs _ _ _ _ fun _ _ => by simp [hs])
    | invalidationComplete => exact execInvalidationComplete_wf hs _
    | tileRequest => exact execTileRequest_wf hs ..
    | stepWaitResume | waitExpired | qldAppend | gatherPerform | stepRelease | temperUpdate =>
      exact .next (reqStep_wf hs _ _ _ fun _ _ => by simp [hs])
    | nredPerform | naddPerform | namoPerform | bankSequencerRun =>
      exact .next (nearReady_wf hs _ _ _ fun _ _ => by simp [hs])
    | nearMemoryReply => exact .next (nearStep_wf hs _ _ _ fun _ _ => by simp [hs])
    | copyLanding => exact execCopyLanding_wf hs ..
    | xrotRotationStart => exact execXrotRotationStart_wf hs _
    | promiseMiss => exact execPromiseMiss_wf hs _
    | callReply => exact execCallReply_wf hs ..
    | callLost => exact execCallLost_wf hs ..
    | remoteCallStart | callRunTimeout => exact .next (by simp [hs])
    -- events of the fabric
    | remoteReply => exact .next (remReply_wf hs ..)
    | remoteFaultReply => exact .next (remFaulted_wf hs ..)
    | faultTicket => exact .next (remStep_wf hs _ _ _ _ fun _ _ => by simp [hs])
    | peerUnreach => exact execPeerUnreach_wf hs ..
    | remoteAccessArrival | replayNotice | ticketExpired | exportWalkEnd | ticketCancelNotice | hostLossNotice
      | bookingLapse => exact .next (by simp [hs])
    | slotSendStart => exact execSlotSendStart_wf hs ..
    | slotArrival => exact execSlotArrival_wf hs ..
    -- events of the jobs, the queues and the graphs
    | tokenDeadlock | impreciseReportTimeout | regionLong | doorbellWrite | submissionFetch | graphStart | graphNodeWalk
      | graphNodeCopy | copyNodeComplete | graphNodeCondition | graphNodeSwitch | graphNodeEvent | graphNodeLoop
      | placementDecision | energyBudgetUpdate | preemptionRequest | gangDiscard | preemptionWithdrawn | bankReadyTimeout
      | pageFaultRecordReoffer => exact .next (by simp [hs])
    | poolAllocation => exact execPoolAllocation_wf hs
    -- events of the module, its registers and its management port
    | headroomReading | hostLinkReturn | timeBaseLock => exact .next hs
    | functionLevelReset | functionLevelResetDone | moduleReset | moduleResetDone | hostLinkLoss | hostLossDiscardTimeout
      | thermalTrip | thermalTripEnd | operatingPointChange | healthWordUpdate | coreMemoryError | refreshErrorFound
      | powerDownEntry | selfRefreshEntry => exact .next (by simp [hs])
    | powerLoss => exact .next (losePower_wf s)
    | sqctlWrite | fqctlWrite | fqresume | kitregRegister | kitregUnregister | invctlGo | exresume =>
      exact .next (pagesOpen_wf hs (by simp [hs]))
    | fqctlRead | devctlMrst | devctlHoldclr | opctlWrite | ebmaxWrite | logrdSelect | logrdDrain
      | instructionMemoryWrite => exact .next (planesUp_wf hs (by simp [hs]))
    | registerWrite => exact .next (writeReg_wf hs ..)
    | kitRegistrationDone | sensorRead | firmwareUpdate | attestation | getHealth | readLog | resetModule | releaseHold
      | readEnergy => exact .next (by simp [hs])
    -- the vector instructions, which have a plan
    | _ => cases hp

/-! ### The step -/

theorem runAgent_wf (a : Agent) : AnswerWf (runAgent a s) := by
  unfold runAgent
  split
  · have ht := agentTurn_wf hs a
    cases h : s.agentTurn a with
    | exec i t => exact exec_wf (by simpa [h] using ht) i
    | other t => exact .next (by simpa [h] using ht)
  · exact .fault _

theorem runTurn_wf (t : Turn) : AnswerWf (runTurn t s) := by
  cases t with
  | run a => exact runAgent_wf hs a
  | event i =>
    dsimp only [runTurn]
    split
    · exact exec_wf hs i
    · exact .refused _
  | settle => exact .next (settle_wf hs)
  | hostWrite => exact .next (hostWriteTurn_wf hs ..)
  | memError => exact .next (memErrorTurn_wf hs _)
  | read => exact .next (readTurn_wf hs ..)
  | peek => exact .next (peekTurn_wf hs ..)
  | gateway => exact .next (gatewayTurn_wf hs _)
  | arrive => exact .next (arriveTurn_wf hs ..)
  | hostRead => exact .next (hostRead_wf hs ..)
  | hostLoad => exact .next (hostLoadTurn_wf hs _)
  | _ => exact .next (by simpa using hs)

theorem step_wf : AnswerWf (step s) := by
  unfold step
  split
  · exact runAgent_wf hs s.cur
  next t ts _ => exact runTurn_wf (s := { s with turns := ts }) hs t

end

/-- Settles O7: of the functions that a step reaches, only `publish`, the clearing of a core or of the module, and a loss of
power change memory, and each of them leaves it canonical; `step_wf` follows every path to them. -/
theorem stepKeepsCanonical : Obligations.StepKeepsCanonical := by
  intro s t hs ht
  exact (step_wf hs).wf t ht

end Sys2Proof.Machine

namespace Sys2Proof.Machine

/-! ## Resets, and what befalls the module (O59)

A function-level reset discards the jobs of its contexts bank by bank, so its statement rests on what a discard leaves alone:
the clock and the tables of the control plane, gathered in `ControlPlane`.  On these a reset of one function is a plain
filter, `ControlPlane.reset`, which clears its own context (`reset_cleared`) and lets no later one undo that
(`Cleared.reset`).  A module reset rests on what `stepWrites` leaves alone.  The other events are updates of the management
plane, and the lemmas below say what each of them makes of the fields that the statement names. -/

/-- An event leaves the state that its meaning comes to. -/
theorem leaves_of_eq {i : Instr} {s t u : State} (h : exec i s = .next t) (e : t = u) : Leaves i s u := h.trans (congrArg _ e)

/-! ### Tables -/

theorem tget_map {α β : Type} (f : α → β) (d : α) (t : Tab α) (n : Nat) :
    tget (f d) (t.map fun e => (e.1, f e.2)) n = f (tget d t n) := by
  induction t with
  | nil => rfl
  | cons e t ih =>
    rw [List.map_cons, tget, tget, ih]
    split <;> rfl

/-- A table of which a condition on the keys keeps some entries. -/
theorem tget_filter_keys {α : Type} (f : Nat → Bool) (d : α) (t : Tab α) (n : Nat) :
    tget d (t.filter fun e => f e.1) n = if f n then tget d t n else d := by
  induction t with
  | nil => simp [tget]
  | cons e t ih =>
    obtain ⟨k, v⟩ := e
    by_cases hk : k = n
    · subst hk
      cases h : f k <;> simp [h, tget, ih]
    · cases h : f k <;> simp [h, tget, hk, ih]

theorem mem_tset_self {α : Type} (t : Tab α) (n : Nat) (v : α) : (n, v) ∈ tset t n v := by
  rw [tset]
  induction tdel t n with
  | nil => exact List.mem_cons_self
  | cons e t ih =>
    rw [tins]
    split
    · exact List.mem_cons_self
    · exact List.mem_cons_of_mem _ ih

/-- Contexts set to a value one after the other. -/
theorem tget_foldl_tset {v : Ctx} {cs : List CtxId} {x : CtxId} (hx : x ∈ cs) (t : Tab Ctx) :
    tget {} (cs.foldl (fun t y => tset t y.val v) t) x.val = v := by
  suffices h : x ∈ cs ∨ tget {} t x.val = v → tget {} (cs.foldl (fun t y => tset t y.val v) t) x.val = v from h (.inl hx)
  clear hx
  induction cs generalizing t with
  | nil => simp
  | cons y cs ih =>
    intro h
    refine ih _ ?_
    by_cases hy : x = y
    · exact .inr (by rw [hy, tget_tset_same])
    · rw [tget_tset_ne _ _ _ fun e => hy (Fin.ext e)]
      exact h.imp_left fun h => (List.mem_cons.1 h).resolve_left hy

/-! ### What a discard leaves of the control plane -/

/-- The clock and the tables of the control plane that a function-level reset clears. -/
structure ControlPlane where
  cyc : Nat
  ctxs : Tab Ctx
  gangs : List Gang
  cands : List Cand
  graphs : List Graph
  slots : List CkSlot
  tickets : List OwnTicket

namespace State

/-- The control plane of a state. -/
def controlPlane (s : State) : ControlPlane := ⟨s.cyc, s.ctxs, s.gangs, s.cands, s.graphs, s.slots, s.tickets⟩

section
variable (s : State)

theorem controlPlane_foldl {α} (l : List α) (f : State → α → State) (hf : ∀ t x, (f t x).controlPlane = t.controlPlane) :
    (l.foldl f s).controlPlane = s.controlPlane :=
  List.foldlRecOn (motive := fun t => t.controlPlane = s.controlPlane) l f rfl fun t ht x _ => (hf t x).trans ht

/-- Whatever a change of the path buffers and a write step leave, the steps of several writes leave. -/
theorem stepWrites_kept {α} (g : State → α) (hb : ∀ b, g { s with buf := b } = g s) (hp : ∀ t w, g (t.pushLog w) = g t) (f) :
    g (s.stepWrites f) = g s := by
  unfold stepWrites
  induction s.buf.filter f with
  | nil => exact hb _
  | cons w ws ih => exact (hp _ _).trans ih

@[simp] theorem modCore_controlPlane (n f) : (s.modCore n f).controlPlane = s.controlPlane := rfl
@[simp] theorem appendWrite_controlPlane (p q cs v k hs no) :
    (s.appendWrite p q cs v k hs no).controlPlane = s.controlPlane := rfl
@[simp] theorem rmw_controlPlane (p q a n f k no) : (s.rmw p q a n f k no).2.controlPlane = s.controlPlane := rfl
@[simp] theorem modBar_controlPlane (p c a f k) : (s.modBar p c a f k).controlPlane = s.controlPlane := rfl

@[simp] theorem stepWrites_controlPlane (f) : (s.stepWrites f).controlPlane = s.controlPlane :=
  s.stepWrites_kept controlPlane (fun _ => rfl) (fun _ _ => rfl) f

@[simp] theorem stepOver_controlPlane (p q no rs) : (s.stepOver p q no rs).controlPlane = s.controlPlane :=
  stepWrites_controlPlane ..

@[simp] theorem performUnits_controlPlane (p q a bs k no) :
    (s.performUnits p q a bs k no).controlPlane = s.controlPlane :=
  controlPlane_foldl _ _ _ fun _ _ => rfl

@[simp] theorem toPeer_controlPlane (peer o) : (s.toPeer peer o).controlPlane = s.controlPlane := by
  fun_cases toPeer s peer o <;> rfl

/-! #### What copies have read lands -/

@[simp] theorem landScratch_controlPlane (p c a bar data k) :
    (s.landScratch p c a bar data k).controlPlane = s.controlPlane := by
  unfold landScratch
  cases bar <;> simp

@[simp] theorem landAt_controlPlane (c bankB x u data) : (s.landAt c bankB x u data).controlPlane = s.controlPlane := by
  unfold landAt
  dsimp only
  split
  · rw [controlPlane_foldl _ _ _ fun _ _ => by simp, stepOver_controlPlane]
  · split <;> simp

@[simp] theorem landRead_controlPlane (c bankB n) : (s.landRead c bankB n).controlPlane = s.controlPlane := by
  unfold landRead
  extract_lets b x p count far
  have hcount (t : State) : (count t).controlPlane = t.controlPlane := by
    dsimp only [count]
    split <;> simp
  split
  · rfl
  split
  · rw [apply_ite controlPlane, hcount, ite_self]
  split
  · rfl
  split
  · dsimp only [fresh]
    split
    · rw [hcount, toPeer_controlPlane]; rfl
    · rfl
  · refine controlPlane_foldl _ _ _ fun t u => ?_
    dsimp only
    split <;> simp [hcount]

/-! #### Near-memory operations that have left the core are performed -/

@[simp] theorem addElems_controlPlane (p no int a xs k) : (s.addElems p no int a xs k).1.controlPlane = s.controlPlane := by
  induction xs generalizing s a k with
  | nil => rfl
  | cons x xs ih =>
    rw [addElems]
    split
    · exact ih ..
    · exact (ih ..).trans (rmw_controlPlane ..)

theorem seqBody_controlPlane {p no q base x t} (ht : s.seqBody p no q base x = .ok t) : t.controlPlane = s.controlPlane := by
  unfold seqBody at ht
  dsimp only at ht
  iterate 3
    split at ht
    · cases ht
  obtain rfl := Except.ok.inj ht
  exact performUnits_controlPlane ..

@[simp] theorem seqRun_controlPlane (p no q base ks x r) :
    (seqRun p no q base ks x r).1.controlPlane = r.1.controlPlane := by
  induction ks generalizing x r with
  | nil =>
    obtain ⟨s, _ | a⟩ := r
    · rw [seqRun]
      split
      next ht => exact seqBody_controlPlane s ht
      · rfl
    · rfl
  | cons k ks ih =>
    rw [seqRun]
    refine List.foldlRecOn (motive := fun u : State × Option Nat => u.1.controlPlane = r.1.controlPlane) _ _ rfl
      fun u hu j _ => ?_
    split
    · rw [ih, hu]
    · exact hu

@[simp] theorem performNear_controlPlane (c bankB o) : (s.performNear c bankB o).controlPlane = s.controlPlane := by
  fun_cases performNear s c bankB o <;> simp [nredPerform]

@[simp] theorem performNears_controlPlane (c bankB) : (s.performNears c bankB).controlPlane = s.controlPlane :=
  controlPlane_foldl _ _ _ fun _ _ => controlPlane_foldl _ _ _ fun _ _ => performNear_controlPlane ..

/-! #### The bank is emptied -/

@[simp] theorem leaveUnits_controlPlane (c bankB) : (s.leaveUnits c bankB).controlPlane = s.controlPlane := rfl

@[simp] theorem cancelTickets_controlPlane (c bankB) : (s.cancelTickets c bankB).controlPlane = s.controlPlane := by
  unfold cancelTickets
  dsimp only
  rw [modCore_controlPlane, controlPlane_foldl]
  intro t x
  split
  · exact toPeer_controlPlane ..
  · rfl

@[simp] theorem resumeReady_controlPlane (c) : (s.resumeReady c).controlPlane = s.controlPlane := by
  fun_cases resumeReady s c <;> rfl

@[simp] theorem emptyBank_controlPlane (c bankB) : (s.emptyBank c bankB).controlPlane = s.controlPlane := by
  simp [emptyBank, flushBank]

/-- The discard of a job leaves the control plane, which is its caller's to change. -/
theorem discardBank_controlPlane (c bankB) : (s.discardBank c bankB).controlPlane = s.controlPlane := by
  unfold discardBank
  extract_lets landed performed cancelled answered
  have hlanded : landed.controlPlane = s.controlPlane :=
    (controlPlane_foldl _ _ _ fun _ _ => landRead_controlPlane ..).trans (stepWrites_controlPlane ..)
  have hcancelled : cancelled.controlPlane = s.controlPlane := by
    simp only [cancelled, performed, cancelTickets_controlPlane, leaveUnits_controlPlane, performNears_controlPlane, hlanded]
  rw [emptyBank_controlPlane, modCore_controlPlane, ← hcancelled]
  rfl

end

end State

/-! ### Function-level reset (R425, R426) -/

/-- A control plane after the reset of one function. -/
def ControlPlane.reset (p : ControlPlane) (c : CtxId) : ControlPlane where
  cyc := p.cyc
  ctxs := tset p.ctxs c.val { reset := some p.cyc }
  gangs := p.gangs.filter fun g => g.ctx ≠ c
  cands := p.cands.filter fun x => x.ctx ≠ c
  graphs := p.graphs.filter fun g => g.ctx ≠ c
  slots := p.slots.filter fun x => x.ctx ≠ c
  tickets := p.tickets.filter fun t => t.ctx ≠ c

/-- Nothing of a context is left but that its reset has begun. -/
structure ControlPlane.Cleared (p : ControlPlane) (c : CtxId) : Prop where
  ctx : tget {} p.ctxs c.val = { reset := some p.cyc }
  gangs : ∀ g ∈ p.gangs, g.ctx ≠ c
  cands : ∀ x ∈ p.cands, x.ctx ≠ c
  graphs : ∀ g ∈ p.graphs, g.ctx ≠ c
  slots : ∀ x ∈ p.slots, x.ctx ≠ c
  tickets : ∀ t ∈ p.tickets, t.ctx ≠ c

namespace ControlPlane

theorem reset_cleared (p : ControlPlane) (c : CtxId) : (p.reset c).Cleared c := by
  constructor <;> simp [reset]

/-- The reset of another function does not bring anything back. -/
theorem Cleared.reset {p : ControlPlane} {c : CtxId} (h : p.Cleared c) (d : CtxId) : (p.reset d).Cleared c := by
  by_cases hd : c = d
  · exact hd ▸ reset_cleared p c
  have left {α : Type} {f : α → CtxId} {l : List α} (hl : ∀ x ∈ l, f x ≠ c) : ∀ x ∈ l.filter (f · ≠ d), f x ≠ c :=
    fun x hx => hl x (List.mem_filter.1 hx).1
  exact {
    ctx := (tget_tset_ne _ _ _ fun e => hd (Fin.ext e)).trans h.ctx
    gangs := left h.gangs
    cands := left h.cands
    graphs := left h.graphs
    slots := left h.slots
    tickets := left h.tickets }

theorem foldl_reset_cyc (cs : List CtxId) (p : ControlPlane) : (cs.foldl reset p).cyc = p.cyc :=
  List.foldlRecOn (motive := fun q : ControlPlane => q.cyc = p.cyc) cs reset rfl fun _ hq _ _ => hq

/-- After the resets of several functions each of them is cleared. -/
theorem foldl_reset_cleared {cs : List CtxId} {c : CtxId} (hc : c ∈ cs) (p : ControlPlane) :
    (cs.foldl reset p).Cleared c := by
  obtain ⟨before, after, rfl⟩ := List.append_of_mem hc
  rw [List.foldl_append, List.foldl_cons]
  exact List.foldlRecOn (motive := fun q : ControlPlane => q.Cleared c) after reset (reset_cleared _ c) fun _ hq d _ => hq.reset d

end ControlPlane

namespace State

theorem mem_resetSet {c x : CtxId} : x ∈ resetSet c ↔ x = c ∨ c = 0 := by
  unfold resetSet allCtx
  split
  next h => simp [h]
  next h => simp [h]

theorem resetFn_controlPlane (s : State) (c : CtxId) : (s.resetFn c).controlPlane = s.controlPlane.reset c := by
  unfold resetFn
  extract_lets discarded invalidated answered
  have h : answered.controlPlane = s.controlPlane :=
    (controlPlane_foldl _ _ _ fun _ _ => toPeer_controlPlane ..).trans
      (controlPlane_foldl _ _ _ fun _ _ => discardBank_controlPlane ..)
  rw [← h]
  rfl

theorem foldl_resetFn_controlPlane (s : State) (cs : List CtxId) :
    (cs.foldl resetFn s).controlPlane = cs.foldl ControlPlane.reset s.controlPlane := by
  induction cs generalizing s with
  | nil => rfl
  | cons c cs ih => rw [List.foldl_cons, List.foldl_cons, ih, resetFn_controlPlane]

/-- Several functions reset: each context is cleared, with the tick of the request. -/
theorem foldl_resetFn_cleared (s : State) {cs : List CtxId} {c : CtxId} (hc : c ∈ cs) :
    (cs.foldl resetFn s).controlPlane.Cleared c :=
  foldl_resetFn_controlPlane s cs ▸ ControlPlane.foldl_reset_cleared hc _

theorem foldl_resetFn_ctx (s : State) {cs : List CtxId} {c : CtxId} (hc : c ∈ cs) :
    (cs.foldl resetFn s).ctx c = { reset := some s.cyc } := by
  have hcyc : (cs.foldl resetFn s).cyc = s.cyc :=
    (congrArg ControlPlane.cyc (foldl_resetFn_controlPlane s cs)).trans (ControlPlane.foldl_reset_cyc ..)
  exact hcyc ▸ (foldl_resetFn_cleared s hc).ctx

/-! ### What holds after an update of the management plane -/

section
variable (s : State)

/-- A command that was held is carried out in the management plane alone. -/
theorem releaseOp_eq : s.releaseOp = { s with mgmt := s.releaseOp.mgmt } := by
  fun_cases releaseOp s <;> rfl

@[simp] theorem releaseOp_ready : s.releaseOp.mgmt.ready = s.mgmt.ready := by fun_cases releaseOp s <;> rfl
@[simp] theorem releaseOp_resetAt : s.releaseOp.mgmt.resetAt = s.mgmt.resetAt := by fun_cases releaseOp s <;> rfl
@[simp] theorem releaseOp_ctxs : s.releaseOp.ctxs = s.ctxs := by rw [releaseOp_eq]

theorem sameReads_releaseOp {s u : State} (h : s.SameReads u) : s.SameReads u.releaseOp := by
  rw [releaseOp_eq]
  exact h

theorem foldl_setCtx_eq (cs : List CtxId) (x : Ctx) :
    cs.foldl (fun t c => t.setCtx c x) s = { s with ctxs := cs.foldl (fun t c => tset t c.val x) s.ctxs } := by
  induction cs generalizing s with
  | nil => rfl
  | cons c cs ih => exact ih _

/-- An interrupt is raised in a context, or its drop is logged: of the rest of the state nothing changes. -/
theorem raise_eq (c v) : s.raise c v =
    { s with ctxs := (s.raise c v).ctxs, mgmt := { s.mgmt with logs := (s.raise c v).mgmt.logs } } := by
  fun_cases raise s c v <;> rfl

@[simp] theorem raise_trips (c v) : (s.raise c v).mgmt.trips = s.mgmt.trips := by rw [raise_eq]
@[simp] theorem raise_health (c v) : (s.raise c v).mgmt.health = s.mgmt.health := by rw [raise_eq]
@[simp] theorem raise_core (c v n) : (s.raise c v).core n = s.core n := by rw [raise_eq]; rfl

theorem sameReads_raise {s u : State} (h : s.SameReads u) (c v) : s.SameReads (u.raise c v) := by
  rw [raise_eq]
  exact h

end

end State

/-! ### The end of a function-level reset (R425) -/

namespace State

/-- Where a reset that has begun has nothing left to wait for, its contexts are as at the module's reset. -/
theorem endFnReset_quiet (s : State) (c : CtxId) (hr : (s.ctx c).reset ≠ none) (h0 : c = 0 ∨ (s.ctx 0).reset = none)
    (hq : ∀ x, x = c ∨ c = 0 → s.fnQuiet x = true) :
    s.endFnReset c = releaseOp { s with ctxs := (resetSet c).foldl (fun t y => tset t y.val {}) s.ctxs } := by
  have hquiet : (resetSet c).all s.fnQuiet = true := List.all_eq_true.2 fun x hx => hq x (mem_resetSet.1 hx)
  have hfirst : (c = 0 || (s.ctx 0).reset.isNone) = true := by simpa using h0
  unfold endFnReset
  rw [if_pos (by simp [hquiet, hfirst, Option.isSome_iff_ne_none.2 hr]), foldl_setCtx_eq]

theorem endFnReset_busy (s : State) (c : CtxId) (h : s.fnQuiet c = false ∨ (s.ctx c).reset = none) : s.endFnReset c = s := by
  refine if_neg fun hg => ?_
  simp only [Bool.and_eq_true, List.all_eq_true] at hg
  obtain ⟨⟨hbegun, -⟩, hquiet⟩ := hg
  rcases h with h | h
  · simp [hquiet c (mem_resetSet.2 (.inl rfl))] at h
  · simp [h] at hbegun

end State

/-! ### Module reset and loss of power (R458, R464, R465) -/

/-- The image is admitted where it verifies, no write of it was cut short, and its version is not below the least. -/
theorem Firmware.admitImage_admits (f : Firmware) :
    f.admitImage.2 = true ↔ f.good = true ∧ f.writing = false ∧ f.minSvn.toNat ≤ f.svn.toNat := by
  show ((f.good && !f.writing) && f.minSvn.ule f.svn) = true ↔ _
  simp [BitVec.ule, and_assoc]

theorem Firmware.admitImage_reports (f : Firmware) (h : f.admitImage.2 = true) :
    f.admitImage.1.admDigest = f.digest ∧ f.admitImage.1.admSvn = f.svn :=
  ⟨if_pos h, if_pos h⟩

namespace State

section
variable (s : State)

@[simp] theorem moduleClear_cyc : s.moduleClear.cyc = s.cyc :=
  congrArg ControlPlane.cyc (stepWrites_controlPlane s fun _ => true)
@[simp] theorem moduleClear_logs : s.moduleClear.mgmt.logs = s.mgmt.logs :=
  s.stepWrites_kept (·.mgmt.logs) (fun _ => rfl) (fun _ _ => rfl) _
@[simp] theorem moduleClear_opHeld : s.moduleClear.mgmt.opHeld = s.mgmt.opHeld :=
  s.stepWrites_kept (·.mgmt.opHeld) (fun _ => rfl) (fun _ _ => rfl) _

/-- Of a core only its accumulators are left. -/
theorem moduleClear_core (c : Nat) : s.moduleClear.core c = { acc := (s.core c).acc } := by
  have hcores : (s.stepWrites fun _ => true).cores = s.cores :=
    s.stepWrites_kept State.cores (fun _ => rfl) (fun _ _ => rfl) _
  have h := tget_map (fun k : Core => { acc := k.acc : Core }) {} s.cores c
  rw [← hcores] at h
  rw [core, core, ← hcores]
  exact h

theorem resetNow_core (c : Nat) : s.resetNow.core c = { acc := (s.core c).acc } := s.moduleClear_core c

/-- Core scratch is as the writes leave it, and every other byte is 0. -/
theorem moduleClear_read (a : Nat) : s.moduleClear.mem.read a =
    if inWindow a then (s.stepWrites fun _ => true).publish.mem.read a else 0 :=
  tget_filter_keys inWindow _ _ a

theorem resetDone_begun (ha : s.mgmt.resetAt ≠ none) (hr : s.mgmt.ready = false) (hf : s.mgmt.recovery = false) :
    s.resetDone = releaseOp { s with mgmt := { s.mgmt with
      ready := true, resetAt := none, ebTick := s.cyc / 1000 * 1000, ebLast := s.enMark } } :=
  if_pos (by simp [Option.isSome_iff_ne_none.2 ha, hr, hf])

theorem resetDone_recovery (hf : s.mgmt.recovery = true) : s.resetDone = s := if_neg (by simp [hf])

end

end State

/-- The three ways to a module reset (R458, R464). -/
theorem leaves_resetNow {s : State} {i : Instr} (hi : i ∈ [Instr.moduleReset, .resetModule, .devctlMrst])
    (hd : i = .devctlMrst → s.mgmt.recovery = false) : Leaves i s s.resetNow := by
  simp only [List.mem_cons, List.not_mem_nil, or_false] at hi
  rcases hi with rfl | rfl | rfl
  · rfl
  · rfl
  · exact leaves_of_eq rfl (if_neg (by simp [hd rfl]))

/-- What each reset and a loss of power clear, and what they leave (entry 66). -/
theorem resetsClear : Claims.ResetsClear := by
  intro s
  refine ⟨fun c hr => ?_, fun c hr => ?_, fun c hr h0 hq => ?_, fun c h => ?_, fun i hi hd => ?_, fun ha hr hf => ?_,
    fun hf => ?_, ?_⟩
  · -- a function-level reset
    obtain ⟨-, gangs, cands, graphs, slots, tickets⟩ := s.foldl_resetFn_cleared (State.mem_resetSet.2 (.inl rfl) : c ∈ _)
    exact ⟨_, leaves_of_eq rfl (if_neg (by simp [hr])), fun x hx => s.foldl_resetFn_ctx (State.mem_resetSet.2 hx),
      gangs, cands, graphs, slots, tickets⟩
  · exact leaves_of_eq rfl (if_pos (by simp [hr]))
  · -- its end
    refine ⟨_, leaves_of_eq rfl (s.endFnReset_quiet c hr h0 hq), fun x hx => ?_, State.sameReads_releaseOp fun _ _ _ => rfl⟩
    rw [State.ctx, State.releaseOp_ctxs]
    exact tget_foldl_tset (State.mem_resetSet.2 hx) _
  · exact leaves_of_eq rfl (s.endFnReset_busy c h)
  · -- a module reset
    refine ⟨s.resetNow, leaves_resetNow hi hd, rfl, rfl, rfl, rfl, rfl, rfl, rfl, rfl, rfl, rfl, s.moduleClear_logs,
      s.moduleClear_cyc, fun c bk => ?_, fun c => by rw [s.resetNow_core],
      fun a ha => (s.moduleClear_read a).trans (if_neg (by simp [ha])),
      fun a ha => (s.moduleClear_read a).trans (if_pos ha), s.moduleClear_opHeld, ?_, fun h => ?_⟩
    · rw [s.resetNow_core]
      cases bk <;> rfl
    · rw [← Firmware.admitImage_admits]
      show (!s.mgmt.fw.admitImage.2) = true ↔ _
      simp
    · exact s.mgmt.fw.admitImage_reports (s.mgmt.fw.admitImage_admits.2 h)
  · -- its end
    exact ⟨_, leaves_of_eq rfl (s.resetDone_begun ha hr hf), State.releaseOp_ready _, State.releaseOp_resetAt _,
      State.releaseOp_ctxs _, State.sameReads_releaseOp fun _ _ _ => rfl⟩
  · exact leaves_of_eq rfl (s.resetDone_recovery hf)
  · -- a loss of power
    exact ⟨s.losePower, rfl, rfl, rfl, rfl, s.moduleClear_logs, rfl, rfl⟩

/-! ### The host link (R428) -/

namespace State

section
variable (s : State)

theorem loseLink_ready (hl : s.mgmt.linkUp = true) (hr : s.mgmt.ready = true) : s.loseLink =
    { s with
      mgmt := { s.mgmt with linkUp := false, hold := true, lossAt := s.cyc }
      gangs := s.gangs.map fun g =>
        if g.failing then g else { g with preempt := some (g.preempt.getD s.cyc), noWithdraw := true }
      outs := s.outs ++ [.hostLoss] } := by
  simp [loseLink, hl, hr, emit]

theorem loseLink_down (hl : s.mgmt.linkUp = false) : s.loseLink = s := if_pos (by simp [hl])

/-- A gang whose time is over is discarded where none of its banks is in a sealed region. -/
theorem lossDiscard_unsealed {gid : Nat} {g : Gang} (hg : s.gang gid = some g) (hh : s.mgmt.hold = true)
    (ht : s.mgmt.lossAt + 10000000 ≤ s.cyc) (hx : ∀ x ∈ s.gangBanks g, ((s.core x.1).get x.2).sealedAny = false) :
    s.lossDiscard gid = s.discardGang g := by
  have hnone : (s.gangBanks g).find? (fun x => ((s.core x.1).get x.2).sealedAny) = none :=
    List.find?_eq_none.2 fun x h => by simp [hx x h]
  simp only [lossDiscard, hg, hnone]
  exact if_pos (by simp [hh, Config.tenMs, ht])

/-- It fails with the job of its first bank that is in one, and its other jobs with it (entry 90). -/
theorem lossDiscard_sealed {gid : Nat} {g : Gang} (hg : s.gang gid = some g) (hh : s.mgmt.hold = true)
    (ht : s.mgmt.lossAt + 10000000 ≤ s.cyc) {x : Nat × Bool}
    (hx : (s.gangBanks g).find? (fun x => ((s.core x.1).get x.2).sealedAny) = some x) :
    s.lossDiscard gid = (s.jobFail x.1 x.2 { code := 0x64, cls := 4, src := srcField x.1 7 }).failOver gid := by
  simp only [lossDiscard, hg, hx]
  exact if_pos (by simp [hh, Config.tenMs, ht])

theorem lossDiscard_early {gid : Nat} {g : Gang} (hg : s.gang gid = some g)
    (h : s.mgmt.hold = false ∨ s.cyc < s.mgmt.lossAt + 10000000) : s.lossDiscard gid = s := by
  simp only [lossDiscard, hg]
  refine if_neg fun hd => ?_
  simp only [Bool.and_eq_true, decide_eq_true_eq] at hd
  obtain ⟨hhold, hdue⟩ := hd
  rcases h with h | h
  · simp [h] at hhold
  · exact Nat.not_lt.2 hdue h

/-! ### Thermal trips (R460) -/

theorem dieHot_iff (d : Nat) : s.dieHot d = true ↔ ∃ n ∈ dieSensors d, 105 ≤ tget 0 s.mgmt.temps n := by
  simp only [dieHot, List.any_eq_true, decide_eq_true_eq]
  rfl

theorem dieCool_iff (d : Nat) : s.dieCool d = true ↔
    (∀ n ∈ dieSensors d, tget 0 s.mgmt.temps n < 95) ∧ tget 0 s.mgmt.hotAt d + 1000000 ≤ s.cyc := by
  simp only [dieCool, Bool.and_eq_true, List.all_eq_true, decide_eq_true_eq]
  rfl

@[simp] theorem setTrip_trips (die : BitVec 2) (on : Bool) : (s.setTrip die on).mgmt.trips =
    if on then s.mgmt.trips ||| (1#4 <<< die.toNat) else s.mgmt.trips &&& ~~~(1#4 <<< die.toNat) := by
  unfold setTrip
  extract_lets bit t
  split
  next h => exact h.symm
  next h => exact raise_trips ..

theorem sameReads_setTrip (die : BitVec 2) (on : Bool) : s.SameReads (s.setTrip die on) := by
  unfold setTrip
  extract_lets bit t
  split
  · exact fun _ _ _ => rfl
  · exact sameReads_raise (fun _ _ _ => rfl) 0 17

theorem sensorDie_of_mem {die : BitVec 2} {n : Nat} (h : n ∈ dieSensors die.toNat) : sensorDie n = some die.toNat := by
  have hdie := die.isLt
  simp only [dieSensors, List.mem_append, List.mem_map, List.mem_range, List.mem_singleton] at h
  unfold sensorDie
  obtain ⟨i, hi, rfl⟩ | rfl := h
  · rw [if_pos (by omega), show (24 * die.toNat + i) / 24 = die.toNat by omega]
  · rw [if_neg (by omega), if_pos (by omega), Nat.add_sub_cancel_left]

@[simp] theorem sensorTurn_temps (n v : Nat) : (s.sensorTurn n v).mgmt.temps = tset s.mgmt.temps n v := by
  unfold sensorTurn
  cases sensorDie n with
  | none => rfl
  | some d => dsimp only; split <;> rfl

/-- A sensor of a die that shows 95 °C or more begins the time anew after which the die is cool. -/
theorem sensorTurn_hotAt {n v d : Nat} (hd : sensorDie n = some d) (hv : 95 ≤ v) :
    (s.sensorTurn n v).mgmt.hotAt = tset s.mgmt.hotAt d s.cyc := by
  have hhot : 95 ≤ max v (s.temp n) := Nat.le_trans hv (Nat.le_max_left ..)
  simp [sensorTurn, hd, hhot]

/-! ### The health word (R20, R429) -/

@[simp] theorem newHealth_health (f : Health → Health) : (s.newHealth f).mgmt.health =
    { f s.mgmt.health with
      ver := (f s.mgmt.health).ver + 1, hold := s.mgmt.hold, tbl := s.mgmt.tbl, trip := s.mgmt.trips, op := s.mgmt.opCur } :=
  raise_health ..

@[simp] theorem newHealth_core (f : Health → Health) (c : Nat) : (s.newHealth f).core c = s.core c := raise_core ..

theorem sameReads_newHealth (f : Health → Health) : s.SameReads (s.newHealth f) := sameReads_raise (fun _ _ _ => rfl) 0 17

end

theorem fenceJob_idle {s : State} {c : Nat} {bankB : Bool} (h : ((s.core c).get bankB).busy = false) :
    s.fenceJob c bankB = s := if_pos (by simp [h])

/-- An idle core is fenced, and nothing else comes of it. -/
theorem coreError_idle {s : State} {c : Nat} (ha : (s.core c).a.busy = false) (hb : (s.core c).b.busy = false) :
    s.coreError c = s.newHealth fun x => x.fence c := by
  have hfirst : (s.newHealth fun x => x.fence c).fenceJob c false = s.newHealth fun x => x.fence c :=
    fenceJob_idle (by simpa [Core.get] using ha)
  rw [coreError, hfirst]
  exact fenceJob_idle (by simpa [Core.get] using hb)

end State

theorem Health.fence_fenced (h : Health) (c k : Nat) :
    tget false (h.fence c).fenced k = (tget false h.fenced k || decide (c = k)) := by
  by_cases hk : k = c
  · subst hk
    simp [fence]
  · simp [fence, tget_tset_ne _ _ _ hk, Ne.symm hk]

/-! ### Errors found by refresh (R282, R283) -/

namespace State

section
variable (s : State)

@[simp] theorem depositSev_health (log kind sev addr) : (s.depositSev log kind sev addr).mgmt.health = s.mgmt.health := rfl

theorem depositSev_entries (log kind : Nat) (sev : Byte) (addr : Word)
    (h : (tget {} s.mgmt.logs log).entries.length < 256) :
    (tget {} (s.depositSev log kind sev addr).mgmt.logs log).entries =
      (tget {} s.mgmt.logs log).entries ++
        [{ cyc := s.cycWord, unit := Config.logUnit kind, severity := sev, cause := Config.logCause kind, addr := addr
           detail := Config.logDetail kind }] := by
  unfold depositSev deposit
  simp only [tget_tset_same]
  rw [if_pos h]

theorem badUnit_eccHit (a : Nat) : (s.badUnit a).eccHit a 1 = true :=
  List.any_eq_true.2 ⟨_, mem_tset_self s.eccBad (a / 64) true, by simp⟩

/-! ### Power states of a memory channel (R281) -/

theorem enterChan_enters {n st : Nat} {bound : W32} (hb : bound.toNat ≤ s.chanIdle n) (hst : tget 0 s.mgmt.chans n < st) :
    s.enterChan n st bound = s.setChan n st := if_pos ⟨hb, hst⟩

theorem enterChan_stays {n st : Nat} {bound : W32} (h : st ≤ tget 0 s.mgmt.chans n ∨ s.chanIdle n < bound.toNat) :
    s.enterChan n st bound = s := if_neg (by omega)

end

end State

/-! ### The events, as the statement has them -/

section
variable (s : State)

/-- A trip of a die begins and ends as its sensors show (R16, R460). -/
theorem thermalTrip_events (die : BitVec 2) :
    (s.dieHot die.toNat = true → ∃ u : State, Leaves (.thermalTrip die) s u ∧
      u.mgmt.trips = s.mgmt.trips ||| (1#4 <<< die.toNat) ∧ s.SameReads u) ∧
    (¬s.dieHot die.toNat = true → Leaves (.thermalTrip die) s s) ∧
    (s.dieCool die.toNat = true → ∃ u : State, Leaves (.thermalTripEnd die) s u ∧
      u.mgmt.trips = s.mgmt.trips &&& ~~~(1#4 <<< die.toNat) ∧ s.SameReads u) ∧
    (¬s.dieCool die.toNat = true → Leaves (.thermalTripEnd die) s s) :=
  ⟨fun h => ⟨_, leaves_of_eq rfl (if_pos h), s.setTrip_trips die true, s.sameReads_setTrip die true⟩,
    fun h => leaves_of_eq rfl (if_neg h),
    fun h => ⟨_, leaves_of_eq rfl (if_pos h), s.setTrip_trips die false, s.sameReads_setTrip die false⟩,
    fun h => leaves_of_eq rfl (if_neg h)⟩

/-- A new version of the health word, with what the management plane has changed in it (R20). -/
theorem healthWordUpdate_event (h : HealthChange) : ∃ u : State, Leaves (.healthWordUpdate h) s u ∧ s.SameReads u ∧
    u.mgmt.health.ver = s.mgmt.health.ver + 1 ∧ u.mgmt.health.hold = s.mgmt.hold ∧ u.mgmt.health.tbl = s.mgmt.tbl ∧
    u.mgmt.health.trip = s.mgmt.trips ∧ u.mgmt.health.op = s.mgmt.opCur ∧
    (u.mgmt.health.rr = (s.mgmt.health.rr || decide (h ≠ .publish))) ∧
    ∀ k : Nat, tget false u.mgmt.health.fenced k =
      (tget false s.mgmt.health.fenced k || match h with
        | .fence c => decide (c.val = k)
        | _ => false) := by
  refine ⟨_, rfl, s.sameReads_newHealth _, ?_⟩
  rw [State.newHealth_health]
  cases h with
  | fence c => exact ⟨rfl, rfl, rfl, rfl, rfl, by simp [Health.fence], fun k => Health.fence_fenced ..⟩
  | replace => exact ⟨rfl, rfl, rfl, rfl, rfl, by simp, fun k => by simp⟩
  | publish => exact ⟨rfl, rfl, rfl, rfl, rfl, by simp, fun k => by simp⟩

/-- An error that refresh finds is logged; an uncorrectable one away from core scratch stands in its unit (R282, R283). -/
theorem refreshErrorFound_event (addr : BitVec 45) (bad : Bool) (h : bad = false ∨ inWindow addr.toNat = false) :
    ∃ u : State, Leaves (.refreshErrorFound addr bad) s u ∧ s.SameReads u ∧
    ((tget {} s.mgmt.logs 0).entries.length < 256 →
      ∃ e, (tget {} u.mgmt.logs 0).entries = (tget {} s.mgmt.logs 0).entries ++ [e] ∧ e.addr = addr.setWidth 64 ∧
        e.severity = (if bad then 1 else 0) ∧ e.cyc = BitVec.ofNat 64 s.cyc) ∧
    (bad = true → u.eccHit addr.toNat 1 = true) ∧ (bad = false → u.eccBad = s.eccBad) := by
  cases bad with
  | false =>
    exact ⟨_, rfl, fun _ _ _ => rfl, fun hl => ⟨_, s.depositSev_entries _ _ _ _ hl, rfl, rfl, rfl⟩, nofun, fun _ => rfl⟩
  | true =>
    have hout : s.memErrorTurn addr.toNat = s.badUnit addr.toNat := if_neg (by simpa using h)
    exact ⟨_, leaves_of_eq rfl (congrArg (State.depositSev · 0 4 1 (zext addr)) hout), fun _ _ _ => rfl,
      fun hl => ⟨_, (s.badUnit addr.toNat).depositSev_entries _ _ _ _ hl, rfl, rfl, rfl⟩,
      fun _ => s.badUnit_eccHit _, nofun⟩

end

/-- What befalls the module beside its resets, the events in the order of the statement. -/
theorem moduleEvents : Claims.ModuleEvents := by
  intro s
  refine ⟨fun hl hr => ?_, fun hl => leaves_of_eq rfl (s.loseLink_down hl), rfl,
    fun gid g hg hh ht => ⟨fun hx => leaves_of_eq rfl (s.lossDiscard_unsealed hg hh ht hx),
      fun x hx => leaves_of_eq rfl (s.lossDiscard_sealed hg hh ht hx)⟩,
    fun gid g hg h => leaves_of_eq rfl (s.lossDiscard_early hg h), fun die => ?_, fun h => leaves_of_eq rfl (if_pos h),
    fun h => leaves_of_eq rfl (if_neg (by simp [h])), healthWordUpdate_event s, fun c ha hb => ?_, refreshErrorFound_event s,
    fun addr hw ha hb => ?_, fun ch => ?_, fun _ => rfl⟩
  · -- the link drops
    exact ⟨_, leaves_of_eq rfl (s.loseLink_ready hl hr), rfl, rfl, rfl, rfl, fun _ _ _ => rfl, rfl⟩
  · -- a die, and its sensors
    dsimp only
    rw [← State.dieHot_iff, ← State.dieCool_iff]
    obtain ⟨trips, stays, ends, goesOn⟩ := thermalTrip_events s die
    refine ⟨trips, stays, ends, goesOn, fun n v hn => ⟨by simp, fun hv => ?_⟩⟩
    rw [s.sensorTurn_hotAt (State.sensorDie_of_mem hn) hv, tget_tset_same]
  · -- an error in the memory of an idle core
    refine ⟨_, leaves_of_eq rfl (State.coreError_idle ha hb), ?_⟩
    rw [State.newHealth_health]
    exact ⟨tget_tset_same .., rfl, rfl⟩
  · -- refresh finds one in an idle core's scratch
    have hcore : s.memErrorTurn addr.toNat = s.newHealth fun x => x.fence (windowCore addr.toNat) :=
      (if_pos hw).trans (State.coreError_idle ha hb)
    refine ⟨_, leaves_of_eq rfl (congrArg (State.depositSev · 0 4 1 (zext addr)) hcore), ?_⟩
    rw [State.depositSev_health, State.newHealth_health]
    exact tget_tset_same ..
  · -- a channel
    exact ⟨fun hst hb => leaves_of_eq rfl (s.enterChan_enters hb (Nat.lt_one_iff.2 hst)),
      fun h => leaves_of_eq rfl (s.enterChan_stays (h.imp_left Nat.one_le_iff_ne_zero.2)),
      fun hst hb => leaves_of_eq rfl (s.enterChan_enters hb hst), fun h => leaves_of_eq rfl (s.enterChan_stays h)⟩

/-- Settles O59: a function-level reset is a filter of the control plane's tables, which no discard touches; a module reset
and the events are read off the lemmas of their functions. -/
theorem resetsAndEvents : Obligations.ResetsAndEvents := ⟨resetsClear, moduleEvents⟩

end Sys2Proof.Machine
